-- ==== Sys2Proof/Word.lean ====
section
/-! DEFINITION. The words of the block: bytes, 32- and 64-bit words, the 64 B host line and the 256 B line
(Table 0-2), bit ranges, and the sparse table type in which the state holds data by key. -/

namespace Sys2Proof

/-- A byte. -/
abbrev Byte := BitVec 8
/-- A CSR or a word of a message body. -/
abbrev W32 := BitVec 32
/-- A Syned register or instruction word. -/
abbrev W64 := BitVec 64
/-- The 64 B host line of Table 0-2, byte 0 in bits [7:0] (R7). -/
abbrev HLine := BitVec 512
/-- The 256 B line of Table 0-2, byte 0 in bits [7:0] (R7). -/
abbrev Line := BitVec 2048

/-- Sparse data by key: pairs of a key and a value, keys rising, no key twice. -/
abbrev Tbl (α : Type) := List (Nat × α)

/-- Bits [hi:lo] of a number, as a number. -/
def bitsOf (w hi lo : Nat) : Nat := (w >>> lo) % 2 ^ (hi + 1 - lo)

/-- Bit i of a number. -/
def bitOf (w i : Nat) : Bool := (w >>> i) % 2 == 1

/-- The number of a flag. -/
def flag (b : Bool) : Nat := if b then 1 else 0

/-- Division rounded up. -/
def ceilDiv (a b : Nat) : Nat := (a + b - 1) / b

end Sys2Proof
end

