-- ==== Sys2Proof/Syntax.lean ====
section
/-! DEFINITION. The commands of the block: one constructor per row of spec/opcode_table.json, with the operands the
row's rule gives it. Where a command reports something of the world outside the block (how a read decoded, what a
sense input reads, which samples a strap gave), that is an operand of it (log 4). -/

namespace Sys2Proof

/-- What the inline SEC-DED of device DRAM finds while a request is looked up: nothing; one tag copy uncorrectable;
both (R112); the line's data uncorrectable (R113); the map entry (R179); the die-directory word (R176). -/
inductive Dram where
  | ok
  | tagOne
  | tagBoth
  | data
  | mapEntry
  | dieWord
  deriving DecidableEq, Repr

/-- Why a receiver discards a flit (R379). -/
inductive BadFlit where
  | uncorrectable
  | crc
  | sequence
  deriving DecidableEq, Repr

/-- How one decode of a slot ended (Table 6-2, R181, R200, R431): decoded with a count of corrected bits; uncorrectable;
decoded with a failing MAC; AUTO data not ready (R394); the tag slot of the transfer uncorrectable. -/
inductive Decoded where
  | ok (bits : Nat)
  | uncorrectable
  | macFail
  | autoErr
  | tagSlot
  deriving DecidableEq, Repr

/-- Who handed the reporting mule its descriptor (R20): a context, HS1 for the write-back of a page, or HS5. -/
inductive Mule where
  | ctx (e c : Nat)
  | page (p : Nat)
  | flush
  deriving DecidableEq, Repr

/-- A die that answers on a CS_N at bring-up (R102): descriptor page 0 and the bad-frame list pages behind it as they read (Table 3-8),
and whether it trains (R407). -/
structure DieInfo where
  ch : Nat
  die : Nat
  page0 : BitVec 2048
  lists : List (BitVec 2048)
  trains : Bool
  deriving DecidableEq, Repr

/-- What the device meets outside itself when a start phase ends: the dies that answer, the size of each enabled
DRAM channel and the data rate that trained, the key IDs whose newest record does not verify (R417); of the serial NOR part, whether
it is usable (R504), which copies of its records (SEQ, copy) no longer verify, which records' two copies differ (R508), and whether the
next tally cell fails its verify 3 times (R491). -/
structure StartEnv where
  dies : List DieInfo := []
  dramGib : List Nat := []
  dramRate : Nat × Nat := (25600, 3)
  badKeys : List Nat := []
  norUsable : Bool := true
  norLost : List (Nat × Nat) := []
  norDiffer : List Nat := []
  tallyFail : Bool := false
  deriving DecidableEq, Repr

/-- The commands (spec/opcode_table.json). -/
inductive Instr where
  /-- RD64 (R55). -/
  | rd64 (port session tag addr : Nat) (dram : Dram)
  /-- RD256 (R32). -/
  | rd256 (port session tag addr : Nat) (dram : Dram)
  /-- WR64 (R64). -/
  | wr64 (port session tag addr : Nat) (d : HLine) (dram : Dram)
  /-- WR256 (R31). -/
  | wr256 (port session tag addr : Nat) (d : Line) (dram : Dram)
  /-- WRP (R55). -/
  | wrp (port session tag addr : Nat) (mask : BitVec 64) (d : HLine) (dram : Dram)
  /-- ACC (R33). -/
  | acc (port session tag addr : Nat) (d : HLine) (dram : Dram)
  /-- MGT_READ (R373). -/
  | mgtRead (port session tag : Nat) (buffer : Bool) (addr words : Nat)
  /-- MGT_WRITE (R373). -/
  | mgtWrite (port session tag : Nat) (buffer : Bool) (addr : Nat) (ws : List W32)
  /-- MGT_OPEN (R372). -/
  | mgtOpen (port session tag target : Nat) (admin : Bool)
  /-- MGT_CLOSE (R372). -/
  | mgtClose (port session tag target : Nat)
  /-- PROTOCOL_ERROR (R381). -/
  | protocolError (port : Nat)
  /-- BAD_FLIT (R379). -/
  | badFlit (port : Nat) (why : BadFlit)
  /-- CREDIT (R369). -/
  | credit (port vc n : Nat)
  /-- NAK (R379). -/
  | nak (port expSeq : Nat)
  /-- INIT (R377). -/
  | linkInit (port : Nat) (keep : Bool) (vc2 vc3 ack : Nat)
  /-- TRAIN_DETECTED (R375). -/
  | trainDetected (port : Nat)
  /-- DOWN_RECEIVED (R377). -/
  | downReceived (port reason : Nat)
  /-- NAK_REPEAT (R379). -/
  | nakRepeat (port : Nat)
  /-- REPLAY_TIMEOUT (R379). -/
  | replayTimeout (port : Nat)
  /-- CREDIT_RETURN_TIMER (R369). -/
  | creditReturnTimer (port vc : Nat)
  /-- SKIP_SEND (R358). -/
  | skipSend (port : Nat)
  /-- KEEP_WINDOW_EXPIRY (R377). -/
  | keepWindowExpiry (port : Nat)
  /-- TRAINING_PHASE_DONE (R375). -/
  | trainingPhaseDone (port : Nat)
  /-- TRAINING_PHASE_TIMEOUT (R375). -/
  | trainingPhaseTimeout (port : Nat)
  /-- TRAIN_RETRY (R375). -/
  | trainRetry (port : Nat)
  /-- TOKEN_REFILL (R264). -/
  | tokenRefill
  /-- NTF_SEND (R308). -/
  | ntfSend (port session : Nat)
  /-- TASK_RUN (R303). -/
  | taskRun (e c q : Nat) (d : BitVec 512)
  /-- HCALL (R313). -/
  | hcall (e c q : Nat) (d : BitVec 512)
  /-- QOPEN (R301). -/
  | qopen (e c q : Nat) (d : BitVec 512)
  /-- QCLOSE (R302). -/
  | qclose (e c q : Nat) (d : BitVec 512)
  /-- PLOAD (R303). -/
  | pload (e c q : Nat) (d : BitVec 512)
  /-- COMPLETION_WRITE (R307). -/
  | completionWrite (e c : Nat)
  /-- STEP (R335). -/
  | step (e c : Nat)
  /-- JMP (R335). -/
  | jmp (e c : Nat)
  /-- BR (R336). -/
  | br (e c : Nat)
  /-- LOOP (R335). -/
  | loop (e c : Nat)
  /-- WAIT_TIMER (R337). -/
  | waitTimer (e c : Nat)
  /-- WAIT_NOTIFY (R310). -/
  | waitNotify (e c : Nat)
  /-- CALL (R296). -/
  | call (e c : Nat)
  /-- CALL_HOUSE (R313). -/
  | callHouse (e c : Nat)
  /-- RET (R296). -/
  | ret (e c : Nat)
  /-- END (R340). -/
  | endTask (e c : Nat)
  /-- YIELD (R295). -/
  | yield (e c : Nat)
  /-- SET (R335). -/
  | set (e c : Nat)
  /-- ADD (R335). -/
  | add (e c : Nat)
  /-- AND (R335). -/
  | and (e c : Nat)
  /-- OR (R335). -/
  | or (e c : Nat)
  /-- XOR (R335). -/
  | xor (e c : Nat)
  /-- SHF (R335). -/
  | shf (e c : Nat)
  /-- CMP (R335). -/
  | cmp (e c : Nat)
  /-- LD (R335). -/
  | ld (e c : Nat) (dram : Dram)
  /-- ST (R335). -/
  | st (e c : Nat) (dram : Dram)
  /-- MOVE (R338). -/
  | move (e c : Nat) (dram : Dram)
  /-- COPY (R338). -/
  | copy (e c : Nat) (dram : Dram)
  /-- FILL (R338). -/
  | fill (e c : Nat) (dram : Dram)
  /-- FENCE (R339). -/
  | fence (e c : Nat)
  /-- POSTED_UNIT_DONE (R339). -/
  | postedUnitDone (e c : Nat) (dram : Dram)
  /-- STRM_DEF (R318). -/
  | strmDef (e c : Nat)
  /-- STRM_GO (R323). -/
  | strmGo (e c : Nat)
  /-- STRM_STOP (R323). -/
  | strmStop (e c : Nat)
  /-- STRM_STOP_DROP (R323). -/
  | strmStopDrop (e c : Nat)
  /-- STRM_STAT (R335). -/
  | strmStat (e c : Nat)
  /-- RGN_DEF (R38). -/
  | rgnDef (e c : Nat)
  /-- RGN_ATTR (R48). -/
  | rgnAttr (e c : Nat)
  /-- RGN_DROP (R49). -/
  | rgnDrop (e c : Nat)
  /-- RGN_DROP_DRAIN_END (R49). -/
  | rgnDropDrainEnd (region : Nat)
  /-- MAP_TRIM (R51). -/
  | mapTrim (e c : Nat)
  /-- MAP_TRIM_POISON (R52). -/
  | mapTrimPoison (e c : Nat)
  /-- MAP_QUERY (R335). -/
  | mapQuery (e c : Nat)
  /-- CKPT (R245). -/
  | ckpt (e c : Nat)
  /-- CACHE_ON (R133). -/
  | cacheOn (e c : Nat)
  /-- CACHE_ON_FORCE (R133). -/
  | cacheOnForce (e c : Nat)
  /-- CACHE_OFF (R130). -/
  | cacheOff (e c : Nat)
  /-- CACHE_OFF_FORCE (R131). -/
  | cacheOffForce (e c : Nat)
  /-- CACHE_WAYS (R114). -/
  | cacheWays (e c : Nat)
  /-- CACHE_FLUSH (R127). -/
  | cacheFlush (e c : Nat)
  /-- CACHE_CLEAN (R127). -/
  | cacheClean (e c : Nat)
  /-- CACHE_INVAL (R128). -/
  | cacheInval (e c : Nat)
  /-- CACHE_ZERO (R129). -/
  | cacheZero (e c : Nat) (dram : Dram)
  /-- SCRUB_RANGE (R216). -/
  | scrubRange (e c : Nat) (found : List (Nat × Decoded)) (badHeaders : List Nat) (shifts : List (Nat × Nat)) (us : Nat)
  /-- SCRUB_RATE (R213). -/
  | scrubRate (e c : Nat)
  /-- MEDIA_RAWRD (R229). -/
  | mediaRawrd (e c : Nat)
  /-- MEDIA_RAWWR (R228). -/
  | mediaRawwr (e c : Nat)
  /-- MEDIA_RETIRE (R226). -/
  | mediaRetire (e c : Nat)
  /-- CAL_RUN (R193). -/
  | calRun (e c : Nat)
  /-- LBL_SET (R257). -/
  | lblSet (e c : Nat)
  /-- LBL_SET_LIMIT (R260). -/
  | lblSetLimit (e c : Nat)
  /-- LEDG_ADMIT (R272). -/
  | ledgAdmit (e c : Nat)
  /-- LEDG_DROP (R274). -/
  | ledgDrop (e c : Nat)
  /-- LEDG_QUERY (R346). -/
  | ledgQuery (e c : Nat)
  /-- SLOT_LOAD (R277). -/
  | slotLoad (e c : Nat)
  /-- SLOT_SWAP (R278). -/
  | slotSwap (e c : Nat)
  /-- ARB_CFG (R283). -/
  | arbCfg (e c : Nat)
  /-- ARB_READ (R285). -/
  | arbRead (e c : Nat)
  /-- KEY_LOAD (R416). -/
  | keyLoad (e c : Nat)
  /-- KEY_RETIRE (R349). -/
  | keyRetire (e c : Nat)
  /-- KEY_QUERY (R335). -/
  | keyQuery (e c : Nat)
  /-- XTS_ENC (R437). -/
  | xtsEnc (e c : Nat) (faults : List Nat)
  /-- XTS_DEC (R437). -/
  | xtsDec (e c : Nat)
  /-- CLAIM (R315). -/
  | claim (e c : Nat)
  /-- CLAIM_FORCE (R317). -/
  | claimForce (e c : Nat)
  /-- FREE (R316). -/
  | free (e c : Nat)
  /-- RAIL_CFG (R445). -/
  | railCfg (e c : Nat)
  /-- THERM_CFG (R335). -/
  | thermCfg (e c : Nat)
  /-- EVT_READ (R497). -/
  | evtRead (e c : Nat)
  /-- EVT_READ_SNAP (R497). -/
  | evtReadSnap (e c : Nat)
  /-- PERF_CFG (R500). -/
  | perfCfg (e c : Nat)
  /-- PERF_DUMP (R500). -/
  | perfDump (e c : Nat)
  /-- NV_PUT (R507). -/
  | nvPut (e c : Nat)
  /-- NV_GET (R508). -/
  | nvGet (e c : Nat)
  /-- RESET_KIND_0 (R350). -/
  | resetKind0 (e c : Nat)
  /-- RESET_KIND_1 (R350). -/
  | resetKind1 (e c : Nat)
  /-- RESET_KIND_2 (R350). -/
  | resetKind2 (e c : Nat)
  /-- H_INIT (R218). -/
  | hInit (e c : Nat)
  /-- H_FORMAT (R136). -/
  | hFormat (e c : Nat)
  /-- H_FLUSH_ALL (R313). -/
  | hFlushAll (e c : Nat)
  /-- H_SCRUB_RANGE (R216). -/
  | hScrubRange (e c : Nat) (found : List (Nat × Decoded)) (badHeaders : List Nat) (shifts : List (Nat × Nat)) (us : Nat)
  /-- H_SECURE_ERASE (R349). -/
  | hSecureErase (e c : Nat)
  /-- H_KEY_ROLL (R313). -/
  | hKeyRoll (e c : Nat)
  /-- H_REKEY (R432). -/
  | hRekey (e c : Nat)
  /-- H_STREAM_LOOP (R314). -/
  | hStreamLoop (e c : Nat)
  /-- H_REBUILD (R248). -/
  | hRebuild (e c : Nat)
  /-- QD_TAIL (R306). -/
  | qdTail (port session tag q v : Nat)
  /-- QD_CHEAD (R306). -/
  | qdChead (port session tag q v : Nat)
  /-- ID_BOOT_GO (R480). -/
  | idBootGo (port session tag len : Nat)
  /-- ID_BOOT_FUSE (R481). -/
  | idBootFuse (port session tag : Nat)
  /-- PERF_COUNTER_READ (R499). -/
  | perfCounterRead (port session tag ctr : Nat)
  /-- CSR_WRITE (R10). -/
  | csrWrite (port session tag off : Nat) (v : W32)
  /-- SMB_STATUS (R462). -/
  | smbStatus
  /-- SMB_TEMPS (R462). -/
  | smbTemps
  /-- SMB_ALERT_CLR (R463). -/
  | smbAlertClr
  /-- SMB_RESTART (R462). -/
  | smbRestart (v : Byte)
  /-- SMB_ALERT_RESPONSE (R463). -/
  | smbAlertResponse
  /-- PFAIL_N_FALL (R236). -/
  | pfailNFall
  /-- VIN_SNS_LOW (R448). -/
  | vinSnsLow (mv : Nat)
  /-- RESET_N_LOW (R473). -/
  | resetNLow
  /-- RESET_N_RISE (R465). -/
  | resetNRise
  /-- STRAP_WINDOW_END (R465). -/
  | strapWindowEnd (samples : List (BitVec 13))
  /-- VAUX_COLLAPSE (R440). -/
  | vauxCollapse (mv : Nat)
  /-- VAUX_RISE (R440). -/
  | vauxRise (mv : Nat)
  /-- POWER_UP_START (R449). -/
  | powerUpStart (mv : Nat)
  /-- POWER_UP_STEP (R443). -/
  | powerUpStep
  /-- RAIL_ENABLE_TIMEOUT (R443). -/
  | railEnableTimeout (rail : Nat)
  /-- RAIL_PG_CHANGE (R444). -/
  | railPgChange (rail : Nat) (level : Bool) (chatter : Nat)
  /-- RAIL_SENSE_SAMPLE (R444). -/
  | railSenseSample (mvs : List Nat) (vin vaux : Nat)
  /-- RAIL_RETRY_EXPIRY (R445). -/
  | railRetryExpiry (rail : Nat)
  /-- RAIL_INCIDENT_END (R445). -/
  | railIncidentEnd (rail : Nat)
  /-- FLUSH_STEP_DONE (R239). -/
  | flushStepDone (faulted unread : List Nat)
  /-- FLUSH_COMPLETE (R450). -/
  | flushComplete (pfailN : Bool) (mv : Nat)
  /-- FLUSH_RESTART_DELAY (R237). -/
  | flushRestartDelay (pfailN : Bool) (mv : Nat)
  /-- RESET_FLUSH_TIMEOUT (R254). -/
  | resetFlushTimeout
  /-- POWER_DOWN (R451). -/
  | powerDown
  /-- POWER_DOWN_STEP (R451). -/
  | powerDownStep (vauxOk : Bool) (records : Nat)
  /-- NOR_WRITE_ABANDON (R453). -/
  | norWriteAbandon
  /-- TEMP_SAMPLE (R454). -/
  | tempSample (temps : List Int) (speeds : List Nat)
  /-- ORDERLY_STOP_DRAIN_END (R457). -/
  | orderlyStopDrainEnd
  /-- THERMAL_RESTART (R458). -/
  | thermalRestart
  /-- KEEPALIVE_MISSING (R460). -/
  | keepaliveMissing
  /-- HS_STEP_TIMEOUT (R460). -/
  | hsStepTimeout (hs : Nat)
  /-- FLUSH_STALL (R460). -/
  | flushStall
  /-- JTAG_INSTRUCTION (R528). -/
  | jtagInstruction (ir : Nat)
  /-- JTAG_TAP_RESET (R528). -/
  | jtagTapReset
  /-- START_PHASE_DONE (R482). -/
  | startPhaseDone (env : StartEnv)
  /-- REBUILD_STEP_DONE (R248). -/
  | rebuildStepDone (lost : List Nat) (ms : Nat)
  /-- RESTORED_LINES_SEALED (R252). -/
  | restoredLinesSealed (badReserve : List Nat)
  /-- MULE_REPORT (R20). -/
  | muleReport (m : Mule) (fault : Option Nat) (dram : Dram)
  /-- MEDIA_READ_DECODED (R182). -/
  | mediaReadDecoded (line : Nat) (r : Decoded)
  /-- RE_READ_DONE (R182). -/
  | reReadDone (line : Nat) (r : Decoded) (shifts : List Int)
  /-- FILL_COMPLETE (R126). -/
  | fillComplete (line : Nat)
  /-- LANE_PROTECTED_RUN_END (R172). -/
  | laneProtectedRunEnd (ch : Nat)
  /-- DIE_ALERT (R403). -/
  | dieAlert (ch : Nat)
  /-- DIE_STATUS_RECORD (R403). -/
  | dieStatusRecord (ch die : Nat) (record : BitVec 128)
  /-- WBB_ENTRY_FREED (R120). -/
  | wbbEntryFreed
  /-- WRITE_BACK_START (R122). -/
  | writeBackStart (page : Nat) (found : List (Nat × Decoded)) (dramBad : List Nat)
  /-- PAGE_COPY_PROGRAMMED (R148). -/
  | pageCopyProgrammed (page : Nat) (pass : Bool)
  /-- JOURNAL_RECORD_START (R156). -/
  | journalRecordStart
  /-- JOURNAL_BODY_VERIFIED (R156). -/
  | journalBodyVerified (pass : Bool)
  /-- SEAL_VERIFIED (R149). -/
  | sealVerified (pass : Bool)
  /-- MONOTONE_PROGRAM_DONE (R88). -/
  | monotoneProgramDone (page line step : Nat) (pass : Bool)
  /-- MIGRATION_START (R152). -/
  | migrationStart (page : Nat) (found : List (Nat × Decoded))
  /-- RECLAIM_START (R157). -/
  | reclaimStart (ch : Nat) (found : List (Nat × Decoded))
  /-- FRAME_CLEAR_START (R141). -/
  | frameClearStart (ch : Nat)
  /-- CLEAR_DONE (R221). -/
  | clearDone (ch : Nat) (pass : Bool) (parityBad : Bool)
  /-- TREE_REBUILT (R224). -/
  | treeRebuilt (ch : Nat) (parityBad : Bool) (badGroups badHeaders : List Nat)
  /-- INTEGRITY_FRAME_CLOSE (R143). -/
  | integrityFrameClose (ch use : Nat)
  /-- FRAME_RETIRE (R225). -/
  | frameRetire (fx : Nat) (found : List (Nat × Decoded))
  /-- LEDGER_REVALIDATE (R286). -/
  | ledgerRevalidate
  /-- SCRUB_PASS_START (R210). -/
  | scrubPassStart (ch : Nat)
  /-- RELOCATION_START (R205). -/
  | relocationStart (ch : Nat) (found : List (Nat × Decoded))
  /-- PATCH_FRAME_MOVE (R208). -/
  | patchFrameMove (ch : Nat) (found : List (Nat × Decoded))
  /-- PATCH_REPAIR_CHECK (R208). -/
  | patchRepairCheck (ch : Nat) (r : Decoded) (parityBad : Bool)
  /-- OPERATING_SECOND (R487). -/
  | operatingSecond (found : List (Nat × Decoded)) (badHeaders : List Nat) (shifts : List (Nat × Nat))
  /-- STAMP_TABLE_APPEND (R215). -/
  | stampTableAppend
  /-- CHECKPOINT_START (R245). -/
  | checkpointStart
  /-- CHECKPOINT_SEAL_VERIFIED (R245). -/
  | checkpointSealVerified
  /-- REKEY_BATCH (R433). -/
  | rekeyBatch (found : List (Nat × Decoded))
  /-- REKEY_COMPLETE (R435). -/
  | rekeyComplete
  /-- DIE_DIRECTORY_REBUILD (R176). -/
  | dieDirectoryRebuild (fx : Nat)
  /-- MAP_ENTRY_RECOVERY (R179). -/
  | mapEntryRecovery (page : Nat) (found : Bool)
  /-- CALIBRATION_START (R193). -/
  | calibrationStart
  /-- PERIODIC_CALIBRATION (R195). -/
  | periodicCalibration
  /-- CALIBRATION_DONE (R196). -/
  | calibrationDone (isPort : Bool) (unit : Nat) (loaded : Bool)
  /-- STREAM_FETCH_ISSUE (R187). -/
  | streamFetchIssue (n : Nat) (dram : Dram)
  /-- STREAM_FLIT_RELEASE (R188). -/
  | streamFlitRelease (n : Nat)
  /-- SLOT_ENTRY_ELAPSE (R279). -/
  | slotEntryElapse (ch : Nat)
  /-- ARBITRATION_DECISION (R284). -/
  | arbitrationDecision (arb : Nat)
  /-- TIMER_EXPIRY (R337). -/
  | timerExpiry (n : Nat)
  /-- LIMIT_MS_EXPIRY (R305). -/
  | limitMsExpiry (e c : Nat)
  /-- CONTEXT_STALL_RECORD (R292). -/
  | contextStallRecord (e c : Nat)
  /-- CREDIT_WAIT_RECORD (R292). -/
  | creditWaitRecord (port us : Nat)
  /-- PERIODIC_DUMP (R503). -/
  | periodicDump
  /-- NV_COMPACTION (R509). -/
  | nvCompaction (area : Nat)
  /-- TRIG_PULSE_END (R341). -/
  | trigPulseEnd (ball : Nat)
  /-- SMB_NACK (R462). -/
  | smbNack (cmd : Byte)
  /-- ACK_ADVANCED (R379). -/
  | ackAdvanced (port ack corrected : Nat)
  deriving DecidableEq, Repr

end Sys2Proof
end

