-- ==== Sys2Proof/Decode.lean ====
section
/-! DEFINITION. The decoder of the opcode table (no row carries bits) and the Syned instruction word (Table 11-1), which
a context's program holds. -/

namespace Sys2Proof

/-- The command a word spells by the table's bits: no row of spec/opcode_table.json carries bits. -/
def decodeTableWord (_nbits _w : Nat) : Option Instr := none

/-- A Syned instruction word by its fields (R324, Table 11-1). -/
structure SWord where
  opcode : BitVec 8
  step : BitVec 4
  expert : Bool
  force : Bool
  long : Bool
  imm : Bool
  a : BitVec 5
  b : BitVec 5
  c : BitVec 5
  d : BitVec 5
  immf : BitVec 28
  deriving DecidableEq, Repr

/-- Read the fields of a Syned word (Table 11-1). -/
def decodeWord (w : W64) : SWord :=
  { opcode := w.extractLsb' 56 8, step := w.extractLsb' 52 4, expert := w.getLsbD 51, force := w.getLsbD 50,
    long := w.getLsbD 49, imm := w.getLsbD 48, a := w.extractLsb' 43 5, b := w.extractLsb' 38 5,
    c := w.extractLsb' 33 5, d := w.extractLsb' 28 5, immf := w.extractLsb' 0 28 }

/-- Write the fields of a Syned word (Table 11-1). -/
def encodeWord (i : SWord) : W64 :=
  i.opcode ++ i.step ++ BitVec.ofBool i.expert ++ BitVec.ofBool i.force ++ BitVec.ofBool i.long
    ++ BitVec.ofBool i.imm ++ i.a ++ i.b ++ i.c ++ i.d ++ i.immf

/-- The opcode as a number. -/
def SWord.op (i : SWord) : Nat := i.opcode.toNat

/-- Bits [hi:lo] of the immediate field. -/
def SWord.fld (i : SWord) (hi lo : Nat) : Nat := bitsOf i.immf.toNat hi lo

/-- Bit n of the immediate field. -/
def SWord.bit (i : SWord) (n : Nat) : Bool := i.immf.getLsbD n

/-- What a row of Tables 11-4 to 11-20 says of an opcode before its own checks: whether the row is marked A, whether it
carries L, whether it lists READ_ONLY, and whether it accepts FORCE (R328, R329). -/
structure OpRow where
  admin : Bool
  lamb : Bool
  readOnly : Bool
  force : Bool
  deriving DecidableEq, Repr

/-- The rows of Table 11-3 by opcode; none for an opcode that is reserved or house-only (R327). -/
def opRow (op : Nat) : Option OpRow :=
  if op ≤ 0x08 ∨ (0x10 ≤ op ∧ op ≤ 0x18) ∨ (0x20 ≤ op ∧ op ≤ 0x23) then some ⟨false, true, false, false⟩
  else match op with
    | 0x28 => some ⟨true, true, false, false⟩
    | 0x29 => some ⟨false, true, false, false⟩
    | 0x2A => some ⟨false, true, false, false⟩
    | 0x2B => some ⟨false, true, false, false⟩
    | 0x30 => some ⟨true, false, false, false⟩
    | 0x31 => some ⟨true, false, false, false⟩
    | 0x32 => some ⟨true, false, false, false⟩
    | 0x33 => some ⟨false, false, false, false⟩
    | 0x34 => some ⟨false, true, false, false⟩
    | 0x35 => some ⟨true, false, false, false⟩
    | 0x38 => some ⟨true, false, false, true⟩
    | 0x39 => some ⟨true, false, false, true⟩
    | 0x3A => some ⟨true, false, false, false⟩
    | 0x3B => some ⟨false, true, false, false⟩
    | 0x3C => some ⟨false, true, false, false⟩
    | 0x3D => some ⟨false, true, false, true⟩
    | 0x3E => some ⟨false, true, true, false⟩
    | 0x40 => some ⟨false, false, false, false⟩
    | 0x41 => some ⟨true, false, false, false⟩
    | 0x42 => some ⟨true, false, false, false⟩
    | 0x43 => some ⟨true, false, false, false⟩
    | 0x44 => some ⟨true, true, false, false⟩
    | 0x45 => some ⟨true, false, false, false⟩
    | 0x48 => some ⟨false, true, false, false⟩
    | 0x49 => some ⟨true, false, false, false⟩
    | 0x4A => some ⟨true, false, false, false⟩
    | 0x4B => some ⟨false, false, false, false⟩
    | 0x4C => some ⟨true, false, false, true⟩
    | 0x4D => some ⟨true, false, false, false⟩
    | 0x4E => some ⟨true, true, false, false⟩
    | 0x4F => some ⟨true, true, false, false⟩
    | 0x50 => some ⟨true, true, false, false⟩
    | 0x51 => some ⟨true, false, false, false⟩
    | 0x52 => some ⟨true, true, false, false⟩
    | 0x53 => some ⟨false, true, false, false⟩
    | 0x54 => some ⟨false, true, false, false⟩
    | 0x58 => some ⟨false, true, false, true⟩
    | 0x59 => some ⟨false, true, false, false⟩
    | 0x5A => some ⟨true, true, false, false⟩
    | 0x5B => some ⟨true, true, false, false⟩
    | 0x5C => some ⟨true, true, false, false⟩
    | 0x5D => some ⟨true, true, false, false⟩
    | 0x5E => some ⟨true, true, false, false⟩
    | 0x5F => some ⟨true, true, false, false⟩
    | 0x60 => some ⟨true, true, false, false⟩
    | 0x61 => some ⟨true, true, false, true⟩
    | _ => none

/-- Register fields a row names: A, B, C, D, and the mask of IMMF bits it names (R325). -/
structure OpUse where
  a : Bool
  b : Bool
  c : Bool
  d : Bool
  immf : Nat
  deriving DecidableEq, Repr

/-- The fields that the row of a word names (Tables 11-4 to 11-20); IMM is named by the register instructions alone. -/
def SWord.use (i : SWord) : OpUse :=
  match i.op with
  | 0x00 => ⟨false, false, false, false, 0xFF⟩
  | 0x01 => ⟨false, false, false, false, 0x1FFF⟩
  | 0x02 => ⟨false, false, false, false, 0xF1FFF⟩
  | 0x03 => ⟨true, false, false, false, 0x1FFF⟩
  | 0x04 => ⟨true, false, false, false, 0xF01⟩
  | 0x05 => ⟨false, false, false, false, if i.bit 27 then 0x80000FF else 0x1FFF⟩
  | 0x10 => if i.imm then ⟨false, false, false, true, if i.long then 0 else 0xFFFFFFF⟩ else ⟨true, false, false, true, 0⟩
  | 0x11 => ⟨true, !i.imm, false, true, if i.imm && !i.long then 0xFFFFFFF else 0⟩
  | 0x12 => ⟨true, !i.imm, false, true, if i.imm && !i.long then 0xFFFFFFF else 0⟩
  | 0x13 => ⟨true, !i.imm, false, true, if i.imm && !i.long then 0xFFFFFFF else 0⟩
  | 0x14 => ⟨true, !i.imm, false, true, if i.imm && !i.long then 0xFFFFFFF else 0⟩
  | 0x15 => ⟨true, !i.imm, false, true, if i.imm then 0x33F else 0x300⟩
  | 0x16 => ⟨true, !i.imm, false, false, if i.imm && !i.long then 0xFFFFFFF else 0⟩
  | 0x17 => ⟨true, false, false, true, 0xCFFFFFF⟩
  | 0x18 => ⟨true, true, false, false, 0xCFFFFFF⟩
  | 0x20 => ⟨true, true, true, false, 0x3⟩
  | 0x21 => ⟨true, true, true, false, 0x2⟩
  | 0x22 => ⟨true, true, true, false, 0x2⟩
  | 0x23 => ⟨false, false, false, true, 0⟩
  | 0x28 => ⟨true, false, false, true, 0⟩
  | 0x29 => ⟨true, false, false, false, 0⟩
  | 0x2A => ⟨true, false, false, false, 0x1⟩
  | 0x2B => ⟨true, false, false, true, 0⟩
  | 0x30 => ⟨true, false, false, false, 0⟩
  | 0x31 => ⟨true, false, false, false, 0⟩
  | 0x32 => ⟨true, false, false, false, 0⟩
  | 0x33 => ⟨true, true, false, false, 0x1⟩
  | 0x34 => ⟨true, false, false, true, 0⟩
  | 0x35 => ⟨false, false, false, true, 0⟩
  | 0x3A => ⟨true, true, false, false, 0⟩
  | 0x3B => ⟨!i.bit 0, !i.bit 0, false, false, 0x1⟩
  | 0x3C => ⟨!i.bit 0, !i.bit 0, false, false, 0x1⟩
  | 0x3D => ⟨!i.bit 0, !i.bit 0, false, false, 0x1⟩
  | 0x3E => ⟨true, true, false, false, 0⟩
  | 0x40 => ⟨true, true, true, false, 0⟩
  | 0x41 => ⟨true, false, false, false, 0⟩
  | 0x42 => ⟨true, true, false, false, 0xF1⟩
  | 0x43 => ⟨true, true, false, false, 0x1⟩
  | 0x44 => ⟨true, true, false, false, 0⟩
  | 0x45 => ⟨true, true, false, false, 0⟩
  | 0x48 => if i.bit 0 then ⟨true, true, true, false, 0x3F01⟩ else ⟨true, false, false, false, 0x3F01⟩
  | 0x49 => ⟨true, false, false, true, 0⟩
  | 0x4A => ⟨true, false, false, false, 0⟩
  | 0x4B => ⟨true, true, false, false, 0⟩
  | 0x4C => ⟨true, true, false, false, 0⟩
  | 0x4D => ⟨true, false, false, false, 0⟩
  | 0x4E => ⟨true, true, false, false, 0x7FFFFF⟩
  | 0x4F => ⟨true, true, true, false, 0x1⟩
  | 0x50 => ⟨true, true, false, false, 0⟩
  | 0x51 => ⟨true, false, false, false, 0⟩
  | 0x52 => ⟨true, false, false, true, 0⟩
  | 0x53 => ⟨true, true, true, true, 0x3F⟩
  | 0x54 => ⟨true, true, true, true, 0x3F⟩
  | 0x58 => ⟨false, false, false, false, 0xFF⟩
  | 0x59 => ⟨false, false, false, false, 0xFF⟩
  | 0x5A => ⟨false, false, false, false, 0x1F3F⟩
  | 0x5B => ⟨false, false, false, false, 0x1FFF⟩
  | 0x5C => ⟨true, !i.bit 0, false, false, 0x1⟩
  | 0x5D => ⟨true, false, false, false, 0xF⟩
  | 0x5F => ⟨true, true, true, false, 0⟩
  | 0x60 => ⟨true, true, false, true, 0⟩
  | 0x61 => ⟨false, false, false, false, 0xF33⟩
  | _ => ⟨false, false, false, false, 0⟩

/-- Whether IMM is a field of the row: the register instructions SET to CMP. -/
def SWord.immRow (i : SWord) : Bool := decide (0x10 ≤ i.op ∧ i.op ≤ 0x16)

/-- Whether every reserved bit of [48:0] is zero (R9, R325). -/
def SWord.reservedOk (i : SWord) : Bool :=
  let u := i.use
  (i.immRow || !i.imm) && (u.a || i.a == 0) && (u.b || i.b == 0) && (u.c || i.c == 0) && (u.d || i.d == 0)
    && i.immf.toNat &&& u.immf == i.immf.toNat

/-- Whether LONG stands where R326 accepts it: on SET, ADD, AND, OR, XOR and CMP, with IMM = 1 and IMMF zero, and not at
program address 8,191. -/
def SWord.longOk (i : SWord) (pc : Nat) : Bool :=
  !i.long || (((0x10 ≤ i.op && i.op ≤ 0x14) || i.op == 0x16) && i.imm && i.immf == 0 && pc != 8191)

/-- Check 1 of R328: opcode, step control and LONG use. -/
def SWord.formOk (i : SWord) (pc : Nat) : Bool :=
  (opRow i.op).isSome && decide (i.step.toNat ≤ 4) && i.longOk pc

/-- Check 2 of R328 but for options: reserved fields, FORCE without EXPERT, FORCE where it is not accepted. -/
def SWord.fieldsOk (i : SWord) : Bool :=
  i.reservedOk && (!i.force || (i.expert && ((opRow i.op).map (·.force)).getD false))

end Sys2Proof
end

