-- ==== Sys2Proof/Config.lean ====
section
/-! DEFINITION. What the spec fixes in figures, and what it leaves open. An opaque constant is a free value: nothing
in Lean can evaluate it or prove a value of it (log 1, log 11, log 12). -/

namespace Sys2Proof.Config

open Sys2Proof

/-! ## Free values -/

/-- The free values: the n-th value that the spec leaves open (log 1). -/
opaque freeValue : Nat → Nat

/-- The keyed hash that chooses the set of a line (R108), by hash key and line address (log 12). -/
opaque cacheHash : Nat → Nat → Nat

/-- The device's own hash of the tally table (R203), by page number (log 12). -/
opaque tallyHash : Nat → Nat

/-- The DRAM channel that a line of the structures and cache areas stands on: the interleave is not given (log 22). -/
opaque dramChannel : Nat → Nat

/-- The inline SEC-DED check byte of an 8-byte word of device DRAM: the code is not given (R228, log 21). -/
opaque secCheck : Nat → Nat

/-- Which word of which arbiter's record for which requester stands at an offset of the AB_ window (R285, log 31): the spec gives
no layout of the window. -/
opaque arbAt : Nat → Option (Nat × Nat × Nat)

/-- What the fuses of TK hold while it is blank (R415, R416): KEY.LOAD unwraps under it (log 23). -/
opaque blankTk : BitVec 256

/-- What a stored line deciphers to under a key set or a tweak other than its own: no value the spec gives (log 10). -/
opaque strangeLine : Nat → Nat → Nat → BitVec 2048

/-- Whether the owner signature of a boot image verifies: ECDSA P-384 with SHA-384 (R477), over the image (log 11). -/
opaque ownerSigOk : List Byte → Bool

/-- The SHA-384 of an image's public key (R478) (log 11). -/
opaque sha384 : List Byte → BitVec 384

/-- Whether a house-table patch carries a good Lannimon signature (R19) (log 11). -/
opaque patchSigOk : List Byte → Bool

/-! ## Status codes (Table 0-5) -/

abbrev OK : Nat := 0x00
abbrev PARTIAL : Nat := 0x01
abbrev BUSY : Nat := 0x02
abbrev DIRTY : Nat := 0x03
abbrev CONFLICT : Nat := 0x04
abbrev LEDGER_FULL : Nat := 0x05
abbrev DENIED : Nat := 0x06
abbrev BAD_OPERAND : Nat := 0x07
abbrev POISON : Nat := 0x08
abbrev INTEGRITY : Nat := 0x09
abbrev EXHAUSTED : Nat := 0x0A
abbrev KEY_FATAL : Nat := 0x0B
abbrev TIMEOUT : Nat := 0x0C
abbrev ABORTED : Nat := 0x0D
abbrev UNCORRECTABLE : Nat := 0x0E
abbrev READ_ONLY : Nat := 0x0F
abbrev LEDGER_REVOKED : Nat := 0x10
abbrev NOT_READY : Nat := 0x11
abbrev CIPHER_FAULT : Nat := 0x12

/-! ## Sizes (Table 0-2 and the chapters' figures) -/

abbrev lineBytes : Nat := 256
abbrev pageBytes : Nat := 4096
abbrev grain : Nat := 0x200000
abbrev unmapped : Nat := 0xFFFFFFFF
abbrev poisoned : Nat := 0xFFFFFFFE
/-- Lines of the write-back buffer (R119). -/
abbrev wbbLines : Nat := 16384
/-- Sets of the tag lookaside (R111). -/
abbrev lookasideSets : Nat := 32768
/-- Entries of the map lookaside: 32 MiB of 4-byte map entries (Table 1-1, R37). -/
abbrev mapSide : Nat := 8388608
/-- Lines of a 64-bit die-directory word: 3 bits for a frame index (R175). -/
abbrev dieWordFrames : Nat := 21
/-- Reference periods that hold the 800 ns of Table 6-1. -/
abbrev runTicks : Nat := 125
/-- Entries of the shared operation table (R28). -/
abbrev tableOps : Nat := 8192
/-- Entries that host requests may fill: the table without the reserve of the house sequencers (R28). -/
abbrev hostOps : Nat := 7168
/-- Reclaim floor F_LO (Table 5-3). -/
abbrev fLo : Nat := 64
/-- Staging floor (Table 5-3). -/
abbrev stagingFloor : Nat := 32
/-- Entries of a poison set (R178). -/
abbrev poisonSetLen : Nat := 65536
/-- Entries of a patch table (R206). -/
abbrev patchLen : Nat := 64
/-- Entries of a relocation queue (R204). -/
abbrev relocLen : Nat := 4096
/-- Highest version (R424). -/
abbrev versionMax : Nat := 0xFFFFFF
/-- ID_PART (Table 0-4). -/
abbrev idPart : Nat := 0x4016A120
/-- JTAG IDCODE (R528). -/
abbrev idCode : Nat := 0x1401645D

/-- Dirty budget in lines by hold-up class (Table 4-3). -/
def budgetLines : Nat → Nat
  | 1 => 4194304
  | 2 => 16777216
  | 3 => 50331648
  | _ => 0

/-- Hold-up energy in mJ by class (Table 4-3). -/
def holdMj : Nat → Nat
  | 1 => 500
  | 2 => 1000
  | 3 => 2000
  | _ => 0

/-- Lowest and highest sense value of each rail, in units of 0.1 mV (Table 15-2, Table 18-4). -/
def railWindow : Nat → Nat × Nat
  | 0 => (7200, 8000)
  | 1 => (7600, 8400)
  | 2 => (17100, 18900)
  | 3 => (7125, 7875)
  | 4 => (17100, 18900)
  | 5 => (9975, 11025)
  | 6 => (4750, 5250)
  | 7 => (11400, 12600)
  | 8 => (9500, 10500)
  | 9 => (8075, 8925)
  | 10 => (11400, 12600)
  | _ => (23750, 26250)

/-- Nominal value of each rail in mV (Table 15-2). -/
def railNominal : Nat → Nat
  | 0 => 750
  | 1 => 800
  | 2 => 1800
  | 3 => 750
  | 4 => 1800
  | 5 => 1050
  | 6 => 500
  | 7 => 1200
  | 8 => 1000
  | 9 => 850
  | 10 => 1200
  | _ => 2500

/-- Up step of each rail (Table 15-2). -/
def railStep : Nat → Nat
  | 0 => 1
  | 1 => 1
  | 2 => 2
  | 3 => 3
  | 4 => 3
  | 5 => 4
  | 6 => 4
  | 7 => 5
  | 8 => 5
  | 9 => 6
  | 10 => 6
  | _ => 7

/-- Class of each rail: 0 privileged, 1 flush path, 2 ordinary (Table 15-2). -/
def railClass : Nat → Nat
  | 0 => 0
  | 1 => 0
  | 2 => 2
  | 9 => 2
  | 10 => 2
  | 11 => 0
  | _ => 1

/-- Whether a rail may take a policy: 0 IGNORE, 1 RETRY, 2 GROUP_OFF, 3 SYS_RESET (Table 15-2). -/
def railAllows (rail policy : Nat) : Bool :=
  match railClass rail with
  | 0 => false
  | 1 => policy == 0 || policy == 3
  | _ => policy < 4

/-- Default policy and group of each rail (Table 15-2). -/
def railDefault : Nat → Nat × Nat
  | 2 => (3, 2)
  | 3 => (3, 3)
  | 4 => (3, 4)
  | 5 => (3, 5)
  | 6 => (3, 6)
  | 7 => (3, 7)
  | 8 => (3, 8)
  | 9 => (1, 1)
  | 10 => (1, 1)
  | _ => (0, 0)

/-- Class number of a recorded event: 16 c + k (R495). -/
def evClass (chapter k : Nat) : Nat := 16 * chapter + k

end Sys2Proof.Config
end

