-- ==== Sys2Proof/Machine/Types.lean ====
section
/-! DEFINITION. The data of which the state is built, block by block. A line comment on a field gives its
width, the rule of spec/ that names it and its reset value; INVENTORY.md lists them. -/

namespace Sys2Proof.Machine

open Sys2Proof

/-! ## Identification, straps, boot (00, 16, 18) -/

/-- The sampled straps (Table 16-1, Table 16-2). -/
structure Straps where
  link : Nat := 0    -- 3 bits; R467, 16_bringup_straps_reset; reset strap, 0 until sampled
  boot : Nat := 0    -- 2 bits; R467, 16_bringup_straps_reset; reset strap, 0 until sampled
  mch : Nat := 0     -- 2 bits; R467, 16_bringup_straps_reset; reset strap, 0 until sampled
  dram : Nat := 0    -- 2 bits; R467, 16_bringup_straps_reset; reset strap, 0 until sampled
  hold : Nat := 0    -- 2 bits; R467, 16_bringup_straps_reset; reset strap, 0 until sampled
  sec : Bool := false   -- 1 bit; R467, 16_bringup_straps_reset; reset strap, 0 until sampled
  test : Bool := false  -- 1 bit; R467, 16_bringup_straps_reset; reset strap, 0 until sampled
  deriving DecidableEq, Repr

/-- Identification, reset, boot and start (ID_ window). -/
structure Boot where
  straps : Straps := {}          -- 13 bits; R470, 16_bringup_straps_reset; reset strap
  strapFault : Bool := false     -- 1 bit; R468, 16_bringup_straps_reset; reset 0
  resetN : Bool := true          -- 1 bit pin RESET_N; R473, 16_bringup_straps_reset; reset high
  inReset : Bool := false        -- 1 bit; R473, 16_bringup_straps_reset; reset 0
  strapWindow : Bool := false    -- 1 bit; R465, 16_bringup_straps_reset; reset 0
  stage : Nat := 0               -- 4 bits STAGE; R481, 16_bringup_straps_reset; reset 0x0
  full : Bool := false           -- 1 bit FULL; R485, 16_bringup_straps_reset; reset 0
  formatted : Bool := false      -- 1 bit FORMATTED; R481, 16_bringup_straps_reset; reset 0
  mismatch : Bool := false       -- 1 bit MISMATCH; R472, 16_bringup_straps_reset; reset 0
  bootUsed : Nat := 0            -- 2 bits BOOT_USED; R481, 16_bringup_straps_reset; reset 0x0
  bootFail : Bool := false       -- 1 bit BOOT_FAIL; R479, 16_bringup_straps_reset; reset 0
  signed : Bool := false         -- 1 bit SIGNED; R481, 16_bringup_straps_reset; reset 0
  patch : Bool := false          -- 1 bit PATCH; R481, 16_bringup_straps_reset; reset 0
  patchRam : List Byte := []     -- patch RAM: the tables that the house sequencers run in place of their ROM; R19, 01_architecture; reset empty
  linkGo : Bool := false         -- 1 bit, GO seen under link-load; R480, 16_bringup_straps_reset; reset 0
  okhSet : Bool := false         -- 1 bit OKH_SET fuse; R481, 16_bringup_straps_reset; reset fuse, PRESUMED 0 (a blank part), log 6
  okh : BitVec 384 := 0          -- 384 bits OKH fuses; R481, 16_bringup_straps_reset; reset fuse, PRESUMED 0 (blank), log 6
  idOkh : BitVec 384 := 0        -- 12 x 32 bits ID_OKH; R481, 16_bringup_straps_reset; reset fuse, PRESUMED 0 (blank), log 6
  norA : List Byte := []         -- boot image slot A of the NOR; R476, 16_bringup_straps_reset; PRESUMED empty, log 6
  norB : List Byte := []         -- boot image slot B of the NOR; R476, 16_bringup_straps_reset; PRESUMED empty, log 6
  irqCause : BitVec 8 := 0       -- 8 bits ID_IRQ causes; R527, 18_signals_electrical_package; reset 0
  irqEn : BitVec 8 := 0          -- 8 bits ID_IRQ EN; R527, 18_signals_electrical_package; reset 0x00
  recMch : Nat := 0              -- STRAP_MCH recorded at H.FORMAT; R472, 16_bringup_straps_reset; PRESUMED 0, log 6
  recMapGib : Nat := 0           -- map area recorded at H.FORMAT, GiB; R472, 16_bringup_straps_reset; PRESUMED 0, log 6
  sysFrames : Bool := false      -- system frames of an H.FORMAT stand on the medium; R484, 16_bringup_straps_reset; PRESUMED false, log 6
  cold : Nat := 2                -- since the power came: 2 the recorder is not reloaded, 1 the clock is not raised yet, 0 done; R488, 17_records_counters_nvstore; reset 2 (power is off)
  resetWait : Nat := 0           -- pending device reset: 0 none, 1 after flush, 2 core reset at 40 ms done; R254, 08_persistence_and_power_fail; reset 0
  tapIr : Nat := 1               -- JTAG instruction: 0 BYPASS 1 IDCODE 2 SAMPLE/PRELOAD 3 EXTEST 4 CLAMP 5 HIGHZ; R528, 18_signals_electrical_package; PRESUMED 1 (IDCODE, IEEE 1149.1), log 6
  deriving DecidableEq, Repr

/-- A section of an image: KIND, ENGINE, program table address, payload (R477). -/
structure BootSection where
  kind : Nat
  engine : Nat
  addr : Nat
  data : List Byte
  deriving DecidableEq, Repr

/-! ## Supervisor (15) -/

/-- One supervised rail (Table 15-2, Table 15-10). -/
structure Rail where
  on : Bool := false        -- 1 bit RAIL_EN; R464, 15_supervision_power_thermal; reset 0
  pg : Bool := false        -- 1 bit debounced PG; R444, 15_supervision_power_thermal; reset 0
  inWin : Bool := false     -- 1 bit last sense sample inside the window; R444, 15_supervision_power_thermal; DESIGN CHOICE 0, log 7
  ramp : Bool := false      -- 1 bit, enabled and not yet good once; R443, 15_supervision_power_thermal; reset 0
  bad : Nat := 0            -- consecutive samples outside the window; R444, 15_supervision_power_thermal; DESIGN CHOICE 0, log 7
  chat : Nat := 0           -- debounced PG changes within the present 1 ms; R444, 15_supervision_power_thermal; DESIGN CHOICE 0, log 7
  sense : Nat := 0          -- 16 bits SENSE mV; R464, 15_supervision_power_thermal; reset 0x0
  policy : Nat := 0         -- 2 bits POLICY; R445, 15_supervision_power_thermal; reset default of Table 15-2
  group : Nat := 0          -- 4 bits GROUP; R445, 15_supervision_power_thermal; reset default of Table 15-2
  alert : Bool := false     -- 1 bit ALERT option of RAIL.CFG; R463, 15_supervision_power_thermal; DESIGN CHOICE 0, log 7
  retries : Nat := 0        -- 2 bits RETRIES; R445, 15_supervision_power_thermal; reset 0x0
  retryOff : Bool := false  -- 1 bit, off for the 1 ms of a RETRY; R445, 15_supervision_power_thermal; reset 0
  stayOff : Bool := false   -- 1 bit, off until the next device reset; R445, 15_supervision_power_thermal; reset 0
  incident : Bool := false  -- 1 bit, a retry incident is open; R445, 15_supervision_power_thermal; reset 0
  inFault : Bool := false   -- 1 bit, the rail is in fault now; R444, 15_supervision_power_thermal; reset 0
  deriving DecidableEq, Repr

/-- One ring-oscillator site (Table 15-5). -/
structure Site where
  temp : Int := 0      -- 16 bits TEMP, 1/16 C; R454, 15_supervision_power_thermal; reset 0x0
  speed : Nat := 0     -- 16 bits SPEED; R455, 15_supervision_power_thermal; reset 0x0
  over115 : Nat := 0   -- consecutive samples at 115 C or more; R456, 15_supervision_power_thermal; reset 0
  over110 : Nat := 0   -- consecutive samples at 110 C or more; R457, 15_supervision_power_thermal; reset 0
  deriving DecidableEq, Repr

/-- An event kept by the Goose island until the next start (R452, R498). -/
structure HeldEvent where
  cls : Nat
  detail : Nat
  deriving DecidableEq, Repr

/-- The Goose island and its pins. -/
structure Goose where
  phase : Nat := 0             -- 4 bits PHASE; R464, 15_supervision_power_thermal; reset 0x0
  vaux : Bool := true          -- 1 bit, VAUX in range; R440, 15_supervision_power_thermal; reset 1 (the state after a VAUX rise), log 5
  vauxMv : Nat := 0            -- 16 bits VAUX mV; R464, 15_supervision_power_thermal; reset 0x0
  vinMv : Nat := 0             -- 16 bits VIN mV; R464, 15_supervision_power_thermal; reset 0x0
  vinGood : Bool := true       -- 1 bit, VIN_SNS at or above 0.90 V; R449, 15_supervision_power_thermal; DESIGN CHOICE 1, log 5
  pfailN : Bool := true        -- 1 bit pin PFAIL_N; R236, 08_persistence_and_power_fail; DESIGN CHOICE high, log 5
  rails : List Rail := []      -- 12 rails; R442, 15_supervision_power_thermal; reset off, defaults of Table 15-2
  fault : BitVec 12 := 0       -- 12 bits FAULT W1C; R464, 15_supervision_power_thermal; reset 0x0
  faultStart : BitVec 12 := 0  -- 12 bits rails in fault since the last start; R463, 15_supervision_power_thermal; reset 0x0
  upStep : Nat := 0            -- power-up step 1 to 7, 0 none, 8 done; R443, 15_supervision_power_thermal; reset 0
  downStep : Nat := 0          -- power-down step, 0 none; R451, 15_supervision_power_thermal; reset 0
  wedge : Bool := false        -- 1 bit WEDGE; R460, 15_supervision_power_thermal; reset 0
  lockout : Bool := false      -- 1 bit LOCKOUT; R458, 15_supervision_power_thermal; reset 0
  cutAll : Bool := false       -- 1 bit, stopped by a cut-all; R445, 15_supervision_power_thermal; reset 0
  thermalStop : Bool := false  -- 1 bit, off after a trip or orderly stop; R458, 15_supervision_power_thermal; reset 0
  lastCause : Nat := 0         -- 8 bits LAST_CAUSE; R464, 15_supervision_power_thermal; reset 0x00
  downCause : Nat := 0         -- cause of the power-down in progress; R464, 15_supervision_power_thermal; reset 0
  restarts : List Nat := []    -- automatic restarts, UPTIME of each; R458, 15_supervision_power_thermal; reset none
  ms : Nat := 0                -- milliseconds of the present second of UPTIME, one for each temperature sample; R454, 15_supervision_power_thermal; reset 0
  uptime : Nat := 0            -- 32 bits UPTIME s; R463, 15_supervision_power_thermal; reset 0x0
  alive : Bool := false        -- pin ALIVE runs; R459, 15_supervision_power_thermal; reset low
  smbAlert : Bool := false     -- pin SMB_ALERT_N asserted; R463, 15_supervision_power_thermal; reset released
  stopping : Bool := false     -- 1 bit STOPPING; R457, 15_supervision_power_thermal; reset 0
  held : List HeldEvent := []  -- retained events; R452, 15_supervision_power_thermal; reset none
  norBusy : Bool := false      -- a NOR or event write is in progress; R453, 15_supervision_power_thermal; reset 0
  hold10 : Bool := false       -- the 10 ms of R450 after a flush run; R450, 15_supervision_power_thermal; reset 0
  sites : List Site := []      -- 8 sites; R454, 15_supervision_power_thermal; reset zero
  tmax : Int := 0              -- 16 bits TMAX; R464, 15_supervision_power_thermal; reset 0x0
  tmaxSite : Nat := 0          -- 3 bits TMAX_SITE; R464, 15_supervision_power_thermal; reset 0x0
  warn : Bool := false         -- 1 bit WARN; R464, 15_supervision_power_thermal; reset 0
  trips : Nat := 0             -- 16 bits TH_TRIPS; R464, 15_supervision_power_thermal; reset 0x0
  warnLevel : Nat := 0         -- THERM.CFG level, 0 none; R335, 11_syned_instruction_reference; reset 0 (R333)
  warnNtf : Bool := false      -- THERM.CFG NTF; R335, 11_syned_instruction_reference; reset 0 (R333)
  warnTrig : Option Nat := none -- THERM.CFG TRIG ball; R335, 11_syned_instruction_reference; reset none (R333)
  warnAlert : Bool := false    -- THERM.CFG ALERT; R335, 11_syned_instruction_reference; reset 0 (R333)
  smbOut : List Byte := []     -- bytes of the last SMBus block read; R462, 15_supervision_power_thermal; DESIGN CHOICE none, log 7
  smbNack : Bool := false      -- the last SMBus transaction was refused; R462, 15_supervision_power_thermal; DESIGN CHOICE 0, log 7
  deriving DecidableEq, Repr

/-! ## Plicor Link (12) -/

/-- A notification record (Table 10-8). -/
structure Ntf where
  kind : Nat
  status : Nat
  queue : Nat
  device : Bool
  subject : Nat
  pcc : Nat
  opsec : Nat
  deriving DecidableEq, Repr

/-- A message the device sends (Table 12-6). -/
inductive Msg where
  | cpl (vc session tag status dlen : Nat) (data : Line)
  | ntf (session : Nat) (record : Ntf)
  | strm (stream session fseq status : Nat) (badFirst badLast : Bool) (dcount : Nat) (data : BitVec 896)
  deriving DecidableEq, Repr

/-- A sequenced flit kept for replay (R360): its SEQ, its VC and the message it carries a part of. -/
structure Flit where
  seq : Nat
  vc : Nat
  msg : Msg
  part : Nat
  deriving DecidableEq, Repr

/-- A session of a port (R372). -/
structure Session where
  isOpen : Bool := false       -- 1 bit SESS_OPEN; R384, 12_plicor_link; reset 0
  admin : Bool := false        -- 1 bit SESS_ADMIN; R384, 12_plicor_link; reset 0
  label : Nat := 0             -- 6 bits; R257, 09_ledger_regulation_arbitration; 0 at open
  ntfq : List Ntf := []        -- notification queue, 256 records; R309, 10_syned_programming_model; reset empty
  dropped : Nat := 0           -- COMPLETION records dropped; R309, 10_syned_programming_model; reset 0
  perfLatch : Nat := 0         -- high bits latched by a counter read; R499, 17_records_counters_nvstore; DESIGN CHOICE 0, log 7
  deriving DecidableEq, Repr

/-- One port (Table 12-17 and the link layer). -/
structure Port where
  state : Nat := 0             -- 2 bits STATE; R384, 12_plicor_link; reset 0x0
  elecIdle : Bool := true      -- the transmitter is in electrical idle; R374, 12_plicor_link; reset idle
  phase : Nat := 0             -- training phase 0 DETECT to 4 INIT; R375, 12_plicor_link; reset 0
  rate56 : Bool := false       -- 1 bit RATE, 1 at 56 GBd (112 Gbit/s); R384, 12_plicor_link; reset 0
  retryWait : Bool := false    -- the 10 ms DOWN interval runs; R375, 12_plicor_link; reset 0
  fails : Nat := 0             -- 4 bits FAILS; R384, 12_plicor_link; reset 0x0
  calLoaded : Bool := false    -- 1 bit CAL_LOADED; R384, 12_plicor_link; reset 0
  calNone : Bool := false      -- 1 bit CAL_NONE; R384, 12_plicor_link; reset 0
  keepAsk : Bool := false      -- KEEP the device sends in this training; R377, 12_plicor_link; reset 0
  keepWin : Bool := false      -- the 100 ms KEEP window runs; R377, 12_plicor_link; reset 0
  sessions : List Session := []  -- 8 sessions; R372, 12_plicor_link; reset closed
  txSeq : Nat := 0             -- 10 bits, SEQ of the next sequenced flit; R360, 12_plicor_link; reset 0
  replay : List Flit := []     -- unacknowledged flits, 512; R379, 12_plicor_link; reset empty
  rxExp : Nat := 0             -- 10 bits, SEQ expected next; R379, 12_plicor_link; reset 0
  nakOut : Bool := false       -- a NAK stands and is repeated; R379, 12_plicor_link; reset 0
  lastAck : Nat := 0           -- 10 bits, last ACK received plus one; R379, 12_plicor_link; reset 0
  replaySame : Nat := 0        -- replays in a row from the same SEQ; R380, 12_plicor_link; reset 0
  replayFrom : Nat := 0        -- 10 bits, SEQ of that replay; R380, 12_plicor_link; reset 0
  credit : List Nat := []      -- transmit credits per VC; R368, 12_plicor_link; reset 0
  rem : List Nat := []         -- receive credit not yet returned per VC; R369, 12_plicor_link; reset 0
  returned : List Nat := []    -- credit returned to the host per VC; R369, 12_plicor_link; reset 0
  vc0Held : Bool := false      -- VC0 credit withheld; R28, 01_architecture; reset 0
  txq : List Msg := []         -- built messages waiting to leave; R238, 08_persistence_and_power_fail; reset empty
  sent : List Flit := []       -- sequenced flits sent, newest first; R360, 12_plicor_link; reset empty
  ctrl : List Nat := []        -- control flits sent, newest first: CTYPE of each; R360, 12_plicor_link; reset empty
  skips : Nat := 0             -- SKIP codewords sent; R358, 12_plicor_link; reset 0
  outTags : List Nat := []     -- outstanding tags; R370, 12_plicor_link; reset none
  fecCorr : Nat := 0           -- 32 bits LK_FEC_CORR; R384, 12_plicor_link; reset 0x0
  fecUncorr : Nat := 0         -- 32 bits LK_FEC_UNCORR; R384, 12_plicor_link; reset 0x0
  crcErr : Nat := 0            -- 32 bits LK_CRC_ERR; R384, 12_plicor_link; reset 0x0
  replays : Nat := 0           -- 32 bits LK_REPLAYS; R384, 12_plicor_link; reset 0x0
  proto : Nat := 0             -- 16 bits LK_PROTO; R384, 12_plicor_link; reset 0x0
  tagDup : Nat := 0            -- 16 bits LK_TAG_DUP; R384, 12_plicor_link; reset 0x0
  crWait : Nat := 0            -- 16 bits LK_CRWAIT; R384, 12_plicor_link; reset 0x0
  maxCrWait : Nat := 0         -- 16 bits MAX_CRWAIT; R384, 12_plicor_link; reset 0x0
  downRx : Nat := 0            -- 4 bits DOWN_RX; R384, 12_plicor_link; reset 0x0
  downTx : Nat := 0            -- 4 bits DOWN_TX; R384, 12_plicor_link; reset 0x0
  fell : Bool := false         -- the port failed to train at 56 GBd and keeps 28 GBd; R376, 12_plicor_link; reset 0
  trains : Nat := 0            -- 32 bits LK_TRAINS; R384, 12_plicor_link; reset 0x0
  deriving DecidableEq, Repr

/-! ## Memory requests and fills (02, 04, 06) -/

/-- Who issued a memory operation and waits for its outcome. -/
inductive Who where
  | host (port session tag : Nat)
  | eng (e c : Nat)
  | post (e c : Nat)
  | strm (n k : Nat)
  /-- A host request of a port whose completion has been discarded (R377). -/
  | gone (port : Nat)
  deriving DecidableEq, Repr

/-- The memory operations of Table 2-6 and CACHE.ZERO. -/
inductive MemOp where
  | rd64
  | rd256
  | wr64 (d : HLine)
  | wr256 (d : Line)
  | wrp (mask : BitVec 64) (d : HLine)
  | acc (d : HLine)
  | zero
  deriving DecidableEq, Repr

/-- A request: who, what, where, under which label and privilege, and the reference period it arrived in. -/
structure Req where
  who : Who
  op : MemOp
  addr : Nat
  label : Nat
  sesLabel : Nat
  admin : Bool
  at0 : Nat
  lane : Bool := false
  asked : Bool := false    -- it has asked for the lane of its home channel, once (R171)
  tagged : Bool := false   -- followed by MODE 1 sampling (R501)
  charged : Bool := false  -- its chunk was charged already, by the read of the same unit (Table 9-1)
  held : Bool := false     -- was held at its token bucket (R170, R262)
  dram : Dram := .ok       -- what the SEC-DED of device DRAM finds at its lookup (log 4)
  rways : BitVec 16 := 0   -- way mask of its region at its region lookup (R48)
  looked : Bool := false   -- it is past its region lookup (R48, R49)
  deadline : Option Nat := none -- of a fetch of an admitted stream, ns (R187)
  first : Bool := false    -- it carries the deadline of its fetch's first slot (R182, R191)
  group : Option Nat := none -- its page fetch (R186)
  deriving DecidableEq, Repr

/-- A fill in flight (R126): the stored line's place, the requests it serves in arrival order, its re-read stage. -/
structure Fill where
  ppn : Nat
  reqs : List Req
  merge : Bool
  doomed : Bool
  lane : Bool
  stage : Nat
  interrupted : Bool := false    -- its read suspended or aborted an operation on the die (R172)
  res : Option Nat := none
  data : Line := 0
  readOver : Line := 0           -- accumulates over the stored line that the cache and the buffer no longer hold as a delta (R68)
  overBad : Bool := false    -- one of those accumulates stood in a line that DRAM had lost (R113)
  trimmed : Bool := false    -- a discard waits for the merged line of this fill (R125)
  waits : Bool := false      -- its line waits for a way (R120, R122)
  issued : Bool := false     -- its array read has been issued to the die (R393)
  auto : Bool := false       -- issued with AUTO: a lane read (R395)
  offsets : List Int := []   -- threshold offsets measured by its re-read 1, one for each level (R97, R182)
  spec : Bool := false       -- its RREAD was issued before the slot's full decode had failed (R182)
  deadline : Option Nat := none  -- its deadline, ns: a fetch of an admitted stream (R187)
  first : Bool := false      -- it carries the deadline of its fetch's first slot (R182, R191)
  group : Option Nat := none -- the page fetch of a stream whose array read it shares: stream + 1,024 × the index of its first line (R186)
  deriving DecidableEq, Repr

/-- A cached line (Table 4-2) with its data and its place. -/
structure CLine where
  data : Line
  dirty : Bool
  delta : Bool
  orphan : Bool
  mono : Bool
  poison : Bool
  region : Nat
  label : Nat
  set : Nat
  way : Nat
  used : Nat        -- recency stamp: AGE is the rank of it within the set
  frozen : Bool
  restored : Bool := false
  deriving DecidableEq, Repr

/-- A copy in the write-back buffer (R119). -/
structure WbbLine where
  data : Line
  delta : Bool
  mono : Bool
  poison : Bool
  region : Nat
  deriving DecidableEq, Repr

/-- The cache, its buffers and its registers (04). -/
structure Cache where
  on : Bool := false           -- 1 bit ON; R134, 04_cache; reset 0
  wback : Bool := false        -- 1 bit WBACK; R134, 04_cache; reset 0
  stale : Bool := false        -- a forced CACHE.ON stands, behind STALE; R134, 04_cache; reset 0
  active : Nat := 16           -- 5 bits ACTIVE; R134, 04_cache; reset 0x10
  masks : List (BitVec 16) := []  -- 64 x 16 bits label way masks; R114, 04_cache; reset 0xFFFF each (R116)
  budget : Nat := 0            -- 32 bits CA_BUDGET; R134, 04_cache; DESIGN CHOICE 0 before a start, log 7
  discards : Nat := 0          -- 32 bits CA_DISCARDS; R134, 04_cache; reset 0x0
  sets : Nat := 0              -- 32 bits CA_SETS; R134, 04_cache; DESIGN CHOICE 0 before a start, log 7
  hashKey : Nat := 0           -- set hash key; R108, 04_cache; free value drawn at each start, log 1
  lines : Tbl CLine := []      -- tags and data, by line address [43:8]; R110, 04_cache; reset empty
  wbb : Tbl WbbLine := []      -- write-back buffer, 16,384 lines; R119, 04_cache; reset empty
  fills : Tbl Fill := []       -- address hazard table, fills by line address; R124, 04_cache; reset empty
  waiting : List Req := []     -- requests waiting in the hazard table; R120, 04_cache; reset empty
  thru : List Req := []        -- writes being written through; R123, 04_cache; reset empty
  thruDone : List (Req × Line) := [] -- writes written through whose line waits for a way; R120, 04_cache; reset empty
  lookaside : List Nat := []   -- sets of the tag lookaside, 32,768, most recent first; R111, 04_cache; reset empty
  tag0 : Tbl (List (BitVec 64)) := [] -- tag copy 0 in DRAM: 16 entries of 8 bytes by set; R110, 04_cache; reset empty
  tag1 : Tbl (List (BitVec 64)) := [] -- tag copy 1; R110, 04_cache; reset empty
  cursor : Nat := 0            -- HS1's set cursor; R122, 04_cache; DESIGN CHOICE 0, log 7
  clock : Nat := 0             -- recency counter behind AGE; R110, 04_cache; DESIGN CHOICE 0, log 7
  invalAll : Bool := true      -- a CACHE.INVAL ALL has completed since the last CACHE.OFF; R133, 04_cache; DESIGN CHOICE 1, log 7
  deriving DecidableEq, Repr

/-! ## Regions and map (02, 05) -/

/-- A region (Table 2-2). -/
structure Region where
  base : Nat
  size : Nat
  density : Nat      -- 0 S, 1 T, 2 AUTO
  mono : Bool
  integ : Bool
  key : Nat
  label : Nat
  access : Nat       -- 0 ALL, 1 LABEL, 2 ADMIN
  ways : BitVec 16
  closing : Bool := false
  deriving DecidableEq, Repr

/-- The tweak of a stored line (Table 14-3), by its fields. -/
structure Tweak where
  line : Nat
  version : Nat
  key : Nat
  domain : Nat
  fseq : Nat
  deriving DecidableEq, Repr

/-- A key set (R414): K1, K2, KM. -/
structure KeySet where
  k1 : BitVec 256
  k2 : BitVec 256
  km : BitVec 256
  deriving DecidableEq, Repr

/-- A check record of a monotone pair (Table 3-5): the data slot's content whose parity it holds, the bits of its bytes 0 to 29
that its body program has driven, its COMMIT field. -/
structure CheckRec where
  image : Line
  body : BitVec 240 := BitVec.allOnes 240
  commit : BitVec 16 := 0xFFFF
  deriving DecidableEq, Repr

/-- One stored line: what its cells decipher to under the key set and tweak it was enciphered with, its POISON flag (Table 3-3),
and for a monotone pair the COMMIT field of its header and the check records programmed since, record 1 first (R87). -/
structure LImg where
  plain : Line
  keys : KeySet
  tweak : Tweak
  poison : Bool
  head : BitVec 16 := 0xFFFF
  checks : List CheckRec := []
  deriving DecidableEq, Repr

/-- A stored page: its 16 lines, the page number and version of its spares, its layout. -/
structure PageImg where
  page : Nat
  version : Nat
  mono : Bool
  integ : Bool
  lines : List LImg
  deriving DecidableEq, Repr

/-- A frame that differs from the never-used FREE frame its index starts as (Tables 3-2 and 5-1). -/
structure Frame where
  ch : Nat
  die : Nat
  plane : Nat
  frame : Nat
  bound : Bool
  state : Nat       -- Table 5-1 STATE
  mode : Nat        -- 0 none, 1 S, 2 T, 3 S-mode monotone
  live : Nat
  staged : Bool
  integ : Bool
  order : Nat
  next : Nat        -- next unused page position
  sClears : Nat
  tClears : Nat
  stamp : Nat
  pins : Nat
  hurt : List Nat := []   -- page positions whose content no completed program or clear gives: a program failed or was cut (R225), a clear was cut (R82)
  tags : List Nat := []   -- tag slots programmed while the frame stands open (R430)
  deriving DecidableEq, Repr

/-- Kinds of map change (R148). -/
inductive MoveKind where
  | writeBack
  | writeThru
  | migration
  | reclaim
  | relocation
  | frameMove
  | rekey
  | trim
  | poison
  | drop
  deriving DecidableEq, Repr

/-- A snapshot line of a write-back (R144): its address, its dirty content, whether that is an OR delta. -/
structure Snap where
  line : Nat
  data : Line
  delta : Bool
  deriving DecidableEq, Repr

/-- A map change in flight (R148). Stage 0 copying, 1 copied and waiting for its tag slot, 2 waiting for a journal
record, 3 in a journal record. -/
structure Move where
  kind : MoveKind
  old : Nat
  new : Nat
  snap : List Snap           -- snapshot lines of the page with their content
  img : PageImg
  stage : Nat
  buf : List (Nat × Line)    -- write-back buffer copies of the page at the snapshot
  thru : List Req := []      -- writes that this copy writes through (R123)
  use : Nat := 0             -- open frame that feeds it (Table 5-4, R143)
  steps : Tbl Nat := []      -- step of R88 that each line of an in-place program has completed
  deriving DecidableEq, Repr

/-- A journal map entry (Table 5-10). -/
structure JEntry where
  page : Nat
  new : Nat
  old : Nat
  deriving DecidableEq, Repr

/-- A copy of a map page or a directory page on the medium (R244): its object number and its entries, an unlisted one 0xFFFFFFFF. -/
structure SysPage where
  tag : Nat
  entries : Tbl Nat
  deriving DecidableEq, Repr

/-- A committed journal record: its number and its map entries, or the region change it carries with its ACT (Table 5-8, R342). -/
structure JRec where
  jseq : Nat
  entries : List JEntry
  region : Option (Nat × Option Region)
  act : Nat := 0        -- ACT of the region record: 0 RGN.DEF, 1 RGN.ATTR, 2 RGN.DROP
  place : Nat := 0      -- where it stands: 512 × the frame index of its JOURNAL frame + i, for slots 2i and 2i + 1 (R154)
  deriving DecidableEq, Repr

/-- The two slots of a journal record as they stand on the medium (Tables 5-8 and 5-9): whether the body verifies, the COMMIT field of the
seal slot where that is programmed. -/
structure JSlot where
  rcd : JRec
  body : Bool
  commit : Option (BitVec 16)
  deriving DecidableEq, Repr

/-- The map and its journal (05, 08). -/
structure MapSt where
  map : Tbl Nat := []            -- 32 bits per page, unlisted 0xFFFFFFFF; R37, 02_memory_semantics; reset empty
  regions : Tbl Region := []     -- region table, 256; R38, 02_memory_semantics; reset none
  hcap : Nat := 0                -- HCAP bytes; R43, 02_memory_semantics; PRESUMED 0 before H.FORMAT, log 6
  moves : Tbl Move := []         -- map changes in flight, by page; R148, 05_write_path_and_reclaim; reset none
  waitMoves : List (Nat × MoveKind) := [] -- pages with a second change waiting; R148, 05_write_path_and_reclaim; reset none
  jpend : List JEntry := []      -- entries of the current record; R156, 05_write_path_and_reclaim; reset none
  jregion : List (Nat × Option Region) := []  -- region changes waiting for their record; R342, 11_syned_instruction_reference; reset none
  jbody : Option JRec := none    -- record whose body slot is being programmed; R156, 05_write_path_and_reclaim; reset none
  jready : Option JRec := none   -- record whose body has verified and waits for the previous seal; R156, 05_write_path_and_reclaim; reset none
  jseal : Option JRec := none    -- record whose seal is being programmed; R156, 05_write_path_and_reclaim; reset none
  jseq : Nat := 1                -- 48 bits JSEQ of the next record; R155, 05_write_path_and_reclaim; PRESUMED 1, log 6
  jlog : List JRec := []         -- committed records not yet released, oldest first; R156, 05_write_path_and_reclaim; reset none
  jopen : List (Nat × Nat) := [] -- the open JOURNAL frames, the one that takes the next record first: frame index, next slot pair; R154, 05_write_path_and_reclaim; reset none
  jchan : Nat := 15              -- channel whose JOURNAL frame was opened last; R154, 05_write_path_and_reclaim; DESIGN CHOICE 15, log 7
  jframes : Nat := 0             -- journal slots pairs written since the root; R245, 08_persistence_and_power_fail; reset 0
  changed : List Nat := []       -- map pages changed since the checkpoint; R245, 08_persistence_and_power_fail; reset none
  mapDir : Tbl Nat := []         -- DRAM directory: PPN of the copy of each map page and directory page, by object number; R247, 08_persistence_and_power_fail; reset empty
  staged : List Nat := []        -- staged pages, oldest seal first; R152, 05_write_path_and_reclaim; reset none
  lookaside : List Nat := []     -- pages whose entry the map lookaside holds, 32 MiB of entries, most recent first; R174, 06_read_path_and_latency; reset empty
  mapBad : List Nat := []        -- pages whose map entry is uncorrectable and awaits recovery; R179, 06_read_path_and_latency; reset none
  readOnly : Bool := false       -- READ_ONLY; R71, 02_memory_semantics; reset 0
  deriving DecidableEq, Repr

/-! ## Medium (03, 07, 13) -/

/-- A die descriptor (Table 3-8), the fields the device uses. -/
structure Desc where
  sig : Nat
  dver : Nat
  planes : Nat
  framesPhys : Nat
  framesNom : Nat
  slotsS : Nat
  slotsT : Nat
  endS : Nat
  endT : Nat
  retT : Nat
  retS : Nat
  tRdS : Nat
  tRdT : Nat
  tRef : Nat
  tSusp : Nat
  tRes : Nat
  tProgS : Nat
  tProgT : Nat
  tMprog : Nat
  tRprog : Nat
  tClrS : Nat
  tClrT : Nat
  ckMax : Nat
  capT : Bool
  capMono : Bool
  badCount : Nat
  mfr : Nat
  bad : List (Nat × Nat)     -- bad-frame list: plane, frame
  deriving DecidableEq, Repr

/-- A die as the controller sees it (Tables 13-4 and 13-11). -/
structure Die where
  desc : Option Desc := none        -- descriptor; R102, 03_medium; PRESUMED none fitted, log 6
  present : Bool := false           -- PRESENT bit; R413, 13_bistan_bus; reset 0
  accepted : Bool := false          -- ACCEPTED bit; R413, 13_bistan_bus; reset 0
  pstate : List Nat := [0, 0, 0, 0] -- PSTATE per plane; R403, 13_bistan_bus; reset 0x0
  pres : List Nat := [0, 0, 0, 0]   -- PRES per plane; R403, 13_bistan_bus; reset 0x0
  susp : Bool := false              -- SUSP; R403, 13_bistan_bus; reset 0
  autoerr : Bool := false           -- AUTOERR; R403, 13_bistan_bus; reset 0
  initing : Bool := true            -- INIT; R403, 13_bistan_bus; reset 1
  illop : Nat := 0                  -- ILLOP; R403, 13_bistan_bus; reset 0x00
  halted : Bool := false            -- the controller has suspended its clear or program; R173, 06_read_path_and_latency; reset 0
  runFrom : Nat := 0                -- reference period of that operation's last resume; R173, 06_read_path_and_latency; reset 0
  deriving DecidableEq, Repr

/-- A line patch table entry (R206). -/
structure Patch where
  ppn : Nat
  line : Nat
  img : LImg
  bits : Nat
  moving : Bool
  deriving DecidableEq, Repr

/-- The counts of a SCRUB.RANGE summary (Table 7-3). -/
structure ScrubSum where
  read : Nat := 0
  corr : Nat := 0
  bits : Nat := 0
  maxBits : Nat := 0
  reread : Nat := 0
  uncorr : Nat := 0
  poison : Nat := 0
  queued : Nat := 0
  firstBad : Option Nat := none
  deriving DecidableEq, Repr

/-- A relocation queue entry (R204). -/
structure Reloc where
  page : Nat
  ppn : Nat
  deriving DecidableEq, Repr

/-- A tally entry (R203). -/
structure Tally where
  ppn : Nat
  n : Nat
  born : Nat
  deriving DecidableEq, Repr

/-- A node of a channel's pecking-order tree (Table 7-5). -/
structure TreeNode where
  iminS : Nat := 0xFFFFFFFF
  imaxS : Nat := 0
  iminT : Nat := 0xFFFFFFFF
  imaxT : Nat := 0
  fmaxW : Nat := 0
  fnone : Bool := true
  par : BitVec 5 := 0
  deriving DecidableEq, Repr

/-- One media channel: bus, lane, wear, scrub and pools. -/
structure Chan where
  state : Nat := 0             -- 2 bits STATE; R413, 13_bistan_bus; reset 0x0
  rate : Bool := false         -- 1 bit RATE; R413, 13_bistan_bus; reset 0
  alerts : Nat := 0            -- 32 bits MB_ALERTS; R413, 13_bistan_bus; reset 0x0
  illegal : Nat := 0           -- 16 bits MB_ILLEGAL; R413, 13_bistan_bus; reset 0x0
  autoerr : Nat := 0           -- 16 bits MB_AUTOERR; R413, 13_bistan_bus; reset 0x0
  pfail : Nat := 0             -- 16 bits MB_PFAIL; R413, 13_bistan_bus; reset 0x0
  cfail : Nat := 0             -- 16 bits MB_CFAIL; R413, 13_bistan_bus; reset 0x0
  suspends : Nat := 0          -- 32 bits MB_SUSPENDS; R413, 13_bistan_bus; reset 0x0
  aborts : Nat := 0            -- 32 bits MB_ABORTS; R413, 13_bistan_bus; reset 0x0
  scrKey : Nat := 0            -- 32 bits scramble KEY; R410, 13_bistan_bus; free value drawn at each start, log 1
  rstN : Bool := false         -- pin MCc_RST_N; R411, 13_bistan_bus; reset low
  alertN : Bool := true        -- pin MCc_ALERT_N; R403, 13_bistan_bus; reset high (released)
  csHigh : Bool := true        -- every CS_N held high; R411, 13_bistan_bus; reset high
  ck : Bool := false           -- pins MCc_CK_P/_N run; while they stand low DQ and DQS are high impedance; R411, 13_bistan_bus; reset stopped low
  dies : List Die := []        -- 8 dies by CS_N; R385, 13_bistan_bus; reset none
  laneLine : Option Nat := none -- line address of the read that holds the lane; R171, 06_read_path_and_latency; reset free
  laneRun : Bool := false      -- the 800 ns protected run holds the lane; R172, 06_read_path_and_latency; reset 0
  laneBus : Bool := false      -- the data bus is reserved for the lane between the transfers of its re-reads; R183, 06_read_path_and_latency; reset 0
  strmXfers : List (Nat × Nat) := [] -- stream fetches whose slot waits for the bus: deadline, line; R187, 06_read_path_and_latency; reset none
  strmXfer : Option Nat := none -- line of the stream fetch whose slot the bus took last; R187, 06_read_path_and_latency; reset none
  yielded : Bool := false      -- reclaim has yielded a frame since READ_ONLY began; R168, 05_write_path_and_reclaim; reset 0
  laneGrants : Nat := 0        -- 32 bits MB_LANE_GRANTS; R197, 06_read_path_and_latency; reset 0x0
  laneMisses : Nat := 0        -- 32 bits MB_LANE_MISSES; R197, 06_read_path_and_latency; reset 0x0
  laneMax : Nat := 0           -- 16 bits MB_LANE_MAX; R197, 06_read_path_and_latency; reset 0x0
  rrCount : Nat := 0           -- 16 bits MB_RR_COUNT; R197, 06_read_path_and_latency; reset 0x0
  calLoaded : Bool := false    -- 1 bit CAL_LOADED; R197, 06_read_path_and_latency; reset 0
  calNone : Bool := false      -- 1 bit CAL_NONE; R197, 06_read_path_and_latency; reset 0
  calAge : Nat := 0            -- 16 bits CAL_AGE; R197, 06_read_path_and_latency; reset 0x0
  first : Nat := 0             -- first frame index of the channel; R136, 05_write_path_and_reclaim; PRESUMED 0 before H.FORMAT, log 6
  count : Nat := 0             -- frame indexes assigned to the channel; R136, 05_write_path_and_reclaim; PRESUMED 0 before H.FORMAT, log 6
  layout : List (Nat × Nat × Nat) := [] -- planes given frame indexes, with their counts: die, plane, frames; R136, 05_write_path_and_reclaim; PRESUMED none before H.FORMAT, log 6
  inService : Nat := 0         -- N_c, bound frame indexes; R150, 05_write_path_and_reclaim; PRESUMED 0 before H.FORMAT, log 6
  reserve : List Nat := []     -- RESERVE frames by index; R140, 05_write_path_and_reclaim; reset none
  journal : Nat := 0           -- JOURNAL frames set aside; R140, 05_write_path_and_reclaim; reset 0
  system : Nat := 0            -- SYSTEM frames set aside; R140, 05_write_path_and_reclaim; reset 0
  virgin : Nat := 0            -- first index of the channel never released, its frames from here up are FREE in index order; R141, 05_write_path_and_reclaim; DESIGN CHOICE, log 13
  free : List Nat := []        -- released FREE frames, oldest first; R141, 05_write_path_and_reclaim; reset none
  cleared : List Nat := []     -- CLEARED frames; R141, 05_write_path_and_reclaim; reset none
  clearing : Option (Nat × Nat) := none -- frame being cleared and its mode; R141, 05_write_path_and_reclaim; reset none
  cfailRow : Nat := 0          -- clear failures in a row of that frame; R225, 07_wear_code_scrub; reset 0
  opens : Tbl Nat := []        -- open frames by use (Table 5-4); R143, 05_write_path_and_reclaim; reset none
  stageDie : Nat := 0          -- die whose staging frame took the last page; R143, 05_write_path_and_reclaim; DESIGN CHOICE 0, log 7
  victim : Option Nat := none  -- reclaim victim; R158, 05_write_path_and_reclaim; reset none
  spares : Nat := 0            -- 16 bits SPARES; R231, 07_wear_code_scrub; PRESUMED 0, log 6
  spareList : List (Nat × Nat × Nat) := [] -- spare frames: die, plane, frame; R142, 05_write_path_and_reclaim; reset none
  retired : List (Nat × Nat × Nat) := []   -- retired list; R225, 07_wear_code_scrub; reset none
  order : Nat := 0             -- 22 bits ORDER counter; R137, 05_write_path_and_reclaim; PRESUMED 0, log 6
  stagingTarget : Nat := 32    -- ST_c; R150, 05_write_path_and_reclaim; PRESUMED 32, log 6
  seals : Nat := 0             -- seals that changed the channel's frames since its staging recompute; R150, 05_write_path_and_reclaim; reset 0
  kc : Nat × Nat := (0, 1)     -- K_c as a fraction; R162, 05_write_path_and_reclaim; reset 0
  poisonSet : List Nat := []   -- poison set, line addresses, 65,536; R178, 06_read_path_and_latency; reset empty
  poisonWait : List Nat := []  -- lines waiting for a poison-set entry; R178, 06_read_path_and_latency; reset empty
  patches : List Patch := []   -- line patch table, 64; R206, 07_wear_code_scrub; reset empty
  relocs : List Reloc := []    -- relocation queue, 4,096; R204, 07_wear_code_scrub; reset empty
  scrubCursor : Option Nat := none -- frame index the pass has reached; R210, 07_wear_code_scrub; reset none
  scrubPairsFirst : Bool := false  -- the next pass takes monotone check slots first; R253, 08_persistence_and_power_fail; reset 0
  behind : Bool := false       -- 1 bit SCRUB_BEHIND; R231, 07_wear_code_scrub; reset 0
  passes : Nat := 0            -- 32 bits MB_SCRUB_PASSES; R231, 07_wear_code_scrub; reset 0x0
  relocations : Nat := 0       -- 32 bits MB_RELOCATIONS; R231, 07_wear_code_scrub; reset 0x0
  treeValid : Bool := false    -- 1 bit TREE_VALID; R231, 07_wear_code_scrub; reset 0
  tree : Tbl TreeNode := []    -- nodes of the pecking-order tree by heap number, root 1; R222, 07_wear_code_scrub; reset none (fields of Table 7-5)
  groups : Tbl (Nat × Nat) := [] -- group records in DRAM, S_CLEARS and T_CLEARS by frame index, unlisted zero; R221, 07_wear_code_scrub; reset none
  worn : List Nat := []        -- frames cleared for the static move in flight; R220, 07_wear_code_scrub; reset none
  clearStamp : Nat := 0        -- CLEAR_STAMP of the clear command in progress; R83, 03_medium; reset 0
  jdirty : List Nat := []      -- JOURNAL frames that await their clear; R154, 05_write_path_and_reclaim; reset none
  static : Option Nat := none  -- source of the static move in flight; R219, 07_wear_code_scrub; reset none
  moves : List Nat := []       -- frames that a scrub visit found due for a frame move, oldest first; R211, 07_wear_code_scrub; reset none
  sinceStatic : Nat := 1024    -- clears since the last static move started; R219, 07_wear_code_scrub; DESIGN CHOICE 1024, log 7
  scrubDue : Nat := 0          -- OPSEC at which the next pass falls due; R210, 07_wear_code_scrub; reset 0
  passHours : Nat := 24        -- SCRUB_HOURS of the present pass; R213, 07_wear_code_scrub; reset 24 (H.INIT)
  scrubStart : Nat := 0        -- OPSEC at which the present pass started; R210, 07_wear_code_scrub; reset 0
  scratchHead : Nat × Nat := (0, 0) -- header of the checker scratch frame: S_CLEARS, CLEAR_STAMP; R228, 07_wear_code_scrub; PRESUMED 0, log 6
  calFill : Nat := 0           -- slots programmed in the calibration scratch frame since its clear; R193, 06_read_path_and_latency; PRESUMED 0, log 6
  calHead : Nat × Nat := (0, 0) -- its header: S_CLEARS, CLEAR_STAMP; R193, 06_read_path_and_latency; PRESUMED 0, log 6
  scratch : Tbl (BitVec 2304) := [] -- checker scratch frame slots programmed; R227, 07_wear_code_scrub; reset none
  deriving DecidableEq, Repr

/-- The medium and the tables over it. -/
structure Medium where
  chans : List Chan := []      -- 16 channels; R385, 13_bistan_bus; reset parked
  frames : Tbl Frame := []     -- frames that have changed, by frame index; R137, 05_write_path_and_reclaim; reset none
  jslots : Tbl JSlot := []     -- journal records on the medium by place; R154, 05_write_path_and_reclaim; reset none
  pages : Tbl PageImg := []    -- stored pages by PPN; R84, 03_medium; reset none
  sysPages : Tbl SysPage := [] -- map pages and directory pages by PPN; R244, 08_persistence_and_power_fail; reset none
  chanTable : List Nat := []   -- channel table, 4,096 entries; R139, 05_write_path_and_reclaim; PRESUMED empty before H.FORMAT, log 6
  dieBad : List Nat := []      -- die-directory words, 21 frame indexes each, that await their rebuild; R176, 06_read_path_and_latency; reset none
  retireDue : List Nat := []   -- frame indexes due to retire; R225, 07_wear_code_scrub; reset none
  patterns : Tbl (List Nat) := [] -- slots that a repair check left programmed with its pattern, by frame index; R208, 07_wear_code_scrub; reset none
  relocLast : Nat := 15        -- channel whose relocation queue had the last turn; R205, 07_wear_code_scrub; DESIGN CHOICE 15, log 7
  stampNext : Nat := 1         -- 48 bits CLEAR_STAMP of the next clear; R83, 03_medium; PRESUMED 1, log 6
  tallies : Tbl Tally := []    -- page tallies; R203, 07_wear_code_scrub; reset empty
  stamps : List (Nat × Nat) := [] -- stamp table, 4,096; R215, 07_wear_code_scrub; PRESUMED empty, log 6
  scrubHours : Nat := 24       -- SCRUB_HOURS; R213, 07_wear_code_scrub; reset 24 (H.INIT)
  spreadS : Nat := 4096        -- SPREAD_S; R218, 07_wear_code_scrub; reset 4,096
  spreadT : Nat := 512         -- SPREAD_T; R218, 07_wear_code_scrub; reset 512
  dramGib : List Nat := []     -- GiB of each DRAM channel; R469, 16_bringup_straps_reset; PRESUMED none, log 6
  dramRate : Nat × Nat := (25600, 3) -- trained DRAM rate as a fraction, MT/s; R265, 09_ledger_regulation_arbitration; PRESUMED 25600/3, log 6
  mapGib : Nat := 0            -- map area GiB; R107, 04_cache; DESIGN CHOICE 0 before a start, log 7
  cacheGib : Nat := 0          -- cache area GiB; R107, 04_cache; DESIGN CHOICE 0 before a start, log 7
  testWords : Tbl (BitVec 72) := [] -- DRAM test words, channel x 512 + word; R228, 07_wear_code_scrub; DESIGN CHOICE 0 each, log 7
  calChans : List Nat := []    -- channels under loaded calibration; R193, 06_read_path_and_latency; reset none
  calPorts : List Nat := []    -- ports under loaded calibration; R193, 06_read_path_and_latency; reset none
  calDue : Nat := 0            -- OPSEC from which the next loaded calibration falls due; R195, 06_read_path_and_latency; reset 0
  kd : List Nat := []          -- DRAM scramble keys; R438, 14_cipher_keys_integrity; free values drawn at each start, log 1
  deriving DecidableEq, Repr

/-! ## Persistence (08) -/

/-- A flush line slot (Table 8-3). -/
structure FSlot where
  line : Nat
  img : LImg
  delta : Bool
  mono : Bool
  wbb : Bool
  fseq : Nat
  deriving DecidableEq, Repr

/-- A manifest (Table 8-4). -/
structure Manifest where
  fseq : Nat
  jF : Nat
  lines : Nat
  mslots : Nat
  cause : Nat
  hold : Nat
  duration : Nat
  deriving DecidableEq, Repr

/-- A committed checkpoint root (Table 8-5): the directory pages it lists with their PPNs, and the done map it carries (R246). -/
structure Root where
  cseq : Nat
  jseqC : Nat
  dirs : Tbl Nat
  regions : Tbl Region
  doneFseq : Nat
  done : List Nat
  deriving DecidableEq, Repr

/-- A flush in progress (R239). -/
structure FlushRun where
  step : Nat
  cause : Nat
  start : Nat
  deriving DecidableEq, Repr

/-- Persistence state and its registers. -/
structure Persist where
  imageLive : Bool := false     -- 1 bit IMAGE_LIVE; R256, 08_persistence_and_power_fail; reset 0
  unclean : Bool := false       -- 1 bit UNCLEAN; R256, 08_persistence_and_power_fail; reset 0
  reserveOk : Bool := false     -- 1 bit RESERVE_OK; R256, 08_persistence_and_power_fail; reset 0
  lastCause : Nat := 0          -- 8 bits LAST_CAUSE; R256, 08_persistence_and_power_fail; reset 0x00
  fseq : Nat := 0               -- 32 bits PW_FSEQ; R256, 08_persistence_and_power_fail; PRESUMED 0, log 6
  flushLines : Nat := 0         -- 32 bits PW_FLUSH_LINES; R256, 08_persistence_and_power_fail; reset 0x0
  flushUs : Nat := 0            -- 32 bits PW_FLUSH_US; R256, 08_persistence_and_power_fail; reset 0x0
  restored : Nat := 0           -- 32 bits PW_RESTORED; R256, 08_persistence_and_power_fail; reset 0x0
  holdNeed : Nat := 0           -- 16 bits PW_HOLD_NEED; R256, 08_persistence_and_power_fail; DESIGN CHOICE 0 before a start, log 7
  rebuildMs : Nat := 0          -- 16 bits PW_REBUILD_MS; R256, 08_persistence_and_power_fail; reset 0x0
  cseq : Nat := 0               -- 32 bits PW_CSEQ; R256, 08_persistence_and_power_fail; reset 0x0
  flush : Option FlushRun := none  -- flush in progress; R239, 08_persistence_and_power_fail; reset none
  flushDone : Bool := false     -- completion reported to the Goose island; R450, 15_supervision_power_thermal; reset 0
  image : List FSlot := []      -- flush line slots in the RESERVE frames; R240, 08_persistence_and_power_fail; reset none
  mapImage : List (List Nat × List Patch) := [] -- map-state slots, per channel; R241, 08_persistence_and_power_fail; reset none
  manifest : Option Manifest := none -- first copy of the manifest, where it is committed; R242, 08_persistence_and_power_fail; reset none
  manifestB : Option Manifest := none -- second copy; R242, 08_persistence_and_power_fail; reset none
  bootFseq : Nat := 0           -- FSEQ of the latest boot record, 0 none; R243, 08_persistence_and_power_fail; PRESUMED 0, log 6
  bootHold : Nat := 0           -- HOLD class of the latest boot record; R243, 08_persistence_and_power_fail; PRESUMED 0, log 6
  retiredFseq : Nat := 0        -- highest FSEQ named by a retire record; R252, 08_persistence_and_power_fail; PRESUMED 0, log 6
  roots : List Root := []       -- the two latest committed roots, newest first; R247, 08_persistence_and_power_fail; reset none
  ckpt : Option Root := none    -- checkpoint in progress; R245, 08_persistence_and_power_fail; reset none
  rebuild : Nat := 0            -- rebuild step of Table 8-6, 0 none, 11 done; R248, 08_persistence_and_power_fail; reset 0
  rebuilt : List Nat := []      -- map pages rebuilt; R248, 08_persistence_and_power_fail; reset none
  order : List Nat := []        -- map pages to rebuild, next first; R249, 08_persistence_and_power_fail; reset none
  toRestore : List FSlot := []  -- restore set; R250, 08_persistence_and_power_fail; reset none
  restoredLines : List Nat := [] -- restored lines whose page rewrite has not sealed; R251, 08_persistence_and_power_fail; reset none
  lambReads : List Req := []    -- reads waiting for their range; R249, 08_persistence_and_power_fail; reset none
  lambWrites : List Req := []   -- writes waiting for rebuild step 9; R249, 08_persistence_and_power_fail; reset none
  deriving DecidableEq, Repr

/-! ## Regulation, ledger, arbitration (09) -/

/-- A token bucket (R260), tokens in 1/1,024 byte; `next` is a rate and depth that apply at the next refill (R264). -/
structure Bucket where
  rate : Nat
  depth : Nat
  tokens : Nat
  next : Option (Nat × Nat) := none
  deriving DecidableEq, Repr

/-- A stream generator (Table 10-13). -/
structure Gen where
  base : Nat
  ind : Bool
  n0 : Nat
  n1 : Nat
  n2 : Nat
  s0 : Int
  s1 : Int
  s2 : Int
  wrapLo : Nat
  wrapHi : Nat
  xmask : Nat
  passes : Nat
  tlen : Nat
  tbuf : Nat
  deriving DecidableEq, Repr

/-- A commitment (R266). Kind 0 READ, 1 WRITE, 2 ACC, 3 STRM. -/
structure Commit where
  label : Nat
  kind : Nat
  region : Nat
  rate : Nat
  ports : Nat
  headroom : Nat
  owner : Option Nat
  gen : Nat
  stream : Option Gen
  deriving DecidableEq, Repr

/-- A channel's slot tables (R275). Shadow: 0 not loaded, 1 program-loaded, 2 written by HS6. -/
structure Slots where
  live : List Nat := []        -- 256 x 8 bits live slot table; R275, 09_ledger_regulation_arbitration; DESIGN CHOICE 0xFF each before a start, log 7
  shadow : List Nat := []      -- 256 x 8 bits shadow slot table; R275, 09_ledger_regulation_arbitration; DESIGN CHOICE 0xFF each before a start, log 7
  shadowBy : Nat := 0          -- who filled the shadow table; R348, 11_syned_instruction_reference; reset 0
  armed : Bool := false        -- a swap is armed; R278, 09_ledger_regulation_arbitration; reset 0
  entry : Nat := 0             -- entry in use; R279, 09_ledger_regulation_arbitration; DESIGN CHOICE 0, log 7
  forced : List Nat := []      -- commitments to revoke at the swap of a forced table; R277, 09_ledger_regulation_arbitration; reset none
  deriving DecidableEq, Repr

/-- The counts an arbiter keeps for one requester (Table 9-7). -/
structure ArbRec where
  grants : Nat := 0            -- 48 bits GRANTS; R285, 09_ledger_regulation_arbitration; reset 0x0
  waits : Nat := 0             -- 48 bits WAITS; R285, 09_ledger_regulation_arbitration; reset 0x0
  maxWait : Nat := 0           -- 24 bits MAX_WAIT; R285, 09_ledger_regulation_arbitration; reset 0x0
  pend : List Nat := []        -- pending requests, 32, arrival period of each; R282, 09_ledger_regulation_arbitration; reset none
  late : Nat := 0              -- requests that wait at their issuers for a full pending queue; R282, 09_ledger_regulation_arbitration; reset 0
  hipri : Bool := false        -- 1 bit HIPRI; R285, 09_ledger_regulation_arbitration; reset 0
  last : Nat := 0              -- order of the latest grant; R281, 09_ledger_regulation_arbitration; reset 0
  deriving DecidableEq, Repr

/-- An arbiter (R280). -/
structure Arb where
  k : Nat := 16                -- quota K; R283, 09_ledger_regulation_arbitration; reset 16 (H.INIT)
  w : Nat := 64                -- window W; R283, 09_ledger_regulation_arbitration; reset 64 (H.INIT)
  recs : Tbl ArbRec := []      -- counter records by requester; R285, 09_ledger_regulation_arbitration; reset zero
  window : List Nat := []      -- requesters of the last W shared-phase grants, newest first; R283, 09_ledger_regulation_arbitration; reset none
  turn : Nat := 0              -- grants made, behind least-recently-granted; R281, 09_ledger_regulation_arbitration; reset 0
  deriving DecidableEq, Repr

/-- Ledger, buckets, slot tables and arbiters. -/
structure Regul where
  buckets : Tbl Bucket := []     -- token buckets, port x 64 + label, unlisted unlimited; R260, 09_ledger_regulation_arbitration; reset unlimited (H.INIT)
  held : List Req := []          -- requests held at a bucket, in arrival order; R263, 09_ledger_regulation_arbitration; reset none
  portHeld : List Req := []      -- requests held for an operation-table entry; R28, 01_architecture; reset none
  commits : Tbl Commit := []     -- commitments by entry number, 1,024; R273, 09_ledger_regulation_arbitration; reset none
  gens : Tbl Nat := []           -- generation count of each entry number; R345, 11_syned_instruction_reference; reset 0
  slots : List Slots := []       -- 16 channels' slot tables; R275, 09_ledger_regulation_arbitration; reset unowned
  arbs : Tbl Arb := []           -- arbiters by number (Table 11-18), unlisted at the H.INIT quota; R280, 09_ledger_regulation_arbitration; reset default
  calWait : Bool := true         -- not every channel and port is LOADED yet; R194, 06_read_path_and_latency; reset 1
  losses : Nat := 0              -- losses of capability reported and not yet revalidated; R286, 09_ledger_regulation_arbitration; reset 0
  refTicks : Nat := 0            -- 6.4 ns periods counted; R264, 09_ledger_regulation_arbitration; reset 0, log 8
  deriving DecidableEq, Repr

/-! ## Queues, engines, resources, streams (10, 11) -/

/-- A queue (R300, Table 10-6). -/
structure Queue where
  port : Nat
  session : Nat
  engine : Nat
  label : Nat
  dlog : Nat
  clog : Nat
  bufMib : Nat
  tail : Nat := 0
  head : Nat := 0
  chead : Nat := 0
  ctail : Nat := 0
  phase : Bool := true
  closing : Bool := false
  latch : List Ntf := []       -- latched records, 16, oldest first (R337)
  discarded : Nat := 0         -- records discarded from the latch (R337)
  busy : Nat := 0              -- descriptors fetched and not completed
  order : Bool := false        -- an ORDER descriptor waits or runs
  ring : Option (Nat × Nat) := none -- counter ring: offset, length (R500)
  deriving DecidableEq, Repr

/-- A MOVE, COPY or FILL in progress (R338). Kind 0 MOVE, 1 COPY, 2 FILL. -/
structure Xfer where
  kind : Nat
  dst : Nat
  src : Nat
  len : Nat
  done : Nat
  acc : Bool
  pat : W64
  rd : Option Line := none     -- data of the unit read and not yet written
  out : Option (Nat × Line) := none -- outcome of the unit's latest access, which the mule reports
  deriving DecidableEq, Repr

/-- What a WAITING context waits for (R331). -/
inductive Wait where
  | none
  | mem (off : Nat)              -- LD, ST: the outcome of its request, at a byte offset of its 64 B
  | mule                         -- a move descriptor handed to a mule
  | xfer (x : Xfer)              -- MOVE, COPY, FILL: the outcome of its unit
  | xts (d s len done : Nat) (once : Bool)     -- XTS.ENC, XTS.DEC; the present chunk has faulted once (R437)
  | timer (n : Nat)
  | notify (n : Option Nat)
  | fence
  | ended (status : Nat) (forced : Bool)
  | clean (lo hi : Nat) (inval : Bool)
  | inval (lo hi : Nat) (all force : Bool)
  | zero (lo next hi : Nat) (out : Option Nat)
  | ways (n : Nat) (masks : List (BitVec 16))
  | cacheOff
  | trim (lo hi : Nat)
  | rgnJournal (idx : Nat)
  | rgnDrain (idx : Nat)
  | swap (chans : List Nat) (d : Option Nat)
  | ckpt
  | cal (chans ports ok : Nat)
  | retire (fx : Nat)
  | rekey (region : Nat)
  | house (n : Nat)
  | portReset (p : Nat)
  | post
  | query (page : Nat)
  | qclose (q : Nat)
  deriving DecidableEq, Repr

/-- A task context (Table 10-1). State: 0 IDLE, 1 READY, 2 RUNNING, 3 WAITING, 4 STALLED, 5 ENDING. -/
structure Ctx where
  state : Nat := 0                     -- context state; R295, 10_syned_programming_model; reset IDLE
  g : List W64 := []                   -- g0 to g31; R293, 10_syned_programming_model; loaded at task start, 0 before
  st : W64 := 0                        -- 64 bits st; R294, 10_syned_programming_model; reset 0
  pc : Nat := 0                        -- 13 bits pc; R293, 10_syned_programming_model; loaded at task start, 0 before
  stack : List Nat := []               -- return stack, 8 x 13 bits; R296, 10_syned_programming_model; reset empty
  queue : Nat := 0                     -- queue of the task; R304, 10_syned_programming_model; reset 0
  didx : Nat := 0                      -- descriptor index; R307, 10_syned_programming_model; reset 0
  tag : Nat := 0                       -- TAG of the descriptor; R303, 10_syned_programming_model; reset 0
  notify : Bool := false               -- NOTIFY of the descriptor; R303, 10_syned_programming_model; reset 0
  limit : Nat := 0                     -- LIMIT_MS; R305, 10_syned_programming_model; reset 0
  expired : Bool := false              -- LIMIT_MS has expired; R305, 10_syned_programming_model; reset 0
  label : Nat := 0                     -- label of the task's operations; R258, 09_ledger_regulation_arbitration; reset 0
  wait : Wait := .none                 -- what the context waits for; R331, 11_syned_instruction_reference; reset none
  posted : List Xfer := []             -- posted instructions, 64, in issue order; R339, 11_syned_instruction_reference; reset none
  postFail : Nat := 0                  -- posted units failed since the last FENCE; R339, 11_syned_instruction_reference; reset 0
  postCode : Nat := 0                  -- code of the first of them; R339, 11_syned_instruction_reference; reset 0
  postAddr : Nat := 0                  -- address of that unit; R339, 11_syned_instruction_reference; reset 0
  house : Nat := 0                     -- house routine running, 0 none; R313, 10_syned_programming_model; reset 0
  houseStep : Nat := 0                 -- step reached in that routine; R313, 10_syned_programming_model; reset 0
  lastArg : Nat := 0                   -- argument a house routine keeps from one instruction to the next, or the units a CAL.RUN named; R313, 10_syned_programming_model; DESIGN CHOICE 0, log 7
  hcall : Bool := false                -- the task is an HCALL; R303, 10_syned_programming_model; reset 0
  endCode : Nat := 0                   -- completion status of an ENDING task; R305, 10_syned_programming_model; reset 0
  lastPc : Nat := 0                    -- program table address of the last step; R307, 10_syned_programming_model; ENTRY at task start, 0 before
  deriving DecidableEq, Repr

/-- A general timer (R337). -/
structure Timer where
  armed : Bool := false                -- armed; R337, 11_syned_instruction_reference; reset 0
  due : Nat := 0                       -- reference period from which it may expire; R337, 11_syned_instruction_reference; reset 0
  e : Nat := 0                         -- engine of the context that waits; R337, 11_syned_instruction_reference; reset 0
  c : Nat := 0                         -- context that waits; R337, 11_syned_instruction_reference; reset 0
  deriving DecidableEq, Repr

/-- A stream (R318 to R323). State: 1 idle, 2 running. -/
structure Strm where
  region : Nat
  port : Nat
  session : Nat
  rate : Nat
  gen : Gen
  best : Bool
  commit : Option Nat
  owner : Nat
  label : Nat
  trig : Option Nat
  state : Nat := 1
  revoked : Bool := false
  t0 : Nat := 0
  excluded : Nat := 0             -- reference periods excluded since t0 (R189)
  fetchNext : Nat := 0            -- first line of the sequence not yet fetched or being fetched
  ahead : List Nat := []          -- lines behind it fetched early with their page (R186)
  fetched : Tbl (Line × Nat) := [] -- fetched lines by index: data and status
  flits : Nat := 0                -- flits released since t0
  bytes : Nat := 0                -- bytes released since t0
  table : List Nat := []          -- the indirection table read at STRM.GO (R320)
  deriving DecidableEq, Repr

/-- Engines, queues and what programs share. -/
structure Engines where
  prog : Tbl W64 := []         -- program tables, engine x 8192 + address; R296, 10_syned_programming_model; DESIGN CHOICE 0 each, log 7
  ctx : Tbl Ctx := []          -- contexts, engine x 32 + context; R293, 10_syned_programming_model; reset IDLE
  lastStep : Tbl Nat := []     -- context that took the last step of each engine, behind the rotation; R295, 10_syned_programming_model; DESIGN CHOICE none, log 7
  queues : Tbl Queue := []     -- open queues; R301, 10_syned_programming_model; reset none
  cring : Tbl (BitVec 256) := [] -- completion ring entries, queue x 65536 + index; R307, 10_syned_programming_model; reset none
  claims : Tbl Nat := []       -- holder of each shared resource; R315, 10_syned_programming_model; reset free
  timers : List Timer := []    -- T0 to T7; R337, 11_syned_instruction_reference; reset idle
  trig : List Nat := []        -- TRIG0 to TRIG3 pins: 0 high impedance, 1 low, 2 high; R526, 18_signals_electrical_package; reset high impedance
  streams : Tbl Strm := []     -- defined streams, 1,024; R318, 10_syned_programming_model; reset none
  buf : List (Nat × Byte) := []       -- queue buffers, 40-bit buffer address and byte; R302, 10_syned_programming_model; DESIGN CHOICE unlisted 0x00, log 16
  lastQ : Tbl Nat := []        -- queue each engine fetched from last, behind the rotation; R304, 10_syned_programming_model; DESIGN CHOICE none, log 7
  deriving DecidableEq, Repr

/-! ## Keys (14) -/

/-- A re-key in progress (R432). -/
structure Rekey where
  region : Nat
  old : Nat
  new : Nat
  lo : Nat
  hi : Nat
  pages : Nat
  rfx : List Nat
  deriving DecidableEq, Repr

/-- A key record (Table 14-2). State 0 EMPTY, 1 LOADED, 2 FATAL. -/
structure KeyRec where
  state : Nat := 0             -- 2 bits STATE; R417, 14_cipher_keys_integrity; reset 0x0
  keys : KeySet := ⟨0, 0, 0⟩   -- key set; R414, 14_cipher_keys_integrity; DESIGN CHOICE 0 while EMPTY, log 7
  floor : Nat := 1             -- 24 bits FLOOR; R417, 14_cipher_keys_integrity; DESIGN CHOICE 1 while EMPTY, log 7
  ceil : Nat := 0              -- 24 bits CEIL; R417, 14_cipher_keys_integrity; DESIGN CHOICE 0 while EMPTY, log 7
  high : Nat := 0              -- 24 bits HIGH; R422, 14_cipher_keys_integrity; CEIL at every start
  kseq : Nat := 0              -- 32 bits KSEQ; R417, 14_cipher_keys_integrity; DESIGN CHOICE 0, log 7
  walk : Option Rekey := none  -- RACTIVE, RREGION, RNEW, LO, HI, RFX of the committed record; R417, 14_cipher_keys_integrity; reset none
  deriving DecidableEq, Repr

/-- Keys, fuses and pipelines. -/
structure Keys where
  recs : Tbl KeyRec := []        -- key records, 64; R417, 14_cipher_keys_integrity; reset EMPTY
  log : Tbl (List KeyRec) := []  -- committed key records on the medium by key ID, highest KSEQ first; R417, 14_cipher_keys_integrity; reset none
  drk : Option Nat := none       -- 256 bits DRK fuses, a free value drawn at the first start, log 1; R415, 14_cipher_keys_integrity; reset blank
  tk : Option (BitVec 256) := none -- TK fuses and TK_SET; R415, 14_cipher_keys_integrity; PRESUMED blank, log 6
  rekey : Option Rekey := none   -- re-key in progress; R432, 14_cipher_keys_integrity; reset none
  pipes : List Nat := []         -- 8 general pipelines: faults within the last 1 s, 3 out of service; R427, 14_cipher_keys_integrity; reset 0 each
  cfaults : Nat := 0             -- 32 bits CY_CFAULTS; R439, 14_cipher_keys_integrity; reset 0x0
  macfails : Nat := 0            -- 32 bits CY_MACFAILS; R439, 14_cipher_keys_integrity; reset 0x0
  deriving DecidableEq, Repr

/-! ## Records (17) -/

/-- An event-class entry (Table 17-3). -/
structure EvEntry where
  count : Nat := 0               -- 32 bits COUNT; R495, 17_records_counters_nvstore; reset 0x0
  detail : Nat := 0              -- 32 bits DETAIL; R495, 17_records_counters_nvstore; reset 0x0
  first : Nat × Nat := (0, 0)    -- FIRST stamp; R495, 17_records_counters_nvstore; reset 0x0
  last : Nat × Nat := (0, 0)     -- LAST stamp; R495, 17_records_counters_nvstore; reset 0x0
  deriving DecidableEq, Repr

/-- A histogram (Table 17-4). -/
structure Hist where
  head : Nat := 0                -- 32 bits HEAD and TAIL; R496, 17_records_counters_nvstore; reset 0x0
  bins : List Nat := []          -- 16 x 32 bits BIN; R494, 17_records_counters_nvstore; reset 0x0
  min : Nat := 0xFFFFFFFF        -- 32 bits MIN; R494, 17_records_counters_nvstore; reset 0xFFFFFFFF
  max : Nat := 0                 -- 32 bits MAX; R494, 17_records_counters_nvstore; reset 0x0
  at0 : Nat × Nat := (0, 0)      -- stamp of MAX; R494, 17_records_counters_nvstore; reset 0x0
  deriving DecidableEq, Repr

/-- An NV record (Table 17-9): kind, identifier, payload, SEQ, stamp, and the copies that are valid. -/
structure NvRec where
  kind : Nat
  id : Nat
  data : List Byte
  seq : Nat
  pcc : Nat
  opsec : Nat
  copy0 : Bool
  copy1 : Bool
  sect0 : Nat     -- SSEQ of the sector that holds copy 0
  sect1 : Nat     -- SSEQ of the sector that holds copy 1
  differ : Bool := false -- both copies verify and their payloads differ (R508)
  deriving DecidableEq, Repr

/-- A counter's select word (R500). -/
structure Select where
  event : Nat
  unit : Nat
  label : Nat
  en : Bool
  deriving DecidableEq, Repr

/-- Recorder, counters and NV store. -/
structure Records where
  pcc : Nat := 0                 -- 32 bits PCC; R487, 17_records_counters_nvstore; PRESUMED 0, log 6
  opsec : Nat := 0               -- 40 bits OPSEC; R487, 17_records_counters_nvstore; PRESUMED 0, log 6
  classes : Tbl EvEntry := []    -- event-class entries by class number; R495, 17_records_counters_nvstore; reset zero
  heads : List Nat := []         -- HEAD and TAIL of the 19 class blocks; R496, 17_records_counters_nvstore; reset 0x0
  hdrHead : Nat := 0             -- HEAD and TAIL of the header block; R497, 17_records_counters_nvstore; reset 0x0
  hists : List Hist := []        -- 16 histograms; R494, 17_records_counters_nvstore; reset zero
  saved : Nat := 0               -- 16 bits SAVED; R510, 17_records_counters_nvstore; reset 0x0
  saveCut : Bool := false        -- 1 bit SAVE_CUT; R510, 17_records_counters_nvstore; reset 0
  frozen : Bool := false         -- the recorder accepts no update; R498, 17_records_counters_nvstore; reset 0
  changedClasses : List Nat := [] -- class blocks changed since the previous save; R510, 17_records_counters_nvstore; reset none
  ctr : Tbl Nat := []            -- 256 x 48-bit counters; R499, 17_records_counters_nvstore; reset 0
  sel : Tbl Select := []         -- select words; R500, 17_records_counters_nvstore; reset none
  mode : Nat := 0                -- MODE; R500, 17_records_counters_nvstore; reset 0
  taglog : Nat := 0              -- TAGLOG; R500, 17_records_counters_nvstore; reset 0
  tagCount : Nat := 0            -- operations counted towards the next tag; R501, 17_records_counters_nvstore; reset 0
  ovc : Nat := 0                 -- OVC; R500, 17_records_counters_nvstore; reset 0
  ovPreset : Nat := 0            -- OVPRESET; R500, 17_records_counters_nvstore; reset 0
  ovDue : Bool := false          -- counter OVC has overflowed and its sample is due; R502, 17_records_counters_nvstore; reset 0
  perfTrig : Option Nat := none  -- TRIG ball of PERF.CFG; R502, 17_records_counters_nvstore; reset none
  periodMs : Nat := 0            -- PERIOD_MS while PERIODIC is set, 0 none; R503, 17_records_counters_nvstore; reset 0
  ringQ : Option Nat := none     -- queue of the last PERF.CFG, whose buffer holds the ring; R500, 17_records_counters_nvstore; reset none
  prod : Nat := 0                -- 32 bits PC_RING_PROD; R503, 17_records_counters_nvstore; reset 0
  cons : Nat := 0                -- 32 bits PC_RING_CONS; R503, 17_records_counters_nvstore; reset 0
  drops : Nat := 0               -- 32 bits PC_DROPS; R503, 17_records_counters_nvstore; reset 0
  rseq : Nat := 0                -- RSEQ; R503, 17_records_counters_nvstore; reset 0
  nv : List NvRec := []          -- NV records in the two areas, oldest first; R506, 17_records_counters_nvstore; PRESUMED empty, log 6
  nvState : Nat := 0             -- 2 bits STATE; R511, 17_records_counters_nvstore; reset 0x0
  nvSeq : Nat := 0               -- 32 bits NV_SEQ; R511, 17_records_counters_nvstore; PRESUMED 0, log 6
  nvFill0 : Nat := 0             -- bytes used in the head sector of area 0; R506, 17_records_counters_nvstore; PRESUMED 0, log 6
  nvFill1 : Nat := 0             -- the same for area 1; R506, 17_records_counters_nvstore; PRESUMED 0, log 6
  nvHead0 : Nat := 0             -- SSEQ of the head sector of area 0; R505, 17_records_counters_nvstore; PRESUMED 0, log 6
  nvHead1 : Nat := 0             -- the same for area 1; R505, 17_records_counters_nvstore; PRESUMED 0, log 6
  erased0 : Nat := 126           -- ERASED0 sectors ahead; R511, 17_records_counters_nvstore; PRESUMED 126 (a blank 4 MiB part), log 6
  erased1 : Nat := 126           -- ERASED1 sectors ahead; R511, 17_records_counters_nvstore; PRESUMED 126 (a blank 4 MiB part), log 6
  nvDups : Nat := 0              -- 16 bits NV_DUPS; R511, 17_records_counters_nvstore; reset 0x0
  nvBase : Nat := 0              -- 32 bits NV_BASE; R511, 17_records_counters_nvstore; reset 0 (R490)
  tallySect : Bool := false      -- 1 bit TALLY_SECT; R511, 17_records_counters_nvstore; reset 0
  tallyCells : Nat := 0          -- cells set in the current tally sector; R489, 17_records_counters_nvstore; PRESUMED 0, log 6
  deriving DecidableEq, Repr

end Sys2Proof.Machine
end

