-- ==== Sys2Proof/Machine/Code.lean ====
section
/-! DEFINITION. The codes and masks the spec writes out: CRC-32C, the line code (R198 to R200), the Bistan scramble mask
(R409), the DRAM scramble word (R438), the tweak (Table 14-3) and the stream generator (R320). -/

namespace Sys2Proof

/-! ## Bytes -/

/-- Byte i of a little-endian structure (R7). -/
def byteAt (w : Nat) (i : Nat) : Nat := (w >>> (8 * i)) % 256

/-- The first n bytes of a little-endian structure. -/
def bytesOf (w : Nat) (n : Nat) : List Byte := (List.range n).map (fun i => BitVec.ofNat 8 (byteAt w i))

/-- The number that bytes spell, byte 0 least significant (R7). -/
def numOf : List Byte → Nat
  | [] => 0
  | b :: t => b.toNat + 256 * numOf t

/-- The number that bytes spell, byte 0 most significant. -/
def bigNum (l : List Byte) : Nat := l.foldl (fun acc b => acc * 256 + b.toNat) 0

/-! ## CRC-32C, reflected, polynomial 0x82F63B78 (PRESUMED, the published CRC-32C; log 11) -/

/-- One bit step of CRC-32C. -/
def crcStep (c : Nat) : Nat := if c % 2 = 1 then (c >>> 1) ^^^ 0x82F63B78 else c >>> 1

/-- CRC-32C of a byte string. -/
def crc32c (l : List Byte) : Nat :=
  (l.foldl (fun c b => crcStep (crcStep (crcStep (crcStep (crcStep (crcStep (crcStep (crcStep (c ^^^ b.toNat)))))))))
    0xFFFFFFFF) ^^^ 0xFFFFFFFF

/-! ## The line code -/

/-- g(x) of R198: the least common multiple of the minimal polynomials of α^1, α^3, …, α^31, degree 192. -/
def bchG : Nat := 0x16055099cd749e2bf39845730d84bc470753f3547783f4a4f

/-- Remainder of a polynomial over GF(2) of degree below n + 192 by g(x). -/
def bchRem : Nat → Nat → Nat
  | 0, m => m
  | n + 1, m => bchRem n (if bitOf m (n + 192) then m ^^^ (bchG <<< n) else m)

/-- The message of a slot as a polynomial (R199): byte 0 first, bit 7 of a byte first, first bit of highest order. -/
def bchMsg (bytes : List Byte) : Nat := bigNum bytes

/-- Parity of a 264-byte message (R199), byte 264 of the slot holding its eight highest-order coefficients. -/
def bchParity (bytes : List Byte) : Nat := bchRem 2112 (bchMsg bytes <<< 192)

/-- Multiply by α in GF(2^12) (R198). -/
def gfX (a : Nat) : Nat := if a * 2 ≥ 4096 then (a * 2) ^^^ 0x1053 else a * 2

/-- Product in GF(2^12). -/
def gfMul (a b : Nat) : Nat :=
  ((List.range 12).foldl (fun (acc : Nat × Nat) i =>
    (if bitOf b i then acc.1 ^^^ acc.2 else acc.1, gfX acc.2)) (0, a)).1

/-- Power of a field element. -/
def gfPow (a : Nat) : Nat → Nat
  | 0 => 1
  | n + 1 => gfMul a (gfPow a n)

/-- Inverse in GF(2^12): a^4094, by squaring. -/
def gfInv (a : Nat) : Nat :=
  ((List.range 11).foldl (fun (acc : Nat × Nat) _ =>
    let sq := gfMul acc.2 acc.2
    (gfMul acc.1 sq, sq)) (1, a)).1

/-- Value of the received word at a field element, bit 2303 being the highest-order coefficient. -/
def bchEval (r x : Nat) : Nat :=
  (List.range 2304).foldl (fun acc i => gfMul acc x ^^^ flag (bitOf r (2303 - i))) 0

/-- The 32 syndromes of a received word. -/
def bchSyndromes (r : Nat) : List Nat := (List.range 32).map (fun j => bchEval r (gfPow 2 (j + 1)))

/-- Berlekamp and Massey's error locator, lowest order first. -/
def bchLocator (syn : List Nat) : List Nat :=
  let step := fun (st : List Nat × List Nat × Nat × Nat × Nat) (n : Nat) =>
    let c := st.1
    let b := st.2.1
    let l := st.2.2.1
    let m := st.2.2.2.1
    let bb := st.2.2.2.2
    let d := (List.range (l + 1)).foldl (fun acc i => acc ^^^ gfMul (c.getD i 0) (syn.getD (n - i) 0)) 0
    if d = 0 then (c, b, l, m + 1, bb)
    else
      let f := gfMul d (gfInv bb)
      let len := max c.length (b.length + m)
      let c' := (List.range len).map (fun i => c.getD i 0 ^^^ (if i < m then 0 else gfMul f (b.getD (i - m) 0)))
      if 2 * l ≤ n then (c', c, n + 1 - l, 1, d) else (c', b, l, m + 1, bb)
  ((List.range 32).foldl step ([1], [1], 0, 1, 1)).1

/-- Codeword positions at fault, message bit 0 first (Table 7-7), or none where more than 16 bits are wrong. -/
def bchErrors (r : Nat) : Option (List Nat) :=
  let loc := bchLocator (bchSyndromes r)
  let deg := (loc.foldl (fun (acc : Nat × Nat) v => (acc.1 + 1, if v = 0 then acc.2 else acc.1)) (0, 0)).2
  let roots := indices 2304 (fun p =>
    let x := gfPow (gfInv 2) (2303 - p)
    loc.foldr (fun v acc => gfMul acc x ^^^ v) 0 == 0)
  if deg ≤ 16 ∧ roots.length = deg then some roots else none

/-! ## SEC-DED of a DRAM test word (R228, R229): the check byte of a data word is a free function (log 21) -/

/-- The syndrome of a data word and a check byte. -/
def secSyndrome (d c : Nat) : Nat := (Config.secCheck d % 256) ^^^ c

/-- The single bit at fault in a data word and its check byte, data bits first; none where no one bit explains it. -/
def secBit (d c : Nat) : Option Nat :=
  (List.range 72).find? (fun i =>
    if i < 64 then secSyndrome (d ^^^ 2 ^ i) c == 0 else secSyndrome d (c ^^^ 2 ^ (i - 64)) == 0)

/-! ## Bus and DRAM scrambling -/

/-- One step of the scramble mask (R409). -/
def scrStep (m : Nat) : Nat := if m % 2 = 1 then (m >>> 1) ^^^ 0x80200003 else m >>> 1

/-- n steps of the scramble mask. -/
def scrSteps : Nat → Nat → Nat
  | 0, m => m
  | n + 1, m => scrSteps n (scrStep m)

/-- The first mask word of a slot (R409). -/
def scrSeed (key plane frame slot : Nat) : Nat :=
  let s := (key ^^^ ((frame <<< 16) ||| (plane <<< 12) ||| slot)) % 2 ^ 32
  if s = 0 then 1 else s

/-- Mask byte for byte position b of a slot image (R409). -/
def scrMask (key plane frame slot b : Nat) : Nat :=
  byteAt (scrSteps (32 * (b / 4)) (scrSeed key plane frame slot)) (b % 4)

/-- fmix64 of R438. -/
def fmix64 (x0 : Nat) : Nat :=
  let x1 := x0 ^^^ (x0 >>> 33)
  let x2 := (x1 * 0xFF51AFD7ED558CCD) % 2 ^ 64
  let x3 := x2 ^^^ (x2 >>> 33)
  let x4 := (x3 * 0xC4CEB9FE1A85EC53) % 2 ^ 64
  x4 ^^^ (x4 >>> 33)

/-- The word stored in DRAM for a data word at a channel byte address (R438). -/
def dramWord (kd a w : Nat) : Nat := w ^^^ fmix64 (kd ^^^ (a >>> 3))

/-! ## Tweak (Table 14-3) -/

/-- The tweak as a number, with the block counter of DOMAIN 2. -/
def Machine.Tweak.num (t : Machine.Tweak) (ctr : Nat) : Nat :=
  t.line % 2 ^ 36
  + (if t.domain = 0 then (t.version % 2 ^ 24) <<< 36 else 0)
  + (t.key % 64) <<< 60
  + (t.domain % 4) <<< 66
  + (if t.domain = 1 then (t.fseq % 2 ^ 32) <<< 68 else 0)
  + (if t.domain = 2 then (ctr % 2 ^ 20) <<< 100 else 0)
  + 0xA5 <<< 120

/-! ## Stream generator (R319, R320) -/

/-- Generator descriptor fields (Table 10-13) of a 64-byte block. -/
def genOf (w : Nat) : Machine.Gen :=
  let sgn := fun v : Nat => if v < 2 ^ 35 then (v : Int) else (v : Int) - 2 ^ 36
  { base := bitsOf w 35 0, ind := bitOf w 40, n0 := bitsOf w 71 48, n1 := bitsOf w 95 72, n2 := bitsOf w 119 96,
    s0 := sgn (bitsOf w 163 128), s1 := sgn (bitsOf w 203 168), s2 := sgn (bitsOf w 243 208),
    wrapLo := bitsOf w 283 248, wrapHi := bitsOf w 323 288, xmask := bitsOf w 363 328,
    passes := bitsOf w 399 368, tlen := bitsOf w 423 400, tbuf := bitsOf w 479 448 }

/-- Reserved bits of a generator descriptor (R9, Table 10-13). -/
def genReserved (w : Nat) : Nat :=
  bitsOf w 39 36 + bitsOf w 47 41 + bitsOf w 127 120 + bitsOf w 167 164 + bitsOf w 207 204 + bitsOf w 247 244
  + bitsOf w 287 284 + bitsOf w 327 324 + bitsOf w 367 364 + bitsOf w 447 424 + bitsOf w 511 480

/-- Whether a number is a power of two. -/
def isPow2 (n : Nat) : Bool := n != 0 && n &&& (n - 1) == 0

/-- The generator rules of R319 for a region of `lines` lines. -/
def genOk (g : Machine.Gen) (lines : Nat) : Bool :=
  g.n0 != 0 && g.n1 != 0 && g.n2 != 0 && decide (g.wrapLo < g.wrapHi) && decide (g.wrapHi ≤ lines)
  && isPow2 (g.wrapHi - g.wrapLo) && decide (g.xmask < g.wrapHi - g.wrapLo)
  && !(g.ind && decide (g.tlen < g.wrapHi - g.wrapLo)) && g.tbuf % 8 == 0

/-- Lines of one period (R320). -/
def genPeriod (g : Machine.Gen) : Nat := g.n0 * g.n1 * g.n2

/-- The k-th line offset of a period before the indirection (R320). -/
def genStep (g : Machine.Gen) (k : Nat) : Nat :=
  let i0 := k % g.n0
  let i1 := (k / g.n0) % g.n1
  let i2 := (k / (g.n0 * g.n1)) % g.n2
  let a : Int := ((g.base : Int) + i0 * g.s0 + i1 * g.s1 + i2 * g.s2 + 2 ^ 35) % 2 ^ 36 - 2 ^ 35
  let w := ((a - (g.wrapLo : Int)) % ((g.wrapHi - g.wrapLo : Nat) : Int)).toNat
  g.wrapLo + (w ^^^ g.xmask)

/-- Whether the ledger charges a generator as sequential (R321). -/
def genSeq (g : Machine.Gen) : Bool :=
  !g.ind && g.s0 == 1 && g.n0 % 16 == 0 && g.base % 16 == 0 && g.s1 % 16 == 0 && g.s2 % 16 == 0
  && g.wrapLo % 16 == 0 && (g.wrapHi - g.wrapLo) % 16 == 0

end Sys2Proof
end

