-- ==== Sys2Proof/Machine/State.lean ====
section
/-! DEFINITION. The state of the block, the reasons a step could stop, and the state after reset. -/

namespace Sys2Proof.Machine

open Sys2Proof

/-- Why the block would stop with a fault. The spec gives the YX4016 no fault: what goes wrong is a status code, an
event, a notification or an interrupt cause (R12), and the block goes on. No command answers this fault. -/
inductive Fault where
  /-- Raised by no command. Safe: a model that answered it would only stop where the hardware goes on. -/
  | never
  deriving DecidableEq, Repr

/-- Why a command would be refused. -/
inductive Refusal where
  /-- Raised by an arm of exec whose meaning is not written, by the command's mnemonic. Safe: nothing is claimed. -/
  | notModelled (mnemonic : String)
  deriving DecidableEq, Repr

/-- The state of the block. -/
structure State where
  boot : Boot := {}        -- identification, straps, reset, boot, interrupt causes, JTAG; 16_bringup_straps_reset
  goose : Goose := {}      -- the Goose island; 15_supervision_power_thermal
  ports : List Port := []  -- the host ports (4, of which Table 16-2 enables some); 12_plicor_link
  cache : Cache := {}      -- cache, write-back buffer, fills; 04_cache
  maps : MapSt := {}       -- map, regions, journal; 05_write_path_and_reclaim
  medium : Medium := {}    -- dies, frames, stored pages, wear, scrub; 03_medium
  pers : Persist := {}     -- flush, checkpoints, rebuild; 08_persistence_and_power_fail
  regul : Regul := {}      -- buckets, ledger, slot tables, arbiters; 09_ledger_regulation_arbitration
  eng : Engines := {}      -- engines, queues, resources, streams; 10_syned_programming_model
  keys : Keys := {}        -- key records, fuses, pipelines; 14_cipher_keys_integrity
  recs : Records := {}     -- recorder, counters, NV store; 17_records_counters_nvstore
  free : Nat := 0          -- free values taken so far (the model's own field, log 1)
  pending : List Instr := [] -- commands waiting, first in first out (the model's own field)
  deriving DecidableEq, Repr

/-- A closed session (R372). -/
def Session.closed : Session := {}

/-- A port with eight closed sessions and no credit. -/
def Port.reset : Port :=
  { sessions := List.replicate 8 Session.closed, credit := [0, 0, 0, 0], rem := [0, 0, 0, 0],
    returned := [0, 0, 0, 0] }

/-- A rail that is off, with the default policy and group of Table 15-2. -/
def Rail.reset (i : Nat) : Rail := { policy := (Config.railDefault i).1, group := (Config.railDefault i).2 }

/-- A parked channel with eight empty die positions (R387). -/
def Chan.reset : Chan := { dies := List.replicate 8 {} }

/-- Slot tables in which no entry is owned (R275, log 7). -/
def Slots.reset : Slots := { live := List.replicate 256 0xFF, shadow := List.replicate 256 0xFF }

/-- The state right after a VAUX rise (R440, R474): the Goose island has started, every rail is off. -/
def State.reset : State :=
  { goose := { rails := (List.range 12).map Rail.reset, sites := List.replicate 8 {} },
    ports := List.replicate 4 Port.reset,
    cache := { masks := List.replicate 64 0xFFFF },
    medium := { chans := List.replicate 16 Chan.reset },
    regul := { slots := List.replicate 16 Slots.reset },
    eng := { timers := List.replicate 8 {}, trig := [0, 0, 0, 0] },
    keys := { pipes := List.replicate 8 0 },
    recs := { heads := List.replicate 19 0, hists := List.replicate 16 { bins := List.replicate 16 0 } } }

end Sys2Proof.Machine
end

