-- ==== Sys2Proof/Machine/Ops.lean ====
section
/-! DEFINITION. The named operations over the parts of the state: ports, sessions, contexts, channels, buffers, the
event recorder, the counters and the messages a port sends. The block has no exception entry: an interrupt cause, an
event and a notification are effects on the state. -/

namespace Sys2Proof.Machine

open Sys2Proof

/-! ## Parts of the state -/

/-- Port p. -/
def State.port (s : State) (p : Nat) : Port := s.ports.getD p Port.reset

/-- Change port p. -/
def State.updPort (s : State) (p : Nat) (f : Port → Port) : State := { s with ports := updAt s.ports p f }

/-- Session n of port p. -/
def State.sess (s : State) (p n : Nat) : Session := (s.port p).sessions.getD n Session.closed

/-- Change session n of port p. -/
def State.updSess (s : State) (p n : Nat) (f : Session → Session) : State :=
  s.updPort p (fun x => { x with sessions := updAt x.sessions n f })

/-- Key of context c of engine e. -/
def ctxKey (e c : Nat) : Nat := 32 * e + c

/-- Context c of engine e. -/
def State.ctx (s : State) (e c : Nat) : Ctx := Tbl.getD s.eng.ctx (ctxKey e c) {}

/-- Put context c of engine e. -/
def State.putCtx (s : State) (e c : Nat) (x : Ctx) : State :=
  { s with eng := { s.eng with ctx := Tbl.put s.eng.ctx (ctxKey e c) x } }

/-- Change context c of engine e. -/
def State.updCtx (s : State) (e c : Nat) (f : Ctx → Ctx) : State := s.putCtx e c (f (s.ctx e c))

/-- Media channel c. -/
def State.chan (s : State) (c : Nat) : Chan := s.medium.chans.getD c Chan.reset

/-- Change media channel c. -/
def State.updChan (s : State) (c : Nat) (f : Chan → Chan) : State :=
  { s with medium := { s.medium with chans := updAt s.medium.chans c f } }

/-- Queue q, if it is open. -/
def State.queue (s : State) (q : Nat) : Option Queue := Tbl.find s.eng.queues q

/-- Change queue q, where it is open. -/
def State.updQueue (s : State) (q : Nat) (f : Queue → Queue) : State :=
  { s with eng := { s.eng with queues := Tbl.upd s.eng.queues q f } }

/-- Change the cache. -/
def State.onCache (s : State) (f : Cache → Cache) : State := { s with cache := f s.cache }

/-- Change the map and journal state. -/
def State.onMaps (s : State) (f : MapSt → MapSt) : State := { s with maps := f s.maps }

/-- Change the persistence state. -/
def State.onPers (s : State) (f : Persist → Persist) : State := { s with pers := f s.pers }

/-- Change the Goose island. -/
def State.onGoose (s : State) (f : Goose → Goose) : State := { s with goose := f s.goose }

/-- Change the recorder, counters and NV store. -/
def State.onRecs (s : State) (f : Records → Records) : State := { s with recs := f s.recs }

/-- The next free value (log 1). -/
def State.freeVal (s : State) : Nat := Config.freeValue s.free

/-- The state after one free value has been taken. -/
def State.burn (s : State) (n : Nat) : State := { s with free := s.free + n }

/-! ## Straps in force -/

/-- Ports that STRAP_LINK enables (R351, R467). -/
def State.portCount (s : State) : Nat :=
  match s.boot.straps.link with
  | 0 => 1
  | 1 => 2
  | _ => 4

/-- Lanes of each enabled port (Table 12-1). -/
def State.lanes (s : State) : Nat := 16 / s.portCount

/-- Media channels that STRAP_MCH enables (R467). -/
def State.chanCount (s : State) : Nat := 4 * (s.boot.straps.mch + 1)

/-- DRAM channels that STRAP_DRAM[0] enables (R467). -/
def State.dramCount (s : State) : Nat := if s.boot.straps.dram % 2 = 1 then 12 else 6

/-- Whether the device is in full service (STAGE 7 of Table 16-5b). -/
def State.fullService (s : State) : Bool := s.boot.full

/-- Whether Lamb service or full service runs (R482). -/
def State.running (s : State) : Bool := decide (3 ≤ s.boot.stage) && !s.boot.inReset && s.goose.vaux

/-- Whether a flush has started (R238): no command of a host or a program is executed from then on. -/
def State.flushing (s : State) : Bool := s.pers.flush.isSome

/-- Whether the device serves: it runs, no flush, power-down or orderly stop has started (R63, R239, R457). -/
def State.serves (s : State) : Bool :=
  s.running && !s.flushing && s.goose.downStep == 0 && !s.goose.stopping && s.boot.resetWait == 0

/-- Whether programs and memory requests run: a device held under R472 serves MGT only. -/
def State.live (s : State) : Bool := s.serves && !s.boot.mismatch

/-- Rail n. -/
def State.rail (s : State) (n : Nat) : Rail := s.goose.rails.getD n {}

/-! ## Time -/

/-- Nanoseconds of a count of 6.4 ns periods (R264, log 8). -/
def nsOf (ticks : Nat) : Nat := ticks * 32 / 5

/-- Microseconds of a count of 6.4 ns periods. -/
def usOf (ticks : Nat) : Nat := ticks * 4 / 625

/-- 6.4 ns periods that hold a number of microseconds, rounded up. -/
def ticksOfUs (us : Nat) : Nat := ceilDiv (us * 625) 4

/-- The stamp of R17. -/
def State.stamp (s : State) : Nat × Nat := (s.recs.pcc, s.recs.opsec)

/-! ## Event recorder (R494, R495, R498) -/

/-- One saturating 32-bit count (R493). -/
def sat32 (n : Nat) : Nat := min n 0xFFFFFFFF

/-- An event-class entry after one more occurrence (R495). -/
def EvEntry.hit (x : EvEntry) (detail : Nat) (st : Nat × Nat) : EvEntry :=
  { count := sat32 (x.count + 1), detail := detail % 2 ^ 32, first := if x.count = 0 then st else x.first, last := st }

/-- Record an occurrence of an event class (R495), or keep it in the Goose island once the recorder is frozen (R498). -/
def record (s : State) (cls detail : Nat) : State :=
  if s.recs.frozen then s.onGoose (fun g => { g with held := g.held ++ [⟨cls, detail⟩] })
  else s.onRecs (fun r =>
    { r with
      classes := Tbl.put r.classes cls ((Tbl.getD r.classes cls {}).hit detail (r.pcc, r.opsec))
      heads := updAt r.heads (cls / 16) (fun h => (h + 1) % 2 ^ 32)
      changedClasses := if r.changedClasses.contains (cls / 16) then r.changedClasses
        else r.changedClasses ++ [cls / 16] })

/-- Scale of a histogram (Table 17-1): whether it is log2, its base L, its unit or step in raw sample units, and the raw
units of MIN and MAX. Raw samples are ns for H0, H1, H3, H5, H6, us for H4, H7, H12, 1/4,096 for H8 and H14, 1/16 C for
H9, index units for H10, mV for H11, ms for H13, seconds for H15. -/
def histScale : Nat → Bool × Nat × Nat × Nat
  | 0 => (true, 0, 20, 20)
  | 1 => (true, 0, 20, 20)
  | 2 => (false, 0, 1, 1)
  | 3 => (true, 0, 50, 50)
  | 4 => (true, 0, 250, 250)
  | 5 => (true, 0, 50, 50)
  | 6 => (true, 0, 100, 100)
  | 7 => (true, 0, 1, 1)
  | 8 => (false, 0, 256, 1)
  | 9 => (false, 0, 128, 1)
  | 10 => (false, 4096, 256, 256)
  | 11 => (false, 700, 8, 8)
  | 12 => (true, 0, 1000, 1000)
  | 13 => (true, 0, 100, 100)
  | 14 => (false, 0, 256, 1)
  | _ => (true, 0, 3600, 3600)

/-- The bin of a raw sample (R494). -/
def histBin (h v : Nat) : Nat :=
  let (log, l, u, _) := histScale h
  if log then (if v < u then 0 else min 15 (Nat.log2 (v / u) + 1))
  else (if v < l then 0 else min 15 ((v - l) / u))

/-- A histogram after one more sample (R494). -/
def Hist.take (x : Hist) (h v : Nat) (st : Nat × Nat) : Hist :=
  let m := v / (histScale h).2.2.2
  let none' := x.bins.all (· == 0)
  { head := (x.head + 1) % 2 ^ 32, bins := updAt x.bins (histBin h v) (fun n => sat32 (n + 1)),
    min := Nat.min x.min (sat32 m), max := Nat.max x.max (sat32 m),
    at0 := if none' || decide (x.max < sat32 m) then st else x.at0 }

/-- Enter a sample in a histogram, unless the recorder is frozen (R494, R498). -/
def sample (s : State) (h v : Nat) : State :=
  if s.recs.frozen then s
  else s.onRecs (fun r => { r with hists := updAt r.hists h (fun x => x.take h v (r.pcc, r.opsec)) })

/-! ## Interrupt causes (R527) -/

/-- Set a cause bit of ID_IRQ. -/
def irq (s : State) (i : Nat) : State :=
  { s with boot := { s.boot with irqCause := s.boot.irqCause ||| BitVec.ofNat 8 (2 ^ i) } }

/-- Level of the IRQ_N ball: low while a cause and its enable are set (R527). -/
def State.irqN (s : State) : Bool := s.boot.irqCause &&& s.boot.irqEn == 0

/-! ## Queue buffers (R300, R302) -/

/-- A 40-bit device buffer address: queue in [39:28], offset in [27:0]. -/
def bufAddr (q off : Nat) : Nat := q * 2 ^ 28 + off

/-- A byte of the queue buffers; a byte that nothing has written reads 0x00 (log 16). -/
def State.bufByte (s : State) (a : Nat) : Byte := Tbl.getD s.eng.buf a 0

/-- Write one byte of the queue buffers, keeping the canonical form. -/
def bufPut (b : List (Nat × Byte)) (a : Nat) (v : Byte) : List (Nat × Byte) :=
  if v = 0 then Tbl.del b a else Tbl.put b a v

/-- Whether the queue buffers are in canonical form: addresses rising, no listed byte equal to 0x00. -/
def Buf.wf (b : List (Nat × Byte)) : Bool := Tbl.wf b && b.all (fun p => p.2 != 0)

/-- Write bytes from an address of the queue buffers upward. -/
def bufWrite : List (Nat × Byte) → Nat → List Byte → List (Nat × Byte)
  | b, _, [] => b
  | b, a, v :: t => bufWrite (bufPut b a v) (a + 1) t

/-- Write bytes to the queue buffers. -/
def State.bufStore (s : State) (a : Nat) (l : List Byte) : State :=
  { s with eng := { s.eng with buf := bufWrite s.eng.buf a l } }

/-- Read n bytes of the queue buffers. -/
def State.bufBytes (s : State) (a n : Nat) : List Byte := (List.range n).map (fun i => s.bufByte (a + i))

/-- Read n bytes of the queue buffers as a little-endian number (R7). -/
def State.bufNum (s : State) (a n : Nat) : Nat := numOf (s.bufBytes a n)

/-- Whether a buffer range lies inside an open queue's buffer (R302). -/
def State.bufRange (s : State) (a n : Nat) : Bool :=
  match s.queue (a / 2 ^ 28) with
  | none => false
  | some q => decide (a % 2 ^ 28 + n ≤ q.bufMib * 2 ^ 20)

/-! ## Performance counters and their ring (R499 to R503) -/

/-- Put whole records in the ring of a queue, or count a drop (R503). A record takes `units` units of 64 bytes; one that
would cross the ring's end is preceded by padding. -/
def ringPut (s : State) (q : Nat) (kind units : Nat) (body : List Byte) : State :=
  match s.queue q with
  | none => s
  | some qu =>
    match qu.ring with
    | none => s
    | some (off, len) =>
      let r := s.recs
      let size := 64 * units
      let pad := if r.prod + size ≤ len then 0 else len - r.prod
      let used := (r.prod + len - r.cons % len) % len
      if used + pad + size < len then
        let hdr := fun (k u n : Nat) => bytesOf (k + u % 256 * 2 ^ 8 + n % 2 ^ 32 * 2 ^ 32 + r.pcc % 2 ^ 32 * 2 ^ 64
          + r.opsec % 2 ^ 40 * 2 ^ 96) 32
        let base := bufAddr q off
        let s1 := if pad = 0 then s else s.bufStore (base + r.prod) (hdr 0 (pad / 64) r.rseq)
        let p1 := if pad = 0 then r.prod else 0
        let n1 := if pad = 0 then r.rseq else r.rseq + 1
        let s2 := s1.bufStore (base + p1) (hdr kind units n1 ++ body)
        s2.onRecs (fun r => { r with prod := (p1 + size) % len, rseq := (n1 + 1) % 2 ^ 32 })
      else s.onRecs (fun r => { r with drops := (r.drops + 1) % 2 ^ 32 })

/-- A sample record of MODE 1 or MODE 2 (R501, R502): two units, whose body the spec lays out in no table: free bytes
(log 1). -/
def sampleRecord (s : State) (kind : Nat) : State :=
  match s.recs.ringQ with
  | none => s
  | some q =>
    ringPut (s.burn 96) q kind 2 ((List.range 96).map (fun i => BitVec.ofNat 8 (Config.freeValue (s.free + i))))

/-- Drive a TRIG ball high (R341, R502). -/
def trigHigh (s : State) (b : Nat) : State := { s with eng := { s.eng with trig := updAt s.eng.trig b (fun _ => 2) } }

/-- Whether a select word counts an event of a unit and, where the event carries one, a label (R500). -/
def Select.counts (x : Select) (ev unit : Nat) (label : Option Nat) : Bool :=
  x.en && x.event == ev && (x.unit == 0x3F || x.unit == unit)
    && (match label with
        | none => true
        | some l => x.label == 0x7F || x.label == l)

/-- Add n to counter i; in MODE 2 an overflow of counter OVC reloads it and leaves its sample due (R502). -/
def addCounter (r : Records) (i n : Nat) : Records :=
  let v := Tbl.getD r.ctr i 0 + n
  if v < 2 ^ 48 then { r with ctr := Tbl.put r.ctr i v }
  else if r.mode = 2 ∧ i = r.ovc then { r with ctr := Tbl.put r.ctr i r.ovPreset, ovDue := true }
  else { r with ctr := Tbl.put r.ctr i (v % 2 ^ 48) }

/-- Count an event in every counter that selects it; the result says whether MODE 1 tags this operation (R501). -/
def countTag (s : State) (ev unit : Nat) (label : Option Nat) (n : Nat) : State × Bool :=
  let hits := s.recs.sel.filter (fun p => p.2.counts ev unit label)
  if hits.isEmpty then (s, false)
  else
    let due := s.recs.ovDue && hits.any (fun p => p.1 == s.recs.ovc)
    let s1 := if due then
        let t := sampleRecord s 0x03
        let t := match t.recs.perfTrig with
          | none => t
          | some b => trigHigh t b
        t.onRecs (fun r => { r with ovDue := false })
      else s
    let s2 := s1.onRecs (fun r => hits.foldl (fun r p => addCounter r p.1 n) r)
    if s2.recs.mode = 1 then
      if s2.recs.tagCount + 1 < 2 ^ s2.recs.taglog then
        (s2.onRecs (fun r => { r with tagCount := r.tagCount + 1 }), false)
      else (s2.onRecs (fun r => { r with tagCount := 0 }), true)
    else (s2, false)

/-- Count an event that is an operation complete in itself. -/
def count (s : State) (ev unit : Nat) (label : Option Nat) (n : Nat) : State :=
  let (t, tag) := countTag s ev unit label n
  if tag then sampleRecord t 0x02 else t

/-- Count an event of a request; a request that MODE 1 tags is followed to its completion. -/
def countReq (s : State) (r : Req) (ev unit : Nat) (n : Nat) : State × Req :=
  let (t, tag) := countTag s ev unit (some r.label) n
  (t, if tag then { r with tagged := true } else r)

/-! ## Messages and flits (R360, R363, R368, R379) -/

/-- Words of a message (Tables 12-5 to 12-7). -/
def Msg.words : Msg → Nat
  | .cpl _ _ _ _ dlen _ => 1 + dlen
  | .ntf _ _ => 9
  | .strm _ _ _ _ _ _ _ _ => 30

/-- Flits of a message: each message starts a flit of its own (log 9). -/
def Msg.flits (m : Msg) : Nat := ceilDiv m.words 30

/-- Virtual channel of a message (Table 12-6). -/
def Msg.vc : Msg → Nat
  | .cpl vc _ _ _ _ _ => vc
  | .ntf _ _ => 3
  | .strm _ _ _ _ _ _ _ _ => 2

/-- Session of a message. -/
def Msg.session : Msg → Nat
  | .cpl _ n _ _ _ _ => n
  | .ntf n _ => n
  | .strm _ n _ _ _ _ _ _ => n

/-- Tag that leaves with the first flit of a CPL (R370). -/
def Msg.tag : Msg → Option Nat
  | .cpl _ _ tag _ _ _ => some tag
  | _ => none

/-- Whether a port carries flits: ACTIVE, or REPLAY, which is ACTIVE while a replay runs (R374). -/
def Port.up (p : Port) : Bool := p.state == 2 || p.state == 3

/-- Send one message as flits: it takes the next SEQ and one credit of its VC per flit and stays for replay (R360). -/
def Port.emit (p : Port) (m : Msg) : Port :=
  let fl := (List.range m.flits).map (fun i => (⟨(p.txSeq + i) % 1024, m.vc, m, i⟩ : Flit))
  { p with
    txSeq := (p.txSeq + m.flits) % 1024, replay := p.replay ++ fl, sent := fl.reverse ++ p.sent,
    credit := updAt p.credit m.vc (fun n => n - m.flits), outTags := p.outTags.filter (fun t => some t != m.tag) }

/-- Whether a message can leave now: credit of its VC, and room in the 512-flit replay buffer (R368, R379). -/
def Port.canEmit (p : Port) (m : Msg) : Bool :=
  p.up && decide (m.flits ≤ p.credit.getD m.vc 0) && decide (p.replay.length + m.flits ≤ 512)

/-- Send what waits, in order within each VC; VC2 never waits for VC3 (R371). -/
def Port.pump (p : Port) : Port :=
  let go := fun (acc : Port × List Msg) (m : Msg) =>
    if acc.2.any (fun w => w.vc == m.vc) then (acc.1, acc.2 ++ [m])
    else if acc.1.canEmit m then (acc.1.emit m, acc.2)
    else (acc.1, acc.2 ++ [m])
  let (q, rest) := p.txq.foldl go ({ p with txq := [] }, [])
  { q with txq := rest }

/-- Build a message at a port and send what can leave. -/
def sendMsg (s : State) (p : Nat) (m : Msg) : State := s.updPort p (fun x => Port.pump { x with txq := x.txq ++ [m] })

/-- Send a control flit: neither sequenced, credited nor replayed (R360). -/
def Port.control (p : Port) (ctype : Nat) : Port := { p with ctrl := ctype :: p.ctrl }

/-- Answer a host request with a CPL (R13, R363). -/
def sendCpl (s : State) (p n tag vc status dlen : Nat) (data : Line) : State :=
  sendMsg s p (.cpl vc n tag (status % 32) (if status = Config.OK then dlen else 0)
    (if status = Config.OK then data else 0))

/-! ## Arbiters (R280, R282) -/

/-- The records of an arbiter; an arbiter that nothing has touched stands at the quota of H.INIT (R283). -/
def State.arb (s : State) (a : Nat) : Arb := Tbl.getD s.regul.arbs a {}

/-- Put an arbiter. -/
def State.putArb (s : State) (a : Nat) (x : Arb) : State :=
  { s with regul := { s.regul with arbs := Tbl.put s.regul.arbs a x } }

/-- A request enters the pending queue of a requester at an arbiter; behind 32 that wait there it waits at its issuer (R282). -/
def arbWant (s : State) (a q : Nat) : State :=
  let x := s.arb a
  let r := Tbl.getD x.recs q {}
  s.putArb a { x with
    recs := Tbl.put x.recs q
      (if r.pend.length < 32 then { r with pend := r.pend ++ [s.regul.refTicks] } else { r with late := r.late + 1 }) }

/-- A request of a requester has been granted or goes: the next one that waits for its pending queue enters it (R282). -/
def ArbRec.next (r : ArbRec) (pend : List Nat) (now : Nat) : ArbRec :=
  if 0 < r.late then { r with pend := pend ++ [now], late := r.late - 1 } else { r with pend := pend }

/-- A requester's latest request leaves an arbiter: it goes to another class. -/
def arbDrop (s : State) (a q : Nat) : State :=
  let x := s.arb a
  s.putArb a { x with
    recs := Tbl.upd x.recs q (fun r => if 0 < r.late then { r with late := r.late - 1 } else { r with pend := r.pend.dropLast }) }

/-- Slot tables of a channel. -/
def State.slotsOf (s : State) (ch : Nat) : Slots := s.regul.slots.getD ch Slots.reset

/-! ## Labels and privileges -/

/-- Whether a queue belongs to an ADMIN session (R299). -/
def State.queueAdmin (s : State) (q : Nat) : Bool :=
  match s.queue q with
  | none => false
  | some x => (s.sess x.port x.session).admin

/-- Label of a queue. -/
def State.queueLabel (s : State) (q : Nat) : Nat := ((s.queue q).map (·.label)).getD 0

/-- Label of the session that owns a queue. -/
def State.queueSessLabel (s : State) (q : Nat) : Nat :=
  match s.queue q with
  | none => 0
  | some x => (s.sess x.port x.session).label

/-- Whether two queues belong to the same session. -/
def State.sameSession (s : State) (q r : Nat) : Bool :=
  match s.queue q, s.queue r with
  | some x, some y => x.port == y.port && x.session == y.session
  | _, _ => false

end Sys2Proof.Machine
end

