-- ==== Sys2Proof/Machine/Flags.lean ====
section
/-! DEFINITION. The status register st (Table 10-2), the flag computations of the register instructions (Table 11-6)
and the branch conditions (Table 11-5). -/

namespace Sys2Proof.Machine

open Sys2Proof

/-- The three flags Z, N and C. -/
structure Flg where
  z : Bool
  n : Bool
  c : Bool
  deriving DecidableEq, Repr

/-- The flags that st holds. -/
def flagsOf (st : W64) : Flg := ⟨st.getLsbD 8, st.getLsbD 9, st.getLsbD 10⟩

/-- st with a status, flags and a count; every reserved bit reads zero (R294). -/
def stWord (status : Nat) (f : Flg) (count : Nat) : W64 :=
  BitVec.ofNat 32 count ++ (0 : BitVec 21) ++ BitVec.ofBool f.c ++ BitVec.ofBool f.n ++ BitVec.ofBool f.z ++ BitVec.ofNat 8 status

/-- STATUS of st. -/
def statusOf (st : W64) : Nat := st.toNat % 256

/-- COUNT of st. -/
def countOf (st : W64) : Nat := st.toNat / 2 ^ 32

/-- Z and N of a result; C as given. -/
def flagsRes (d : W64) (c : Bool) : Flg := ⟨d == 0, d.getLsbD 63, c⟩

/-- Carry out of an addition. -/
def carryAdd (a x : W64) : Bool := decide (2 ^ 64 ≤ a.toNat + x.toNat)

/-- Flags of CMP: equal, less signed, less unsigned. -/
def flagsCmp (a x : W64) : Flg := ⟨a == x, a.slt x, a.ult x⟩

/-- Result and carry of SHF by kind: 0 left logical, 1 right logical, 2 right arithmetic, 3 rotate right; C is the last
bit shifted out, 0 for count 0. -/
def shfRes (kind : Nat) (a : W64) (k : Nat) : W64 × Bool :=
  match kind with
  | 0 => (a <<< k, k != 0 && a.getLsbD (64 - k))
  | 1 => (a >>> k, k != 0 && a.getLsbD (k - 1))
  | 2 => (a.sshiftRight k, k != 0 && a.getLsbD (k - 1))
  | _ => (a.rotateRight k, k != 0 && a.getLsbD (k - 1))

/-- Branch conditions (Table 11-5); none for a reserved one. -/
def brTaken (cond : Nat) (f : Flg) : Option Bool :=
  match cond with
  | 0x0 => some f.z
  | 0x1 => some (!f.z)
  | 0x2 => some f.n
  | 0x3 => some (!f.n)
  | 0x4 => some f.c
  | 0x5 => some (!f.c)
  | 0x6 => some (f.z || f.n)
  | 0x7 => some (!f.z && !f.n)
  | 0x8 => some true
  | _ => none

/-- st after an instruction that sets STATUS and COUNT and leaves Z, N and C (R330). -/
def Ctx.withStatus (x : Ctx) (status count : Nat) : Ctx := { x with st := stWord status (flagsOf x.st) count }

/-- A context with new flags; STATUS and COUNT follow when the instruction completes. -/
def Ctx.withFlags (x : Ctx) (f : Flg) : Ctx := { x with st := stWord (statusOf x.st) f (countOf x.st) }

end Sys2Proof.Machine
end

