-- ==== Sys2Proof/Machine/Operands.lean ====
section
/-! DEFINITION. Every operand form of a Syned instruction: registers, the second operand X, the memory address operand
(Table 11-2), the raw target register (Table 11-14), and the blocks an instruction reads from a buffer. -/

namespace Sys2Proof.Machine

open Sys2Proof

/-- Register g of a context. -/
def Ctx.reg (x : Ctx) (i : BitVec 5) : W64 := x.g.getD i.toNat 0

/-- A context with register g written. -/
def Ctx.setReg (x : Ctx) (i : BitVec 5) (v : W64) : Ctx :=
  { x with g := (List.range 32).map (fun k => if k = i.toNat then v else x.g.getD k 0) }

/-- Word of an engine's program table. -/
def State.progWord (s : State) (e pc : Nat) : W64 := Tbl.getD s.eng.prog (8192 * e + pc % 8192) 0

/-- The instruction word a context stands at. -/
def State.wordAt (s : State) (e c : Nat) : SWord := decodeWord (s.progWord e (s.ctx e c).pc)

/-- The immediate, sign-extended from bit 27. -/
def immX (w : SWord) : W64 := w.immf.signExtend 64

/-- The second operand X (Register instructions): register B, the immediate, or the second word. -/
def State.opX (s : State) (e c : Nat) (w : SWord) : W64 :=
  if w.imm then (if w.long then s.progWord e ((s.ctx e c).pc + 1) else immX w) else (s.ctx e c).reg w.b

/-- Words that an instruction takes in the program table. -/
def wordLen (w : SWord) : Nat := if w.long then 2 else 1

/-- A memory address operand (Table 11-2): host address, or device buffer address; none where a reserved bit is set
(R334). -/
inductive Place where
  | host (a : Nat)
  | buf (a : Nat)
  deriving DecidableEq, Repr

/-- Read a memory address operand (R334). -/
def placeOf (v : W64) : Option Place :=
  let n := v.toNat
  if n / 2 ^ 63 = 0 then (if n < 2 ^ 44 then some (.host n) else none)
  else (if n % 2 ^ 63 < 2 ^ 40 then some (.buf (n % 2 ^ 63)) else none)

/-- The operand as a buffer address; none for a host address. -/
def bufOf (v : W64) : Option Nat :=
  match placeOf v with
  | some (.buf a) => some a
  | _ => none

/-- The operand as a host address; none for a buffer address. -/
def hostOf (v : W64) : Option Nat :=
  match placeOf v with
  | some (.host a) => some a
  | _ => none

/-- Status of an access by a queue to a buffer range: DENIED for a TENANT queue outside its session's buffers,
BAD_OPERAND beyond the buffer (R302). -/
def State.bufCheck (s : State) (q a n : Nat) : Nat :=
  if !s.queueAdmin q && !s.sameSession q (a / 2 ^ 28) then Config.DENIED
  else if s.bufRange a n then Config.OK
  else Config.BAD_OPERAND

/-- Address and status of a buffer operand that an instruction names. -/
def State.bufArg (s : State) (q : Nat) (v : W64) (n : Nat) : Nat × Nat :=
  match bufOf v with
  | none => (0, Config.BAD_OPERAND)
  | some a => (a, s.bufCheck q a n)

/-- A raw target (Table 11-14). -/
structure RawTarget where
  unit : Nat
  slot : Nat
  fx : Nat
  tgt : Nat
  ok : Bool
  deriving DecidableEq, Repr

/-- Read a raw target register (R344). -/
def rawTarget (v : W64) : RawTarget :=
  let n := v.toNat
  { unit := bitsOf n 3 0, slot := bitsOf n 27 16, fx := bitsOf n 56 32, tgt := bitsOf n 63 62,
    ok := bitsOf n 15 4 == 0 && bitsOf n 31 28 == 0 && bitsOf n 61 57 == 0 }

/-- Fields of a task descriptor (Table 10-5). -/
structure TaskDesc where
  kind : Nat
  order : Bool
  notify : Bool
  entry : Nat
  tag : Nat
  args : List W64
  limit : Nat
  reservedOk : Bool
  deriving DecidableEq, Repr

/-- Read a task descriptor (R303). -/
def taskDesc (d : BitVec 512) : TaskDesc :=
  { kind := (d.extractLsb' 0 8).toNat, order := d.getLsbD 8, notify := d.getLsbD 9,
    entry := (d.extractLsb' 16 13).toNat, tag := (d.extractLsb' 32 32).toNat,
    args := (List.range 4).map (fun i => d.extractLsb' (64 + 64 * i) 64),
    limit := (d.extractLsb' 320 32).toNat,
    reservedOk := d.extractLsb' 10 6 == 0 && d.extractLsb' 29 3 == 0 && d.extractLsb' 352 160 == 0 }

/-- Fields of QOPEN ARG0 (Table 10-4). -/
structure QopenArg where
  queue : Nat
  engine : Nat
  dlog : Nat
  clog : Nat
  label : Nat
  bufMib : Nat
  reservedOk : Bool
  deriving DecidableEq, Repr

/-- Read QOPEN ARG0 (R301). -/
def qopenArg (v : W64) : QopenArg :=
  let n := v.toNat
  { queue := bitsOf n 11 0, engine := bitsOf n 19 16, dlog := bitsOf n 24 20, clog := bitsOf n 29 25,
    label := bitsOf n 35 30, bufMib := bitsOf n 46 40,
    reservedOk := bitsOf n 15 12 == 0 && bitsOf n 39 36 == 0 && bitsOf n 63 47 == 0 }

/-- A region record (Table 11-11) read from 32 bytes; the second part says that every reserved field is zero and every
value stands in Table 2-2. -/
structure RgnRec where
  index : Nat
  region : Region
  act : Nat
  ok : Bool
  deriving DecidableEq, Repr

/-- Read a region record (R342). -/
def rgnRec (n : Nat) : RgnRec :=
  { index := bitsOf n 7 0, act := bitsOf n 193 192,
    region := { base := bitsOf n 107 64, size := bitsOf n 171 128, density := bitsOf n 9 8, mono := bitOf n 10,
                integ := bitOf n 11, key := bitsOf n 17 12, label := bitsOf n 23 18, access := bitsOf n 25 24,
                ways := BitVec.ofNat 16 (bitsOf n 47 32) },
    ok := bitsOf n 31 26 == 0 && bitsOf n 63 48 == 0 && bitsOf n 127 108 == 0 && bitsOf n 191 172 == 0
      && bitsOf n 255 194 == 0 && bitsOf n 9 8 != 3 && bitsOf n 25 24 != 3 }

end Sys2Proof.Machine
end

