-- ==== Sys2Proof/Machine/Task.lean ====
section
/-! DEFINITION. How a context moves on: completion of an instruction, step control (Table 10-3), the end of a task,
waiting and resuming, notifications (R308 to R311) and claims (R315 to R317). -/

namespace Sys2Proof.Machine

open Sys2Proof

/-! ## Completion of an instruction -/

/-- Instructions a house routine issues one after another (Table 10-10). -/
def houseSteps : Nat → Nat
  | 5 => 2
  | 6 => 2
  | 8 => 2
  | _ => 1

/-- Whether a status lets HALT_ERR and SKIP_ERR go on. -/
def goodStatus (st : Nat) : Bool := st == Config.OK || st == Config.PARTIAL

/-- The task ends (R305, R340): it waits for the context's posted units, then stays ENDING until its completion entry is
written. A task that ends by HALT_ERR, LIMIT_MS or a failed check 1 keeps the status that ended it; at END a posted
unit that failed since the last FENCE gives its code. -/
def endTask (s : State) (e c status : Nat) (forced : Bool) : State :=
  s.updCtx e c (fun x =>
    if x.posted.isEmpty then
      { x with
        state := 5, wait := .none, house := 0
        endCode := if forced || x.postFail == 0 then status else x.postCode }
    else { x with state := 3, house := 0, wait := .ended status forced })

/-- The next step of a program after a completed instruction (R297). YIELD_AFTER is as NEXT: the rotation of the engine puts every context that
took a step behind its equal-label peers (R295; DEDUCED, log 98). -/
def advance (s : State) (e c st : Nat) : State :=
  let x := s.ctx e c
  let w := s.wordAt e c
  let nx := (x.pc + wordLen w) % 8192
  let go := fun (pc : Nat) => s.putCtx e c { x with state := 1, wait := .none, pc := pc, lastPc := x.pc }
  match w.step.toNat with
  | 1 => if goodStatus st then go nx else endTask s e c st true
  | 2 => go (if st = Config.OK then (nx + 1) % 8192 else nx)
  | 3 => go (if goodStatus st then nx else (nx + 1) % 8192)
  | _ => go nx

/-- An instruction completes with a status and a count (R330, R331). In a house routine the next instruction of the
routine follows, or the routine returns its result (R298, R313): to the step control of the CALL, or as the completion
of an HCALL. What a routine returns in g0 beside its status the spec gives for no routine: g0 keeps its argument (DESIGN CHOICE,
log 99). A task whose LIMIT_MS has expired stops here (R305). -/
def complete (s : State) (e c st cnt : Nat) : State :=
  let x := (s.ctx e c).withStatus st cnt
  let s1 := s.putCtx e c { x with state := 1, wait := .none }
  if x.expired then endTask s1 e c Config.TIMEOUT true
  else if x.house = 0 then advance s1 e c st
  else if goodStatus st && decide (x.houseStep + 1 < houseSteps x.house) then
    s1.updCtx e c (fun x => { x with houseStep := x.houseStep + 1 })
  else if x.hcall then endTask s1 e c st true
  else advance (s1.updCtx e c (fun x => { x with house := 0, houseStep := 0 })) e c st

/-- An instruction that writes register D and completes. -/
def completeD (s : State) (e c : Nat) (d : BitVec 5) (v : W64) (st cnt : Nat) : State :=
  complete (s.updCtx e c (fun x => x.setReg d v)) e c st cnt

/-- The pc goes to a target; step control is ignored (JMP, taken branches, CALL, RET). -/
def jumpTo (s : State) (e c target : Nat) : State :=
  let x := (s.ctx e c).withStatus Config.OK 0
  let s1 := s.putCtx e c { x with
    state := 1, wait := .none, pc := target % 8192, lastPc := x.pc }
  if x.expired then endTask s1 e c Config.TIMEOUT true else s1

/-- A context waits (R331). -/
def suspend (s : State) (e c : Nat) (w : Wait) : State := s.updCtx e c (fun x => { x with state := 3, wait := w })

/-- Place of a context in the rotation of its engine: contexts in order, behind the one that took the last step (R295). -/
def State.place (s : State) (e c : Nat) : Nat := (c + 31 - Tbl.getD s.eng.lastStep e 31) % 32

/-- Whether a context may take a step: it is READY, no READY context of its engine holds a higher label, and of those of equal label it is
the next in the rotation (R295). -/
def State.canStep (s : State) (e c : Nat) : Bool :=
  let x := s.ctx e c
  s.live && decide (e < 16) && decide (c < 32) && x.state == 1
    && s.eng.ctx.all (fun p => p.1 / 32 != e || p.2.state != 1 || decide (p.2.label < x.label)
      || (p.2.label == x.label && decide (s.place e c ≤ s.place e (p.1 % 32))))

/-- A context takes a step: its engine goes on behind it (R295). -/
def took (s : State) (e c : Nat) : State := { s with eng := { s.eng with lastStep := Tbl.put s.eng.lastStep e c } }

/-- Whether a TENANT queue may issue an instruction before its own limits (Table 10-9, R312). -/
def State.issueOk (s : State) (q : Nat) (row : OpRow) (w : SWord) : Bool :=
  s.queueAdmin q || (!row.admin && !w.force)

/-- One step of a program: the word at the context's pc is checked in the order of R328 and, where it is a word of this
command, its own part runs. Check 1 failing ends the task whichever command takes the step. -/
def synStep (s : State) (e c : Nat) (mine : SWord → Bool) (body : State → SWord → State) : State :=
  if s.canStep e c && (s.ctx e c).house == 0 then
    let w := s.wordAt e c
    let x := s.ctx e c
    if !w.formOk x.pc then endTask (took s e c) e c Config.BAD_OPERAND true
    else if !mine w then s
    else
      let s := count (took s e c) 0x12 e none 1
      match opRow w.op with
      | none => s
      | some row =>
        if !w.fieldsOk then complete s e c Config.BAD_OPERAND 0
        else if !s.issueOk x.queue row w then complete s e c Config.DENIED 0
        else if !s.fullService && !row.lamb then complete s e c Config.NOT_READY 0
        else if s.maps.readOnly && row.readOnly then complete s e c Config.READ_ONLY 0
        else body s w
  else s

/-- One step of a house routine in a context (R298, R313). -/
def houseStepOf (s : State) (e c n : Nat) (body : State → Nat → State) : State :=
  if s.canStep e c && (s.ctx e c).house == n && n != 0 then body (took s e c) (s.ctx e c).houseStep else s

/-! ## Waiting contexts -/

/-- Keys of the contexts that wait, by what they wait for. -/
def State.waiters (s : State) (f : Wait → Bool) : List Nat :=
  (s.eng.ctx.filter (fun p => p.2.state == 3 && f p.2.wait)).map (·.1)

/-- Complete the instruction of every context that waits for something. -/
def resumeAll (s : State) (f : Wait → Bool) (st cnt : Nat) : State :=
  (s.waiters f).foldl (fun s k => complete s (k / 32) (k % 32) st cnt) s

/-! ## Notifications -/

/-- A notification record in its two words of a latch (Table 10-8, R310). -/
def Ntf.lo (n : Ntf) : W64 :=
  BitVec.ofNat 64 (n.kind % 256 + n.status % 256 * 2 ^ 8 + (if n.device then 0 else n.queue % 4096) * 2 ^ 16
    + flag n.device * 2 ^ 28 + n.subject % 2 ^ 32 * 2 ^ 32)

/-- Bits [127:64] of a notification record. -/
def Ntf.hi (n : Ntf) : W64 := BitVec.ofNat 64 (n.pcc % 2 ^ 32 + n.opsec % 2 ^ 32 * 2 ^ 32)

/-- A record enters a session's notification queue; a COMPLETION is dropped and counted while it holds more than 192
(R309). -/
def Session.queueNtf (x : Session) (n : Ntf) : Session :=
  if n.kind = 0x01 ∧ 192 < x.ntfq.length then { x with dropped := x.dropped + 1 } else { x with ntfq := x.ntfq ++ [n] }

/-- A queue latches a record: 16 at most, the oldest displaced and counted (R337). -/
def Queue.latchNtf (x : Queue) (n : Ntf) : Queue :=
  if 16 ≤ x.latch.length then { x with latch := x.latch.drop 1 ++ [n], discarded := x.discarded + 1 }
  else { x with latch := x.latch ++ [n] }

/-- The lowest-numbered context of a queue that waits for a notification resumes with the oldest latched record (R310,
R337); its bounding timer stops. -/
def wakeNotify (s : State) (q : Nat) : State :=
  match s.queue q with
  | none => s
  | some x =>
    match x.latch with
    | [] => s
    | n :: rest =>
      match s.eng.ctx.find? (fun p => p.2.state == 3 && p.2.queue == q
          && (match p.2.wait with
              | .notify _ => true
              | _ => false)) with
      | none => s
      | some (k, y) =>
        let s1 := s.updQueue q (fun x => { x with latch := rest, discarded := 0 })
        let s2 := match y.wait with
          | .notify (some t) =>
            { s1 with eng := { s1.eng with timers := updAt s1.eng.timers t (fun x => { x with armed := false }) } }
          | _ => s1
        let s3 := s2.updCtx (k / 32) (k % 32) (fun x => (x.setReg 30 n.lo).setReg 31 n.hi)
        complete s3 (k / 32) (k % 32) Config.OK x.discarded

/-- Latch a record at a queue's engine and wake a context that waits for it. -/
def latchAt (s : State) (q : Nat) (n : Ntf) : State := wakeNotify (s.updQueue q (fun x => x.latchNtf n)) q

/-- Send a notification about an object of a queue to the session that owns the queue (R308, R310). -/
def notify (s : State) (q kind status subject : Nat) : State :=
  match s.queue q with
  | none => s
  | some x =>
    let n : Ntf := ⟨kind, status, q, false, subject, s.recs.pcc, s.recs.opsec⟩
    latchAt (s.updSess x.port x.session (fun y => y.queueNtf n)) q n

/-- Send a device-wide notification to every open session; the records of R71 and R485 are latched for every queue. -/
def notifyDevice (s : State) (status subject : Nat) (latched : Bool) : State :=
  let n : Ntf := ⟨0x05, status, 0, true, subject, s.recs.pcc, s.recs.opsec⟩
  let s1 := { s with ports := s.ports.map (fun p =>
    { p with sessions := p.sessions.map (fun x => if x.isOpen then x.queueNtf n else x) }) }
  if latched then (s1.eng.queues.map (·.1)).foldl (fun s q => latchAt s q n) s1 else s1

/-- Send a record about a commitment: to its owner, or, with no owner queue, to the control queue of session 0 of every
port in ACTIVE (R311). -/
def notifyCommit (s : State) (owner : Option Nat) (status subject : Nat) : State :=
  match owner with
  | some q => notify s q 0x03 status subject
  | none => (List.range s.portCount).foldl (fun s p =>
      if (s.port p).state = 2 then notify s (8 * p) 0x03 status subject else s) s

/-! ## Claims -/

/-- Whether a queue may use a resource: it is free or already its own (R315, R316). -/
def State.claimOk (s : State) (q r : Nat) : Bool :=
  match Tbl.find s.eng.claims r with
  | none => true
  | some h => h == q

/-- A queue takes a resource. -/
def claimFor (s : State) (q r : Nat) : State := { s with eng := { s.eng with claims := Tbl.put s.eng.claims r q } }

/-- What a holder of the TRIG ball or of the SMBus alert configured with it no longer applies (R315, R463). -/
def dropUses (s : State) (r : Nat) : State :=
  let g := s.goose
  let own := fun (t : Option Nat) => if t = some r then none else t
  if r < 4 then
    { s with
      goose := { g with warnTrig := own g.warnTrig }
      recs := { s.recs with perfTrig := own s.recs.perfTrig }
      eng := { s.eng with streams := s.eng.streams.map (fun p => (p.1, { p.2 with trig := own p.2.trig })) } }
  else if r = 0x10 then { s with recs := { s.recs with periodMs := 0 } }
  else if r = 0x11 then
    { s with goose := { g with warnAlert := false, rails := g.rails.map (fun x => { x with alert := false }) } }
  else s

/-- A resource becomes free: a TRIG ball goes back to high impedance, a timer stops (R526), and what its holder configured with
it ends. -/
def freeClaim (s0 : State) (r : Nat) : State :=
  let s := dropUses s0 r
  let g := s.eng
  { s with
    eng := { g with
      claims := Tbl.del g.claims r
      trig := if r < 4 then updAt g.trig r (fun _ => 0) else g.trig
      timers := if 8 ≤ r ∧ r < 16 then updAt g.timers (r - 8) (fun x => { x with armed := false }) else g.timers } }

/-- Drive a claimed TRIG ball low, its idle level (R526, log 7). -/
def trigIdle (s : State) (b : Nat) : State := { s with eng := { s.eng with trig := updAt s.eng.trig b (fun _ => 1) } }

/-- A queue takes a resource that it may use (R315): a TRIG ball it newly takes goes to its idle level. -/
def takeRes (s : State) (q r : Nat) : State :=
  if Tbl.has s.eng.claims r then s
  else
    let t := claimFor s q r
    if r < 4 then trigIdle t r else t

/-- Whether a context waits on timer n. -/
def Wait.onTimer (w : Wait) (n : Nat) : Bool := w == .timer n || w == .notify (some n)

/-- Arm a timer for a context (R337); a context that an earlier WAIT left on it resumes with ABORTED (log 35). -/
def armTimer (s : State) (t us e c : Nat) : State :=
  let s1 := resumeAll s (fun w => w.onTimer t) Config.ABORTED 0
  { s1 with
    eng := { s1.eng with
      timers := updAt s1.eng.timers t (fun _ => { armed := true, due := s1.regul.refTicks + ticksOfUs us, e := e, c := c }) } }

end Sys2Proof.Machine
end

