-- ==== Sys2Proof/Machine/Flow.lean ====
section
/-! DEFINITION. The flow instructions (Table 11-4), the timers and the limits of a task. -/

namespace Sys2Proof.Machine

open Sys2Proof

/-- The outcome of a command that leaves a next state. -/
abbrev Out := Host.Outcome State Fault Refusal

/-- STEP: STATUS takes a code of Table 0-5. -/
def stepBody (e c : Nat) (s : State) (w : SWord) : State :=
  if w.fld 7 0 ≤ 0x12 then complete s e c (w.fld 7 0) 0 else complete s e c Config.BAD_OPERAND 0

/-- STEP (Table 11-4). -/
def execStep (e c : Nat) (s : State) : Out := .next (synStep s e c (fun w => w.op == 0x00) (stepBody e c))

/-- JMP: pc takes the target; step control is ignored (Table 11-4). -/
def execJmp (e c : Nat) (s : State) : Out :=
  .next (synStep s e c (fun w => w.op == 0x01) (fun s w => jumpTo s e c (w.fld 12 0)))

/-- BR: the target if the condition of Table 11-5 holds; a reserved condition gives BAD_OPERAND (R336). -/
def brBody (e c : Nat) (s : State) (w : SWord) : State :=
  match brTaken (w.fld 19 16) (flagsOf (s.ctx e c).st) with
  | none => complete s e c Config.BAD_OPERAND 0
  | some true => jumpTo s e c (w.fld 12 0)
  | some false => complete s e c Config.OK 0

/-- BR (R336). -/
def execBr (e c : Nat) (s : State) : Out := .next (synStep s e c (fun w => w.op == 0x02) (brBody e c))

/-- LOOP: A falls by one; the target while A is not zero (Table 11-4). -/
def loopBody (e c : Nat) (s : State) (w : SWord) : State :=
  let v := (s.ctx e c).reg w.a - 1
  let s1 := s.updCtx e c (fun x => x.setReg w.a v)
  if v = 0 then complete s1 e c Config.OK 0 else jumpTo s1 e c (w.fld 12 0)

/-- LOOP (Table 11-4). -/
def execLoop (e c : Nat) (s : State) : Out := .next (synStep s e c (fun w => w.op == 0x03) (loopBody e c))

/-- Whether a register holds a timer duration of 1 to 4,294,967,295 us (R337). -/
def durationOk (v : W64) : Bool := v != 0 && decide (v.toNat < 2 ^ 32)

/-- WAIT of KIND 0: claim timer Tn, arm it for A us and wait (R337, R315). -/
def waitTimerBody (e c : Nat) (s : State) (w : SWord) : State :=
  let x := s.ctx e c
  let n := w.fld 10 8
  let a := x.reg w.a
  if !durationOk a then complete s e c Config.BAD_OPERAND 0
  else if !s.claimOk x.queue (8 + n) then complete s e c Config.CONFLICT 0
  else suspend (armTimer (claimFor s x.queue (8 + n)) n a.toNat e c) e c (.timer n)

/-- WAIT of KIND 0 (R337). -/
def execWaitTimer (e c : Nat) (s : State) : Out :=
  .next (synStep s e c (fun w => w.op == 0x04 && !w.bit 0) (waitTimerBody e c))

/-- WAIT of KIND 1: wait for the oldest latched record of the queue, bounded by Tn where TIMED is 1 (R310, R337). -/
def waitNotifyBody (e c : Nat) (s : State) (w : SWord) : State :=
  let x := s.ctx e c
  let n := w.fld 10 8
  let a := x.reg w.a
  if !w.bit 11 then wakeNotify (suspend s e c (.notify none)) x.queue
  else if !durationOk a then complete s e c Config.BAD_OPERAND 0
  else if !s.claimOk x.queue (8 + n) then complete s e c Config.CONFLICT 0
  else wakeNotify (suspend (armTimer (claimFor s x.queue (8 + n)) n a.toNat e c) e c (.notify (some n))) x.queue

/-- WAIT of KIND 1 (R310). -/
def execWaitNotify (e c : Nat) (s : State) : Out :=
  .next (synStep s e c (fun w => w.op == 0x04 && w.bit 0) (waitNotifyBody e c))

/-- CALL of a program address: push and jump; with all eight entries in use the task ends with BAD_OPERAND (R296). -/
def callBody (e c : Nat) (s : State) (w : SWord) : State :=
  let x := s.ctx e c
  if 8 ≤ x.stack.length then endTask s e c Config.BAD_OPERAND true
  else jumpTo (s.updCtx e c (fun x => { x with stack := ((x.pc + 1) % 8192) :: x.stack })) e c (w.fld 12 0)

/-- CALL (R296). -/
def execCall (e c : Nat) (s : State) : Out :=
  .next (synStep s e c (fun w => w.op == 0x05 && !w.bit 27) (callBody e c))

/-- CALL with HOUSE: the routine runs in this context (R298, R313); a TENANT queue may call H.SCRUB_RANGE only (Table
10-9). -/
def callHouseBody (e c : Nat) (s : State) (w : SWord) : State :=
  let x := s.ctx e c
  let n := w.fld 7 0
  if !s.queueAdmin x.queue && n != 4 then complete s e c Config.DENIED 0
  else if n = 0 ∨ 9 < n then complete s e c Config.BAD_OPERAND 0
  else s.updCtx e c (fun x => { x with house := n, houseStep := 0 })

/-- CALL with HOUSE (R313). -/
def execCallHouse (e c : Nat) (s : State) : Out :=
  .next (synStep s e c (fun w => w.op == 0x05 && w.bit 27) (callHouseBody e c))

/-- RET: pop and jump; with an empty stack the task ends with BAD_OPERAND (R296). -/
def retBody (e c : Nat) (s : State) (_ : SWord) : State :=
  match (s.ctx e c).stack with
  | [] => endTask s e c Config.BAD_OPERAND true
  | a :: rest => jumpTo (s.updCtx e c (fun x => { x with stack := rest })) e c a

/-- RET (R296). -/
def execRet (e c : Nat) (s : State) : Out := .next (synStep s e c (fun w => w.op == 0x06) (retBody e c))

/-- END: the task ends with STATUS of its last step (R305, R340); st is unchanged. -/
def execEndTask (e c : Nat) (s : State) : Out :=
  .next (synStep s e c (fun w => w.op == 0x07) (fun s _ => endTask s e c (statusOf (s.ctx e c).st) false))

/-- YIELD: the context is READY behind its equal-label peers, where the rotation of R295 puts it (log 98). -/
def yieldBody (e c : Nat) (s : State) (_ : SWord) : State := complete s e c Config.OK 0

/-- YIELD (R295). -/
def execYield (e c : Nat) (s : State) : Out := .next (synStep s e c (fun w => w.op == 0x08) (yieldBody e c))

/-- A timer expires no earlier than its due time; the context that waits on it resumes, a WAIT of KIND 1 with TIMEOUT
(R337). -/
def timerExpiry (n : Nat) (s : State) : State :=
  let t := s.eng.timers.getD n {}
  if s.live && t.armed && decide (t.due ≤ s.regul.refTicks) then
    let s1 := { s with eng := { s.eng with timers := updAt s.eng.timers n (fun x => { x with armed := false }) } }
    let x := s1.ctx t.e t.c
    if x.state = 3 ∧ x.wait = .timer n then complete s1 t.e t.c Config.OK 0
    else if x.state = 3 ∧ x.wait = .notify (some n) then complete s1 t.e t.c Config.TIMEOUT 0
    else s1
  else s

/-- TIMER_EXPIRY (R337). -/
def execTimerExpiry (n : Nat) (s : State) : Out := .next (timerExpiry n s)

/-- A task's LIMIT_MS expires: it stops at its next step boundary with TIMEOUT; a mule operation already handed over
finishes first (R305). -/
def limitMsExpiry (e c : Nat) (s : State) : State :=
  let x := s.ctx e c
  if s.live && decide (e < 16) && decide (c < 32) && x.limit != 0 && !x.expired && decide (1 ≤ x.state ∧ x.state ≤ 4) then
    let s1 := s.updCtx e c (fun x => { x with expired := true, pc := if x.state = 1 then x.lastPc else x.pc })
    if x.state = 1 then endTask s1 e c Config.TIMEOUT true else s1
  else s

/-- LIMIT_MS_EXPIRY (R305). -/
def execLimitMsExpiry (e c : Nat) (s : State) : Out := .next (limitMsExpiry e c s)

/-- An engine context stalled for more than 1 s is recorded (R292). -/
def contextStallRecord (e c : Nat) (s : State) : State :=
  if s.live && (s.ctx e c).state == 4 then record s (Config.evClass 9 1) e else s

/-- CONTEXT_STALL_RECORD (R292). -/
def execContextStallRecord (e c : Nat) (s : State) : Out := .next (contextStallRecord e c s)

/-- 1 us after a TRIG ball was driven high, or released by a forced claim, it takes its idle level: low while claimed, else high
impedance (R317, R341, R526). A ball that a thermal warning drives stays high while the warning lasts (Table 11-20). -/
def trigPulseEnd (ball : Nat) (s : State) : State :=
  if s.goose.warn && s.goose.warnTrig == some ball then s
  else
    { s with
      eng := { s.eng with
        trig := updAt s.eng.trig ball (fun _ => if Tbl.has s.eng.claims ball then 1 else 0) } }

/-- TRIG_PULSE_END (R341). -/
def execTrigPulseEnd (ball : Nat) (s : State) : Out := .next (trigPulseEnd ball s)

end Sys2Proof.Machine
end

