-- ==== Sys2Proof/Machine/Cipher.lean ====
section
/-! DEFINITION. The ciphers the spec names: AES-256, XTS-AES-256 with ciphertext stealing (R419, R437), AES-256-CMAC (R428),
the AES key wrap (R416) and the monotone form (R421). Standards that the spec only names are taken as published (log 11). -/

namespace Sys2Proof.Machine.Cipher

open Sys2Proof

/-- The AES S-box. -/
def sboxTable : List Nat :=
  [0x63, 0x7c, 0x77, 0x7b, 0xf2, 0x6b, 0x6f, 0xc5, 0x30, 0x01, 0x67, 0x2b, 0xfe, 0xd7, 0xab, 0x76,
   0xca, 0x82, 0xc9, 0x7d, 0xfa, 0x59, 0x47, 0xf0, 0xad, 0xd4, 0xa2, 0xaf, 0x9c, 0xa4, 0x72, 0xc0,
   0xb7, 0xfd, 0x93, 0x26, 0x36, 0x3f, 0xf7, 0xcc, 0x34, 0xa5, 0xe5, 0xf1, 0x71, 0xd8, 0x31, 0x15,
   0x04, 0xc7, 0x23, 0xc3, 0x18, 0x96, 0x05, 0x9a, 0x07, 0x12, 0x80, 0xe2, 0xeb, 0x27, 0xb2, 0x75]
  ++ [0x09, 0x83, 0x2c, 0x1a, 0x1b, 0x6e, 0x5a, 0xa0, 0x52, 0x3b, 0xd6, 0xb3, 0x29, 0xe3, 0x2f, 0x84,
   0x53, 0xd1, 0x00, 0xed, 0x20, 0xfc, 0xb1, 0x5b, 0x6a, 0xcb, 0xbe, 0x39, 0x4a, 0x4c, 0x58, 0xcf,
   0xd0, 0xef, 0xaa, 0xfb, 0x43, 0x4d, 0x33, 0x85, 0x45, 0xf9, 0x02, 0x7f, 0x50, 0x3c, 0x9f, 0xa8,
   0x51, 0xa3, 0x40, 0x8f, 0x92, 0x9d, 0x38, 0xf5, 0xbc, 0xb6, 0xda, 0x21, 0x10, 0xff, 0xf3, 0xd2]
  ++ [0xcd, 0x0c, 0x13, 0xec, 0x5f, 0x97, 0x44, 0x17, 0xc4, 0xa7, 0x7e, 0x3d, 0x64, 0x5d, 0x19, 0x73,
   0x60, 0x81, 0x4f, 0xdc, 0x22, 0x2a, 0x90, 0x88, 0x46, 0xee, 0xb8, 0x14, 0xde, 0x5e, 0x0b, 0xdb,
   0xe0, 0x32, 0x3a, 0x0a, 0x49, 0x06, 0x24, 0x5c, 0xc2, 0xd3, 0xac, 0x62, 0x91, 0x95, 0xe4, 0x79,
   0xe7, 0xc8, 0x37, 0x6d, 0x8d, 0xd5, 0x4e, 0xa9, 0x6c, 0x56, 0xf4, 0xea, 0x65, 0x7a, 0xae, 0x08]
  ++ [0xba, 0x78, 0x25, 0x2e, 0x1c, 0xa6, 0xb4, 0xc6, 0xe8, 0xdd, 0x74, 0x1f, 0x4b, 0xbd, 0x8b, 0x8a,
   0x70, 0x3e, 0xb5, 0x66, 0x48, 0x03, 0xf6, 0x0e, 0x61, 0x35, 0x57, 0xb9, 0x86, 0xc1, 0x1d, 0x9e,
   0xe1, 0xf8, 0x98, 0x11, 0x69, 0xd9, 0x8e, 0x94, 0x9b, 0x1e, 0x87, 0xe9, 0xce, 0x55, 0x28, 0xdf,
   0x8c, 0xa1, 0x89, 0x0d, 0xbf, 0xe6, 0x42, 0x68, 0x41, 0x99, 0x2d, 0x0f, 0xb0, 0x54, 0xbb, 0x16]

/-- S-box of a byte. -/
def sbox (b : Nat) : Nat := sboxTable.getD b 0

/-- Inverse S-box of a byte. -/
def sboxInv (b : Nat) : Nat := (sboxTable.findIdx? (fun v => v == b)).getD 0

/-- Multiply a byte by x in GF(2^8). -/
def xtime (b : Nat) : Nat := if b * 2 ≥ 256 then (b * 2 - 256) ^^^ 0x1B else b * 2

/-- Product in GF(2^8) with a factor below 16. -/
def mul (a k : Nat) : Nat :=
  (if bitOf k 0 then a else 0) ^^^ (if bitOf k 1 then xtime a else 0) ^^^ (if bitOf k 2 then xtime (xtime a) else 0)
    ^^^ (if bitOf k 3 then xtime (xtime (xtime a)) else 0)

/-- Bytewise exclusive or. -/
def xorB (a b : List Nat) : List Nat := List.zipWith (fun x y => x ^^^ y) a b

/-- The round constants of AES-256. -/
def rcon : List Nat := [1, 2, 4, 8, 16, 32, 64]

/-- Next word of the AES-256 key schedule, words newest first. -/
def nextWord (ws : List (List Nat)) (i : Nat) : List Nat :=
  let prev := ws.headD []
  let old := ws.getD 7 []
  let t := if i % 8 = 0 then
      match prev.map sbox with
      | a :: rest => (rest ++ [a]).mapIdx (fun k v => if k = 0 then v ^^^ rcon.getD (i / 8 - 1) 0 else v)
      | [] => []
    else if i % 8 = 4 then prev.map sbox
    else prev
  xorB old t

/-- The 60 words of the AES-256 key schedule, as bytes in order, of a 32-byte key. -/
def schedule (key : List Nat) : List Nat :=
  let first := (List.range 8).map (fun i => (List.range 4).map (fun j => key.getD (4 * i + j) 0))
  ((List.range 52).foldl (fun ws i => nextWord ws (i + 8) :: ws) first.reverse).reverse.flatten

/-- Round key r. -/
def roundKey (ks : List Nat) (r : Nat) : List Nat := (ks.drop (16 * r)).take 16

/-- ShiftRows. -/
def shiftRows (s : List Nat) : List Nat :=
  (List.range 16).map (fun i => s.getD (i % 4 + 4 * ((i / 4 + i % 4) % 4)) 0)

/-- Inverse ShiftRows. -/
def shiftRowsInv (s : List Nat) : List Nat :=
  (List.range 16).map (fun i => s.getD (i % 4 + 4 * ((i / 4 + 4 - i % 4) % 4)) 0)

/-- MixColumns with the first row of its matrix. -/
def mixWith (m : List Nat) (s : List Nat) : List Nat :=
  (List.range 16).map (fun i =>
    (List.range 4).foldl (fun a k => a ^^^ mul (s.getD (4 * (i / 4) + k) 0) (m.getD ((k + 4 - i % 4) % 4) 0)) 0)

/-- AES-256 of a 16-byte block under a key schedule. -/
def encBlock (ks : List Nat) (b : List Nat) : List Nat :=
  let s := (List.range 13).foldl (fun s r =>
    xorB (mixWith [2, 3, 1, 1] (shiftRows (s.map sbox))) (roundKey ks (r + 1))) (xorB b (roundKey ks 0))
  xorB (shiftRows (s.map sbox)) (roundKey ks 14)

/-- Inverse AES-256 of a block. -/
def decBlock (ks : List Nat) (b : List Nat) : List Nat :=
  let s := (List.range 13).foldl (fun s r =>
    mixWith [14, 11, 13, 9] (xorB ((shiftRowsInv s).map sboxInv) (roundKey ks (13 - r)))) (xorB b (roundKey ks 14))
  xorB ((shiftRowsInv s).map sboxInv) (roundKey ks 0)

/-- Key bytes in order; byte 0 of a key stands in bits [7:0] (R7). -/
def keyBytes (k : BitVec 256) : List Nat := (List.range 32).map (byteAt k.toNat)

/-! ## XTS-AES-256 -/

/-- The tweak of the next block: times α in GF(2^128), little-endian. -/
def nextTweak (t : Nat) : Nat := if t * 2 ≥ 2 ^ 128 then (t * 2 - 2 ^ 128) ^^^ 0x87 else t * 2

/-- 16 bytes of a number. -/
def block (n : Nat) : List Nat := (List.range 16).map (byteAt n)

/-- The number of a block. -/
def blockNum (l : List Nat) : Nat := l.foldr (fun b a => b + 256 * a) 0

/-- One XTS block. -/
def xtsBlock (f : List Nat → List Nat) (t : Nat) (b : List Nat) : List Nat := xorB (f (xorB b (block t))) (block t)

/-- Whole blocks of an XTS data unit, and the tweak after them. -/
def xtsBlocks (f : List Nat → List Nat) : Nat → Nat → List Nat → List Nat × Nat
  | 0, t, _ => ([], t)
  | n + 1, t, l =>
    let r := xtsBlocks f n (nextTweak t) (l.drop 16)
    (xtsBlock f t (l.take 16) ++ r.1, r.2)

/-- XTS over a data unit of 16 bytes or more, with ciphertext stealing; `enc` says which way. -/
def xts (enc : Bool) (k1 k2 : BitVec 256) (tweak : Nat) (l : List Nat) : List Nat :=
  let s1 := schedule (keyBytes k1)
  let f := if enc then encBlock s1 else decBlock s1
  let t0 := blockNum (encBlock (schedule (keyBytes k2)) (block tweak))
  let m := l.length / 16
  let r := l.length % 16
  if r = 0 then (xtsBlocks f m t0 l).1
  else
    let (head, t1) := xtsBlocks f (m - 1) t0 l
    let t2 := nextTweak t1
    let p := (l.drop (16 * (m - 1))).take 16
    let q := l.drop (16 * m)
    let x := xtsBlock f (if enc then t1 else t2) p
    let y := xtsBlock f (if enc then t2 else t1) (q ++ x.drop r)
    head ++ y ++ x.take r

/-- XTS-AES-256 encipherment of bytes (R437). -/
def xtsEnc (k1 k2 : BitVec 256) (tweak : Nat) (l : List Byte) : List Byte :=
  (xts true k1 k2 tweak (l.map (·.toNat))).map (BitVec.ofNat 8)

/-- XTS-AES-256 decipherment of bytes (R437). -/
def xtsDec (k1 k2 : BitVec 256) (tweak : Nat) (l : List Byte) : List Byte :=
  (xts false k1 k2 tweak (l.map (·.toNat))).map (BitVec.ofNat 8)

/-! ## AES-256-CMAC (R428) -/

/-- Twice a block in GF(2^128), big-endian. -/
def dbl (l : List Nat) : List Nat :=
  let n := l.foldl (fun a b => a * 256 + b) 0
  let m := if n * 2 ≥ 2 ^ 128 then (n * 2 - 2 ^ 128) ^^^ 0x87 else n * 2
  (block m).reverse

/-- Chain of whole blocks. -/
def chain (ks : List Nat) : Nat → List Nat → List Nat → List Nat
  | 0, st, _ => st
  | n + 1, st, l => chain ks n (encBlock ks (xorB st (l.take 16))) (l.drop 16)

/-- AES-256-CMAC of a message of whole blocks, at least one. -/
def cmac (km : BitVec 256) (l : List Nat) : List Nat :=
  let ks := schedule (keyBytes km)
  let n := l.length / 16 - 1
  let st := chain ks n (block 0) l
  encBlock ks (xorB (xorB st (l.drop (16 * n))) (dbl (encBlock ks (block 0))))

/-! ## Key unwrap (R416) -/

/-- One step of the unwrap: A and the 12 semiblocks. -/
def unwrapStep (ks : List Nat) (n : Nat) (acc : List Nat × List (List Nat)) (t : Nat) : List Nat × List (List Nat) :=
  let i := (t - 1) % n
  let tb := ((List.range 8).map (byteAt t)).reverse
  let b := decBlock ks (xorB acc.1 tb ++ acc.2.getD i [])
  (b.take 8, acc.2.set i (b.drop 8))

/-- AES Key Wrap with the default initial value, undone over 104 bytes; none where the check fails. -/
def unwrap (k : BitVec 256) (l : List Nat) : Option (List Nat) :=
  let ks := schedule (keyBytes k)
  let r := (List.range 12).map (fun i => (l.drop (8 + 8 * i)).take 8)
  let out := (List.range 72).foldl (fun acc s => unwrapStep ks 12 acc (72 - s)) (l.take 8, r)
  if out.1 = List.replicate 8 0xA6 then some out.2.flatten else none

/-! ## The monotone form (R421) -/

/-- The 768 bytes S of R421. -/
def monoStream (k1 : BitVec 256) (t : Tweak) : List Nat :=
  let ks := schedule (keyBytes k1)
  (List.range 48).flatMap (fun j => encBlock ks (block (t.num j)))

/-- The permutation of R421. -/
def monoPos (s : List Nat) : List Nat :=
  (List.range 255).foldl (fun pos k =>
    let i := 255 - k
    let r := s.getD (2 * k) 0 + 256 * s.getD (2 * k + 1) 0
    let j := r % (i + 1)
    (pos.set i (pos.getD j 0)).set j (pos.getD i 0)) (List.range 256)

/-- Rotate a byte left. -/
def rotl8 (b n : Nat) : Nat := (b * 2 ^ n) % 256 + b / 2 ^ (8 - n)

/-- The stored image of a monotone line. -/
def monoForm (k1 : BitVec 256) (t : Tweak) (l : List Nat) : List Nat :=
  let s := monoStream k1 t
  let pos := monoPos s
  (List.range 256).foldl (fun out b => out.set (pos.getD b 0) (rotl8 (l.getD b 0) (s.getD (512 + b) 0 % 8)))
    (List.replicate 256 0)

/-- The 256 stored bytes of a line (R419, R421). -/
def storedBytes (i : LImg) : List Nat :=
  let p := (List.range 256).map (byteAt i.plain.toNat)
  if i.tweak.domain = 2 then monoForm i.keys.k1 i.tweak p else xts true i.keys.k1 i.keys.k2 (i.tweak.num 0) p

/-- The 8-byte MAC of a line of an integrity region (R428); zero for a line placed with POISON (R146). -/
def macOf (i : LImg) : List Nat :=
  if i.poison then List.replicate 8 0
  else (cmac i.keys.km (block (i.tweak.num 0) ++ storedBytes i)).take 8

end Sys2Proof.Machine.Cipher
end

