-- ==== Sys2Proof/Machine/Slots.lean ====
section
/-! DEFINITION. The bytes of a slot and of a monotone pair (R84 to R89, R199, Tables 3-3 to 3-5), and how a pair reads: the class of
a COMMIT field, the parity that Table 3-6 chooses, the line that it decodes to (R93). -/

namespace Sys2Proof.Machine

open Sys2Proof

/-! ## Slot images -/

/-- A byte string of some length with the bytes of a number at its front. -/
def padTo (l : List Nat) (n : Nat) : List Nat := (l ++ List.replicate (n - l.length) 0).take n

/-- Bytes of 8 bits each. -/
def toBytes (l : List Nat) : List Byte := l.map (BitVec.ofNat 8)

/-- The number of a byte list, byte 0 least significant. -/
def numB (l : List Nat) : Nat := l.foldr (fun b a => b + 256 * a) 0

/-- Metadata bytes of a slot (Table 3-3); PAGE_TAG of system content is its object number. -/
def spareBytes (tag version line : Nat) (poison mono sys tagSlot : Bool) : List Nat :=
  (List.range 8).map (byteAt (tag % 2 ^ 32 + version % 2 ^ 24 * 2 ^ 32 + line % 16 * 2 ^ 56 + flag poison * 2 ^ 60
    + flag mono * 2 ^ 61 + flag sys * 2 ^ 62 + flag tagSlot * 2 ^ 63))

/-- Metadata bytes of a slot of host data. -/
def slotMeta (page version line : Nat) (poison mono tag : Bool) : List Nat := spareBytes page version line poison mono false tag

/-- Metadata bytes of a slot of system content: SYS, and the object number in PAGE_TAG (Table 3-3). -/
def sysMeta (obj version : Nat) : List Nat := spareBytes obj version 0 false false true false

/-- The 24 parity bytes of 264 message bytes, highest-order coefficient first (R199). -/
def parityBytes (msg : List Nat) : List Nat :=
  ((List.range 24).map (byteAt (bchParity (msg.map (BitVec.ofNat 8))))).reverse

/-- A slot whose parity stands in it. -/
def codedSlot (data spare : List Nat) : List Nat :=
  let m := padTo data 256 ++ spare
  m ++ parityBytes m

/-- The image of a data slot of a stored page (R84): the parity of a monotone slot stands in its check slot. -/
def dataSlot (p : PageImg) (j : Nat) : Option (List Nat) :=
  (p.lines[j]?).map (fun i =>
    let sp := slotMeta p.page p.version j i.poison p.mono false
    if p.mono then padTo (Cipher.storedBytes i) 256 ++ sp ++ List.replicate 24 0 else codedSlot (Cipher.storedBytes i) sp)

/-- Slot j of a copy of a map page or directory page: 64 of its 1,024 entries of 4 bytes, without cipher (R244); an entry that a directory
page has no copy for is taken to be 0xFFFFFFFF (DESIGN CHOICE, log 97). -/
def sysSlot (p : SysPage) (j : Nat) : List Nat :=
  codedSlot ((List.range 64).flatMap (fun k => (List.range 4).map (byteAt (Tbl.getD p.entries (64 * j + k) 0xFFFFFFFF))))
    (spareBytes p.tag 0 j false false true false)

/-! ## Monotone pairs (R87 to R93) -/

/-- The classes of a COMMIT field (R89). -/
inductive CommitClass where
  | committed
  | torn
  | absent
  deriving DecidableEq, Repr

/-- Bits of a word that read as set. -/
def bitCount {w : Nat} (v : BitVec w) : Nat := (List.range w).foldl (fun a i => a + flag (v.getLsbD i)) 0

/-- The class of a COMMIT field: 12 or more of its 16 bits set, 1 to 11, none (R89). -/
def commitClass (c : BitVec 16) : CommitClass :=
  if 12 ≤ bitCount c then .committed else if 1 ≤ bitCount c then .torn else .absent

/-- Bytes 0 to 29 of check record k as its program gives them (Table 3-5): the parity of the data slot's bytes 0 to 263 after
program k, RCRC and RECNO. -/
def recordBody (p : PageImg) (j k : Nat) (i : LImg) (image : Line) : List Nat :=
  let par := parityBytes (padTo (Cipher.storedBytes { i with plain := image }) 256 ++ slotMeta p.page p.version j i.poison true false)
  par ++ (List.range 4).map (byteAt (crc32c (toBytes (par ++ [k])))) ++ [k % 16, 0]

/-- Bytes 0 to 29 of check record k as they stand: the bits that its program has driven. -/
def recordStands (p : PageImg) (j k : Nat) (i : LImg) (r : CheckRec) : List Nat :=
  let b := recordBody p j k i r.image
  if r.body = BitVec.allOnes 240 then b
  else (List.range 30).map (byteAt ((BitVec.ofNat 240 (numB b) &&& r.body).toNat))

/-- Check record k of a monotone pair (Table 3-5): zero bytes where nothing has been programmed. -/
def checkRecord (p : PageImg) (j k : Nat) (i : LImg) : List Nat :=
  match i.checks[k - 1]? with
  | some r => recordStands p j k i r ++ (List.range 2).map (byteAt r.commit.toNat)
  | none => List.replicate 32 0

/-- The header of a pair, check record 0 (Table 3-4). -/
def pairHeader (p : PageImg) (j : Nat) (i : LImg) : List Nat :=
  let head := (List.range 16).map (byteAt (p.page % 2 ^ 32 + p.version % 2 ^ 24 * 2 ^ 32 + j % 16 * 2 ^ 56 + 2 ^ 60))
  head ++ (List.range 4).map (byteAt (crc32c (toBytes head))) ++ List.replicate 10 0 ++ (List.range 2).map (byteAt i.head.toNat)

/-- The image of a check slot (R87): the pair header and the eight check records, programmed or not. -/
def checkSlot (p : PageImg) (j : Nat) : Option (List Nat) :=
  (p.lines[j]?).map (fun i => pairHeader p j i ++ (List.range 8).flatMap (fun k => checkRecord p j (k + 1) i))

/-- n of R93: the highest check record whose COMMIT is committed, 0 where none is. -/
def LImg.records (i : LImg) : Nat :=
  (List.range i.checks.length).foldl (fun n k =>
    if (i.checks[k]?).any (fun r => commitClass r.commit == .committed) then k + 1 else n) 0

/-- The check record behind the last committed one, where any of its bytes is set (Table 3-6). -/
def LImg.append (p : PageImg) (j : Nat) (i : LImg) : Option CheckRec :=
  (i.checks[i.records]?).filter (fun r => r.commit != 0 || (recordStands p j (i.records + 1) i r).any (· != 0))

/-- Whether a pair is torn (Table 3-6). -/
def LImg.torn (p : PageImg) (j : Nat) (i : LImg) : Bool := (i.append p j).isSome

/-- Whether RCRC of the torn record verifies and its RECNO is the one expected (Table 3-6). -/
def bodyComplete (p : PageImg) (j : Nat) (i : LImg) (r : CheckRec) : Bool :=
  let b := recordStands p j (i.records + 1) i r
  b.getD 28 0 % 16 == (i.records + 1) % 16 && (b.drop 24).take 4 == (List.range 4).map (byteAt (crc32c (toBytes (b.take 24 ++ [b.getD 28 0]))))

/-- What the data slot decodes to with the parity of an image: the image, where at most 16 cells differ from it (R198). -/
def LImg.near (i : LImg) (image : Line) : Option Line :=
  if i.plain = image ∨ bitCount (i.plain ^^^ image) ≤ 16 then some image else none

/-- How a monotone line reads (R93, Table 3-6): record n's parity, or of a torn pair record n + 1's where its body is complete and it
decodes; none where no choice decodes, or the pair is unused. -/
def LImg.pairRead (p : PageImg) (j : Nat) (i : LImg) : Option Line :=
  match i.checks[i.records - 1]? with
  | none => none
  | some r =>
    if i.records = 0 ∨ commitClass i.head ≠ .committed then none
    else
      match i.append p j with
      | some x => if bodyComplete p j i x then (i.near x.image <|> i.near r.image) else i.near r.image
      | none => i.near r.image

/-- A pair after its next program in place has gone through the four steps of R88: the new cells, and its record committed. -/
def LImg.program (i : LImg) (d : Line) : LImg :=
  { i with plain := d, checks := i.checks.take i.records ++ [{ image := d }] }

/-- A pair whose next program was cut at step 2 of R88: some of the new cells are set, no record is begun. -/
def LImg.cut2 (i : LImg) (d mask : Line) : LImg := { i with plain := i.plain ||| (d &&& mask) }

/-- A pair whose next program was cut at step 3: the data slot is complete, some bits of the record's body stand. -/
def LImg.cut3 (i : LImg) (d : Line) (body : BitVec 240) : LImg :=
  { i with plain := d, checks := i.checks.take i.records ++ [{ image := d, body := body, commit := 0 }] }

/-- A pair whose next program was cut at step 4: the record's body is complete, some bits of its COMMIT stand. -/
def LImg.cut4 (i : LImg) (d : Line) (commit : BitVec 16) : LImg :=
  { i with plain := d, checks := i.checks.take i.records ++ [{ image := d, commit := commit }] }

/-- How a stored line reads: a line of no monotone page as its cells are. -/
def PageImg.reads (p : PageImg) (j : Nat) : Option Line :=
  (p.lines[j]?).bind (fun i => if p.mono then i.pairRead p j else some i.plain)

end Sys2Proof.Machine
end

