-- ==== Sys2Proof/Machine/Frames.lean ====
section
/-! DEFINITION. The medium as the map names it: frame indexes, page positions, home channels, free stock and open
frames (03, 05), page versions and key records (14), tallies, relocation queues and the poison set (06, 07). -/

namespace Sys2Proof.Machine

open Sys2Proof

/-! ## Frames -/

/-- Frames of a plane that are not in its bad-frame list (R105, R106). Indexes are bound once, at H.FORMAT, before any frame retires; a
retired frame loses its index (R225). -/
def goodFrames (d : Desc) (plane : Nat) : Nat := d.framesPhys - (d.bad.filter (fun b => b.1 == plane)).length

/-- Frames of a plane counted in capacity (R106). -/
def countedFrames (d : Desc) (plane : Nat) : Nat := min (goodFrames d plane) d.framesNom

/-- The k-th good frame of a plane: bad frames, in ascending order, are stepped over. -/
def nthGood (d : Desc) (plane k : Nat) : Nat :=
  let bad := ((d.bad.filter (fun b => b.1 == plane)).map (·.2)).mergeSort
  bad.foldl (fun f b => if b ≤ f then f + 1 else f) k

/-- The planes of a channel's accepted dies, in ascending die and plane order, with the frames each gives. -/
def Chan.planes (c : Chan) : List (Nat × Nat × Nat) :=
  (List.range 8).flatMap (fun d =>
    let x := c.dies.getD d {}
    match x.desc with
    | none => []
    | some ds => if x.accepted then (List.range ds.planes).map (fun p => (d, p, countedFrames ds p)) else [])

/-- The planes that the frame indexes of a channel were given to: those of H.FORMAT, before it those of the dies present. -/
def Chan.given (c : Chan) : List (Nat × Nat × Nat) := if c.layout.isEmpty then c.planes else c.layout

/-- Die, plane and offset of the n-th frame index of a channel (R136). -/
def planeOf : List (Nat × Nat × Nat) → Nat → Nat × Nat × Nat
  | [], n => (0, 0, n)
  | (d, p, k) :: t, n => if n < k then (d, p, n) else planeOf t (n - k)

/-- The channel that a frame index was assigned to at H.FORMAT (R136). -/
def State.chanOfFx (s : State) (fx : Nat) : Nat :=
  ((List.range 16).find? (fun c => decide ((s.chan c).first ≤ fx) && decide (fx < (s.chan c).first + (s.chan c).count))).getD 0

/-- The role of an index that no table entry changes: SYSTEM and JOURNAL take the highest indexes of the channel
(log 13), RESERVE those of its list, FREE the rest. -/
def Chan.roleOf (c : Chan) (fx : Nat) : Nat :=
  if c.reserve.contains fx then 5
  else if c.first + c.count ≤ fx + c.system then 7
  else if c.first + c.count ≤ fx + c.system + c.journal then 6
  else 0

/-- A frame: its changed record, or the record that H.FORMAT gave its index (Table 5-1). -/
def State.frame (s : State) (fx : Nat) : Frame :=
  match Tbl.find s.medium.frames fx with
  | some f => f
  | none =>
    let ch := s.chanOfFx fx
    let c := s.chan ch
    let (d, p, k) := planeOf c.given (fx - c.first)
    let fr := match (c.dies.getD d {}).desc with
      | some ds => nthGood ds p k
      | none => k
    { ch := ch, die := d, plane := p, frame := fr, bound := decide (fx < c.first + c.count), state := c.roleOf fx,
      mode := if c.roleOf fx = 0 then 0 else 1, live := 0, staged := false, integ := false, order := 0, next := 0,
      sClears := 0, tClears := 0, stamp := 0, pins := 0 }

/-- Put a frame record. -/
def State.putFrame (s : State) (fx : Nat) (f : Frame) : State :=
  { s with medium := { s.medium with frames := Tbl.put s.medium.frames fx f } }

/-- Change a frame record. -/
def State.updFrame (s : State) (fx : Nat) (f : Frame → Frame) : State := s.putFrame fx (f (s.frame fx))

/-- Frame index of a mapped PPN (R135). -/
def fxOf (ppn : Nat) : Nat := ppn / 192

/-- Page position of a mapped PPN (R135). -/
def posOf (ppn : Nat) : Nat := ppn % 192

/-- Page positions of a frame by its layout (Table 5-2). -/
def positions (mode : Nat) (integ : Bool) : Nat :=
  if mode = 2 then (if integ then 186 else 192) else if mode = 3 then 32 else (if integ then 62 else 64)

/-- Whether a map entry names a stored page (Table 2-1). -/
def mapped (e : Nat) : Bool := decide (e < Config.poisoned)

/-- Map entry of a page; unlisted pages are unmapped (R37). -/
def State.mapEntry (s : State) (page : Nat) : Nat := Tbl.getD s.maps.map page Config.unmapped

/-- The stored page that the map names. -/
def State.stored (s : State) (page : Nat) : Option PageImg :=
  if mapped (s.mapEntry page) then Tbl.find s.medium.pages (s.mapEntry page) else none

/-- Home channel of a page: the channel table's entry at host address [23:12] (R139). -/
def State.home (s : State) (page : Nat) : Nat := s.medium.chanTable.getD (page % 4096) 0

/-- Pin or release the frame of a PPN that a read holds (R185). -/
def pin (s : State) (ppn : Nat) : State := s.updFrame (fxOf ppn) (fun f => { f with pins := f.pins + 1 })

/-- Release a pin. -/
def unpin (s : State) (ppn : Nat) : State := s.updFrame (fxOf ppn) (fun f => { f with pins := f.pins - 1 })

/-! ## Regions -/

/-- The region that holds an address, closing ones included. -/
def State.regionAt (s : State) (a : Nat) : Option (Nat × Region) :=
  s.maps.regions.find? (fun p => decide (p.2.base ≤ a) && decide (a < p.2.base + p.2.size))

/-- The region that holds a page. -/
def State.regionOfPage (s : State) (page : Nat) : Option (Nat × Region) := s.regionAt (page * 4096)

/-- Region index of a page, for charging and tags. -/
def State.rgnIndex (s : State) (page : Nat) : Nat := ((s.regionOfPage page).map (·.1)).getD 0

/-- Region i, if defined. -/
def State.region (s : State) (i : Nat) : Option Region := Tbl.find s.maps.regions i

/-- A region that an instruction may name: defined and not closing (R49). -/
def State.openRegion (s : State) (i : Nat) : Option Region :=
  match s.region i with
  | some r => if r.closing then none else some r
  | none => none

/-- Whether a range lies inside one region that is not closing; the region. -/
def State.regionRange (s : State) (a len : Nat) : Option (Nat × Region) :=
  match s.regionAt a with
  | some (i, r) => if !r.closing && decide (a + len ≤ r.base + r.size) then some (i, r) else none
  | none => none

/-- Whether a requester may reach a region (R45). -/
def reaches (r : Region) (admin : Bool) (sesLabel : Nat) : Bool :=
  admin || r.access == 0 || (r.access == 1 && r.label == sesLabel)

/-! ## Free stock and open frames (R140 to R143) -/

/-- Frames of a channel that were never released and stand FREE. -/
def Chan.virginLeft (c : Chan) : Nat :=
  let last := c.first + c.count - c.system - c.journal
  last - c.virgin - (c.reserve.filter (fun fx => decide (c.virgin ≤ fx) && decide (fx < last))).length

/-- The JOURNAL frames of a channel in index order (R140, log 13). -/
def Chan.journalFrames (c : Chan) : List Nat :=
  (List.range c.journal).map (fun i => c.first + c.count - c.system - c.journal + i)

/-- Whether the frame under clear is one of the pools: it is FREE until its clear is done (Table 5-13). -/
def Chan.clearingFree (c : Chan) : Bool :=
  match c.clearing with
  | some (fx, _) => !c.journalFrames.contains fx && !c.reserve.contains fx
  | none => false

/-- Free and cleared frames outside the RESERVE frames (R157, R167). -/
def Chan.stock (c : Chan) : Nat := c.virginLeft + c.free.length + c.cleared.length + flag c.clearingFree

/-- Reclaim threshold: 2 × F_LO + ⌈N_c / 1,024⌉ (R157). -/
def Chan.threshold (c : Chan) : Nat := 2 * Config.fLo + ceilDiv c.inService 1024

/-- Wear of a frame after one more clear in a mode stays at or below 1 (R101). -/
def wearOk (ds : Desc) (f : Frame) (mode : Nat) : Bool :=
  let sc := if mode = 2 then f.sClears else f.sClears + 1
  let tc := if mode = 2 then f.tClears + 1 else f.tClears
  decide (sc * ds.endT + tc * ds.endS ≤ ds.endS * ds.endT)

/-- The descriptor of a frame's die; none where the die is not accepted: its frames are never cleared, programmed or read for data
(R103). -/
def State.descOf (s : State) (f : Frame) : Option Desc :=
  let d := (s.chan f.ch).dies.getD f.die {}
  if d.accepted then d.desc else none

/-- Numbers of the open frames of Table 5-4: 16 + d is the staging frame on die d. -/
def useMode (u : Nat) : Nat :=
  if u = 10 then 3 else if u = 4 ∨ u = 5 ∨ u = 6 ∨ u = 7 then 2 else 1

/-- Whether an open frame has an integrity layout. -/
def useInteg (u : Nat) : Bool := u == 1 || u == 3 || u == 5 || u == 7 || u == 9

/-- Whether an open frame is a staging frame. -/
def useStaged (u : Nat) : Bool := u == 1 || decide (16 ≤ u)

/-- Whether an open frame is fed by reclaim, or is the monotone one, which reclaim shares (Table 5-4). -/
def useReclaim (u : Nat) : Bool := decide (6 ≤ u ∧ u ≤ 10)

/-- Whether a cleared frame serves a use: its mode, and for staging its die; during a static move out of that mode a frame for reclaim
copies is one that was cleared as the most-worn (R220). -/
def State.clearedFor (s : State) (u fx : Nat) : Bool :=
  let f := s.frame fx
  let c := s.chan f.ch
  f.mode == useMode u && (u < 16 || f.die == u - 16)
    && (match c.static with
        | some x => !(useReclaim u && (s.frame x).mode == useMode u) || c.worn.contains fx
        | none => true)

/-! ### The pecking-order tree (R221, R222) -/

/-- Wear of a frame in 1/65,535 (Table 7-5), by the counts of its group record. -/
def State.wearOf (s : State) (fx : Nat) : Nat :=
  let f := s.frame fx
  let g := Tbl.getD (s.chan f.ch).groups fx (0, 0)
  match s.descOf f with
  | some ds => (g.1 * ds.endT + g.2 * ds.endS) * 65535 / max 1 (ds.endS * ds.endT)
  | none => 0

/-- Even parity of a value. -/
def parityOf (n : Nat) : Bool := (List.range 32).foldl (fun a i => a != n.testBit i) false

/-- A node with the parity of its five value fields (Table 7-5): FMAX_W and FNONE are one of them. -/
def TreeNode.seal (n : TreeNode) : TreeNode :=
  let b := fun (i v : Nat) => if parityOf v then 2 ^ i else 0
  { n with par := BitVec.ofNat 5 (b 0 n.iminS + b 1 n.imaxS + b 2 n.iminT + b 3 n.imaxT + b 4 (n.fmaxW + flag n.fnone * 65536)) }

/-- A node above two nodes. -/
def TreeNode.over (a b : TreeNode) : TreeNode :=
  { iminS := min a.iminS b.iminS, imaxS := max a.imaxS b.imaxS, iminT := min a.iminT b.iminT, imaxT := max a.imaxT b.imaxT
    fmaxW := max a.fmaxW b.fmaxW, fnone := a.fnone && b.fnone : TreeNode }.seal

/-- A node with one more frame below it. -/
def TreeNode.addFrame (n : TreeNode) (f : Frame) (counts : Nat × Nat) (wear : Nat) : TreeNode :=
  if f.state = 3 then
    (if f.mode = 2 then { n with iminT := min n.iminT counts.2, imaxT := max n.imaxT counts.2 }
     else { n with iminS := min n.iminS counts.1, imaxS := max n.imaxS counts.1 })
  else if f.state = 0 ∧ f.bound then { n with fmaxW := max n.fmaxW wear, fnone := false }
  else n

/-- Leaves of a channel's tree, one for each group of 256 frame indexes, rounded up to a power of two. -/
def Chan.leaves (c : Chan) : Nat := 2 ^ (Nat.log2 (max 1 (ceilDiv (max 1 c.count) 256) * 2 - 1))

/-- Whether a range of frame indexes of a channel holds a never-used FREE frame. -/
def Chan.virginIn (c : Chan) (lo hi : Nat) : Bool :=
  let a := max lo c.virgin
  let b := min hi (c.first + c.count - c.system - c.journal)
  decide ((c.reserve.filter (fun x => decide (a ≤ x) && decide (x < b))).length < b - a)

/-- Leaf g of a channel's tree: the fields of Table 7-5 over the frames of group g. -/
def State.leaf (s : State) (ch g : Nat) : TreeNode :=
  let c := s.chan ch
  let lo := c.first + 256 * g
  let listed := s.medium.frames.filter (fun p => decide (lo ≤ p.1) && decide (p.1 < lo + 256))
  (listed.foldl (fun n p => n.addFrame p.2 (Tbl.getD c.groups p.1 (0, 0)) (s.wearOf p.1))
    ({ fnone := !c.virginIn lo (lo + 256) } : TreeNode)).seal

/-- A node of a channel's tree: as listed, else what a part of the channel that nothing has changed gives. -/
def Chan.node (c : Chan) (k : Nat) : TreeNode :=
  match Tbl.find c.tree k with
  | some n => n
  | none =>
    let span := 256 * (c.leaves / 2 ^ Nat.log2 (max 1 k))
    let lo := c.first + span * (k - 2 ^ Nat.log2 (max 1 k))
    ({ fnone := !c.virginIn lo (lo + span) } : TreeNode).seal

/-- The nodes above node k take their fields afresh, up to the root; `fuel` is more than the tree's height. -/
def Chan.climb : Nat → Nat → Chan → Chan
  | 0, _, c => c
  | n + 1, k, c =>
    if k ≤ 1 then c
    else
      let u := k / 2
      Chan.climb n u { c with tree := Tbl.put c.tree u ((c.node (2 * u)).over (c.node (2 * u + 1))) }

/-- HS2 updates the path from the leaf of a frame to the root whenever its entry or its state changes, while the tree is valid (R222,
R231). -/
def treeUpdate (s : State) (fx : Nat) : State :=
  let ch := s.chanOfFx fx
  let c := s.chan ch
  if c.treeValid then
    let g := (fx - c.first) / 256
    let k := c.leaves + g
    s.updChan ch (fun c => Chan.climb 32 k { c with tree := Tbl.put c.tree k (s.leaf ch g) })
  else s

/-- The tree of a channel is built from its group records (R223). -/
def treeBuild (s : State) (ch : Nat) : State :=
  let c := s.chan ch
  let gs := ((s.medium.frames.filter (fun p => p.2.ch == ch)).map (fun p => (p.1 - c.first) / 256)).eraseDups
  gs.foldl (fun t g => treeUpdate t (c.first + 256 * g)) (s.updChan ch (fun c => { c with tree := [] }))

/-- The group records of a channel are rebuilt from the frame headers (R221). -/
def groupsBuild (s : State) (ch : Nat) : State :=
  s.updChan ch (fun c =>
    { c with groups := (s.medium.frames.filter (fun p => p.2.ch == ch)).map (fun p => (p.1, p.2.sClears, p.2.tClears)) })

/-- Open a cleared frame of a channel for a use, where one stands (R141). -/
def openFrame (s : State) (ch u : Nat) : Option State :=
  match (s.chan ch).cleared.find? (fun fx => s.clearedFor u fx) with
  | none => none
  | some fx =>
    let s1 := s.updFrame fx (fun f => { f with state := 2, staged := useStaged u, integ := useInteg u, next := 0, live := 0, tags := [] })
    some ((s1.updChan ch (fun c =>
      { c with
        cleared := c.cleared.erase fx, opens := Tbl.put c.opens u fx, worn := c.worn.erase fx
        yielded := c.yielded && !s.maps.readOnly })))

/-- An open frame becomes FULL and takes the channel's next ORDER (Table 5-1); the tag slots of an integrity frame are programmed as it
closes (R430). -/
def closeFrame (s : State) (ch u fx : Nat) : State :=
  let o := (s.chan ch).order
  treeUpdate ((s.updFrame fx (fun f =>
    { f with state := 3, order := o, tags := if f.integ then List.range (if f.mode = 2 then 93 else 31) else [] })).updChan ch (fun c =>
    { c with order := (o + 1) % 2 ^ 22, opens := Tbl.del c.opens u })) fx

/-- Take the next page position of an open frame of a use: its PPN; none where no cleared frame stands (R157). -/
def allocPos (s : State) (ch u : Nat) : Option (Nat × State) :=
  let opened := match Tbl.find (s.chan ch).opens u with
    | some fx => some (s, fx)
    | none =>
      match openFrame s ch u with
      | none => none
      | some t => (Tbl.find (t.chan ch).opens u).map (fun fx => (t, fx))
  match opened with
  | none => none
  | some (t, fx) =>
    let q := (t.frame fx).next
    let t1 := t.updFrame fx (fun f => { f with next := q + 1 })
    some (fx * 192 + q, if q + 1 < positions (useMode u) (useInteg u) then t1 else closeFrame t1 ch u fx)

/-- The dies of a channel in staging rotation: ascending after the last one used (R143). -/
def stageOrder (last : Nat) : List Nat := (List.range 8).map (fun i => (last + 1 + i) % 8)

/-- A page position of the open frame of a use: its PPN and that use. -/
def allocUse (s : State) (ch u : Nat) : Option (Nat × Nat × State) := (allocPos s ch u).map (fun r => (r.1, u, r.2))

/-- Take a page position of a staging frame, dies in rotation (R143). -/
def allocStage (s : State) (ch : Nat) : Option (Nat × Nat × State) :=
  (stageOrder (s.chan ch).stageDie).findSome? (fun d =>
    (allocPos s ch (16 + d)).map (fun r => (r.1, 16 + d, r.2.updChan ch (fun c => { c with stageDie := d }))))

/-- Staged frames of a channel (R150). -/
def State.stagedFrames (s : State) (ch : Nat) : Nat :=
  (s.medium.frames.filter (fun p => p.2.ch == ch && p.2.staged && (p.2.state == 2 || (p.2.state == 3 && decide (0 < p.2.live))))).length

/-- A page position for a copy that keeps the stored image: reclaim, relocation, migration (R147, R159, R166). -/
def allocCopy (s : State) (ch mode : Nat) (integ migration : Bool) : Option (Nat × Nat × State) :=
  if mode = 3 then allocUse s ch 10
  else if migration then allocUse s ch (if integ then 5 else 4)
  else if mode = 2 then allocUse s ch (if integ then 7 else 6)
  else allocUse s ch (if integ then 9 else 8)

/-! ## Keys and versions (R414, R422 to R424) -/

/-- Key record of a key ID. -/
def State.keyRec (s : State) (k : Nat) : KeyRec := Tbl.getD s.keys.recs k {}

/-- Commit a key record as a new record, with the re-key away from its key (R417). A record of an EMPTY key ID leaves no older one (R436);
else the one before it stays as well (DESIGN CHOICE, log 101). -/
def putKey (s : State) (k : Nat) (x : KeyRec) : State :=
  let r := { x with kseq := (x.kseq + 1) % 2 ^ 32, walk := s.keys.rekey.filter (fun y => y.old == k) }
  let older := if r.state = 0 then [] else (Tbl.getD s.keys.log k []).take 1
  { s with keys := { s.keys with recs := Tbl.put s.keys.recs k r, log := Tbl.put s.keys.log k (r :: older) } }

/-- A key ID becomes FATAL: its record commits, every session is told, the cause bit is set (R424). -/
def keyFatal (s : State) (k : Nat) : State :=
  let x := s.keyRec k
  if x.state = 2 then s
  else irq (notifyDevice (putKey s k { x with state := 2 }) Config.KEY_FATAL k false) 3

/-- Issue version v under a key: HIGH follows; where v exceeds CEIL a CEIL of 16 versions from v on commits; the last version makes the key
FATAL (R422, R424). -/
def issueVersion (s : State) (k v : Nat) : State :=
  let x := s.keyRec k
  let x1 := { x with high := max x.high v }
  let s1 := if x.ceil < v then putKey s k { x1 with ceil := min (v + 15) Config.versionMax }
    else { s with keys := { s.keys with recs := Tbl.put s.keys.recs k x1 } }
  if v = Config.versionMax then keyFatal s1 k else s1

/-- Version of the next write-back of a page under a key: V + 1, or FLOOR without a current copy under it (R147, R422);
none where a page already at the last version is not written back (R425). -/
def State.nextVersion (s : State) (page k : Nat) : Option Nat :=
  match s.stored page with
  | none => some (s.keyRec k).floor
  | some p =>
    if ((p.lines.head?).map (fun l => l.tweak.key)).getD k != k then some (s.keyRec k).floor
    else if p.version < Config.versionMax then some (p.version + 1)
    else none

/-- A page is left without a current copy under a key: FLOOR = HIGH + 1 where HIGH ≥ FLOOR; past the last version the
key becomes FATAL (R423, R424). -/
def raiseFloor (s : State) (k : Nat) : State :=
  let x := s.keyRec k
  if x.floor ≤ x.high then
    (if x.high < Config.versionMax then putKey s k { x with floor := x.high + 1 } else keyFatal s k)
  else s

/-- The key ID a stored copy of a page is under: the region's, but for the pages a re-key has moved (R434). -/
def State.keyOfCopy (s : State) (page ppn : Nat) (r : Region) (idx : Nat) : Nat :=
  match s.keys.rekey with
  | none => r.key
  | some k =>
    let a := page * 4096
    if k.region = idx ∧ (a < k.lo ∨ (a < k.hi ∧ fxOf ppn = k.rfx.getD (s.home page) 0x1FFFFFF)) then k.new else r.key

/-- Tweak of a stored line (Table 14-3): the monotone form is DOMAIN 2 and carries no version (R421). -/
def tweakOf (line version key : Nat) (mono : Bool) : Tweak :=
  if mono then ⟨line, 0, key, 2, 0⟩ else ⟨line, version, key, 0, 0⟩

/-- What a stored line deciphers to under a key set and a tweak: its plaintext under its own, else no value the spec
gives (R419, log 10). -/
def LImg.decipher (i : LImg) (ks : KeySet) (t : Tweak) : Line :=
  if i.keys = ks ∧ i.tweak = t then i.plain
  else Config.strangeLine i.plain.toNat (t.num 0) (i.tweak.num 0)

/-- A line enciphered for the medium under a key ID; a monotone line opens its pair as program 1 (R88). -/
def State.encipher (s : State) (line version key : Nat) (mono : Bool) (d : Line) (poison : Bool) : LImg :=
  { plain := d, keys := (s.keyRec key).keys, tweak := tweakOf line version key mono, poison := poison,
    checks := if mono then [{ image := d }] else [] }

/-- The plaintext of a line of the copy of a page at a PPN, through the line code and the cipher stage (R93, R419, R434): none where
the map's copy is absent or its pair does not decode. -/
def State.plainAt (s : State) (line ppn : Nat) : Option (Line × Bool) :=
  let page := line / 16
  match Tbl.find s.medium.pages ppn, s.regionOfPage page with
  | some p, some (idx, r) =>
    (p.lines[line % 16]?).bind (fun i =>
      (p.reads (line % 16)).map (fun d =>
        let k := s.keyOfCopy page ppn r idx
        ({ i with plain := d }.decipher (s.keyRec k).keys (tweakOf line p.version k p.mono), i.poison)))
  | _, _ => none

/-- Whether the pair of a stored line decodes with no parity that Table 3-6 chooses (R93). -/
def State.pairLost (s : State) (line ppn : Nat) : Bool :=
  match Tbl.find s.medium.pages ppn with
  | some p => p.mono && (p.reads (line % 16)).isNone
  | none => false

/-! ## Tallies, relocation queues, patch table, poison set (R178, R202 to R209) -/

/-- Change the tally table. -/
def State.onMedium (s : State) (f : Medium → Medium) : State := { s with medium := f s.medium }

/-- Queue a page for relocation at the head or the tail of its channel's queue (R204). -/
def queueReloc (s : State) (page ppn : Nat) (head : Bool) : State :=
  s.updChan (s.home page) (fun c =>
    if c.relocs.any (fun x => x.page == page && x.ppn == ppn) then
      (if head then { c with relocs := ⟨page, ppn⟩ :: c.relocs.filter (fun x => !(x.page == page && x.ppn == ppn)) } else c)
    else if c.relocs.length < Config.relocLen then
      { c with relocs := if head then ⟨page, ppn⟩ :: c.relocs else c.relocs ++ [⟨page, ppn⟩] }
    else if head then { c with relocs := ⟨page, ppn⟩ :: c.relocs.dropLast }
    else c)

/-- Ways of the tally table (R203). -/
def tallySet (page : Nat) : Nat := Config.tallyHash page % 262144

/-- Add one to the tally of a page, under the PPN its map entry names now; an entry whose PPN differs from it restarts, a full set
replaces its lowest entry, the oldest on ties (R203). The page is queued from 64 on: one that a full queue turned away is queued by its
next qualifying decode (R202, R204). -/
def addTally (s : State) (page : Nat) : State :=
  let t := s.medium.tallies
  let now := s.regul.refTicks
  let ppn := s.mapEntry page
  match Tbl.find t page with
  | some x =>
    let n := if x.ppn = ppn then min 255 (x.n + 1) else 1
    let s1 := s.onMedium (fun m => { m with tallies := Tbl.put t page ⟨ppn, n, x.born⟩ })
    if 64 ≤ n then queueReloc s1 page ppn false else s1
  | none =>
    let peers := t.filter (fun p => tallySet p.1 == tallySet page)
    let t1 := if peers.length < 4 then t
      else
        let low := peers.foldl (fun (b : Option (Nat × Tally)) p => match b with
          | none => some p
          | some q => if p.2.n < q.2.n ∨ (p.2.n = q.2.n ∧ p.2.born < q.2.born) then some p else some q) none
        match low with
        | none => t
        | some p => Tbl.del t p.1
    s.onMedium (fun m => { m with tallies := Tbl.put t1 page ⟨ppn, 1, now⟩ })

/-- Queue a page for relocation with the PPN it has now (R204); an unmapped page has no copy to relocate. -/
def queuePage (s : State) (page : Nat) (head : Bool) : State :=
  if mapped (s.mapEntry page) then queueReloc s page (s.mapEntry page) head else s

/-- The patch entry of a slot, if its channel's table holds one (R206). -/
def State.patchOf (s : State) (page ppn line : Nat) : Option Patch :=
  (s.chan (s.home page)).patches.find? (fun x => x.ppn == ppn && x.line == line)

/-- Create a patch entry for a slot where the channel has a free one (R206); its page goes to the head of the relocation
queue (R207, R209). -/
def addPatch (s : State) (page ppn line bits : Nat) : State :=
  let ch := s.home page
  let c := s.chan ch
  let s1 := match (Tbl.find s.medium.pages ppn).bind (fun p => p.lines[line % 16]?) with
    | none => s
    | some img =>
      if c.patches.any (fun x => x.ppn == ppn && x.line == line % 16) || decide (Config.patchLen ≤ c.patches.length) then s
      else s.updChan ch (fun c => { c with patches := c.patches ++ [⟨ppn, line % 16, img, bits, false⟩] })
  queuePage s1 page true

/-- What every decode that succeeds leaves behind (R206): the histogram of corrected bits, and a patch entry from 12 bits or re-read 2
on. -/
def noteSlot (s : State) (line ppn bits reread : Nat) : State :=
  let s1 := count (sample s 2 bits) 0x0D (s.home (line / 16)) none bits
  if 12 ≤ bits ∨ 2 ≤ reread then addPatch s1 (line / 16) ppn line bits else s1

/-- What a successful decode of a host read, stream fetch, merge read or gather leaves behind (R202, R206): the tally and the relocation
queue beside what every decode leaves. -/
def noteDecode (s : State) (line ppn bits reread : Nat) : State :=
  let page := line / 16
  let s2 := if 1 ≤ bits && mapped (s.mapEntry page) then addTally s page else s
  let s3 := if 10 ≤ bits ∨ 1 ≤ reread then queuePage s2 page true else s2
  noteSlot s3 line ppn bits reread

/-- Whether a line stands in its channel's poison set, or waits to enter it (R178). -/
def State.inPoisonSet (s : State) (line : Nat) : Bool :=
  let c := s.chan (s.home (line / 16))
  c.poisonSet.contains line || c.poisonWait.contains line

/-- A line found uncorrectable is poisoned: recorded, entered in the poison set or made to wait for an entry, its page
queued for relocation (R52, R178). -/
def poisonLine (s : State) (line : Nat) : State :=
  let page := line / 16
  let s1 := record s (Config.evClass 2 0) (page % 2 ^ 32)
  let s2 := s1.updChan (s.home page) (fun c =>
    if c.poisonSet.contains line || c.poisonWait.contains line then c
    else if c.poisonSet.length < Config.poisonSetLen then { c with poisonSet := c.poisonSet ++ [line] }
    else { c with poisonWait := c.poisonWait ++ [line] })
  queuePage s2 page true

/-- A page is poisoned: recorded as the second kind of R52. -/
def recordPagePoison (s : State) (page : Nat) : State := record s (Config.evClass 2 1) (page % 2 ^ 32)

/-- Lines of a page that a test picks leave the poison set; waiting lines enter (R178). -/
def leavePoisonSet (s : State) (page : Nat) (gone : Nat → Bool) : State :=
  s.updChan (s.home page) (fun c =>
    let keep := fun (l : Nat) => l / 16 != page || !gone l
    let set := c.poisonSet.filter keep
    let wait := c.poisonWait.filter keep
    let room := Config.poisonSetLen - set.length
    { c with poisonSet := set ++ wait.take room, poisonWait := wait.drop room })

/-! ## Reads by the house (R182, R200) -/

/-- How the reads of one slot ended (Table 6-2): decoded, with its corrected bits and the re-reads it took; uncorrectable after the last
permitted read; decoded, its MAC failing. -/
inductive SlotEnd where
  | good (bits reread : Nat)
  | lost
  | mac
  deriving DecidableEq, Repr

/-- The decodes of one slot, in order, down to its end: a T-mode slot is re-read twice at most (R182), and a failing tag slot fails the
read of an integrity page (R181). Where the command says nothing of a decode it finds no error (log 4). -/
def readRun (tMode tagged : Bool) : Nat → List Decoded → SlotEnd
  | n, [] => if n = 0 then .good 0 0 else .lost
  | n, .ok b :: _ => .good b n
  | n, .macFail :: _ => if tagged then .mac else .good 0 n
  | n, .autoErr :: rest => readRun tMode tagged n rest
  | n, .uncorrectable :: rest => if tMode && decide (n < 2) then readRun tMode tagged (n + 1) rest else .lost
  | n, .tagSlot :: rest =>
    if !tagged then .good 0 n else if tMode && decide (n < 2) then readRun tMode tagged (n + 1) rest else .lost

/-- Re-reads that a slot took. -/
def SlotEnd.rereads (e : SlotEnd) (tMode : Bool) : Nat :=
  match e with
  | .good _ n => n
  | .lost => if tMode then 2 else 0
  | .mac => 0

/-- Whether the metadata of the slot at a line's place name that line (R200). -/
def State.tagsMatch (s : State) (line ppn : Nat) : Bool :=
  match Tbl.find s.medium.pages ppn with
  | some p => p.page == line / 16 && decide (line % 16 < p.lines.length)
  | none => false

/-- Whether the slot of a line can decode as that line: its tags are the line's (R200), a monotone pair has a parity it reads with
(Table 3-6), and its die is accepted (R103). -/
def State.readable (s : State) (line ppn : Nat) : Bool :=
  s.tagsMatch line ppn && !s.pairLost line ppn && (s.descOf (s.frame (fxOf ppn))).isSome

/-- House work reads the slot of a line: its slot reads and re-reads are counted, and a slot whose tags are another's is an
uncorrectable decode (R200). -/
def slotRead (s : State) (line ppn : Nat) (found : List (Nat × Decoded)) : State × SlotEnd :=
  let ch := (s.frame (fxOf ppn)).ch
  let tMode := (s.frame (fxOf ppn)).mode == 2
  let tagged := ((Tbl.find s.medium.pages ppn).map (·.integ)).getD false
  let e := if s.readable line ppn then
      readRun tMode tagged 0 ((found.filter (fun f => f.1 == line)).map (·.2))
    else .lost
  let n := e.rereads tMode
  let t := count s 0x08 ch none (1 + flag tagged)
  let t1 := if n = 0 then t else count t 0x0C ch none n
  (if n = 2 then t1.updChan ch (fun c => { c with rrCount := (c.rrCount + 1) % 2 ^ 16 }) else t1, e)

end Sys2Proof.Machine
end

