-- ==== Sys2Proof/Machine/Lines.lean ====
section
/-! DEFINITION. The lines of the cache and of the write-back buffer: lookup, victim choice, installation, and how an
operation changes a line (02, 04). -/

namespace Sys2Proof.Machine

open Sys2Proof

/-! ## What an operation does to a line -/

/-- Bytes that an operation covers (Table 2-6). -/
def MemOp.bytes : MemOp → Nat
  | .rd256 => 256
  | .wr256 _ => 256
  | .zero => 256
  | _ => 64

/-- Whether an operation is a read. -/
def MemOp.isRead : MemOp → Bool
  | .rd64 => true
  | .rd256 => true
  | _ => false

/-- Whether an operation replaces the whole line (R54, R126). -/
def MemOp.isFull : MemOp → Bool
  | .wr256 _ => true
  | .zero => true
  | _ => false

/-- Whether an operation merges with the line (R64). -/
def MemOp.isPartial : MemOp → Bool
  | .wr64 _ => true
  | .wrp _ _ => true
  | _ => false

/-- Whether an operation is an accumulate. -/
def MemOp.isAcc : MemOp → Bool
  | .acc _ => true
  | _ => false

/-- The 64 B host line at byte offset 64 k of a line. -/
def hostLine (l : Line) (k : Nat) : HLine := l.extractLsb' (512 * k) 512

/-- A line with the bits under a mask of its k-th host line replaced. -/
def putHost (l : Line) (k : Nat) (mask d : HLine) : Line :=
  let m : Line := mask.zeroExtend 2048 <<< (512 * k)
  (l &&& ~~~m) ||| ((d &&& mask).zeroExtend 2048 <<< (512 * k))

/-- Bit mask of a byte-enable mask (R55). -/
def byteMask (m : BitVec 64) : HLine :=
  (List.range 64).foldl (fun (acc : HLine) i => if m.getLsbD i then acc ||| ((0xFF : HLine) <<< (8 * i)) else acc) 0

/-- A line after an operation at a host address (R31, R33, R64). -/
def MemOp.merge (op : MemOp) (a : Nat) (l : Line) : Line :=
  let k := a / 64 % 4
  match op with
  | .wr64 d => putHost l k (~~~(0 : HLine)) d
  | .wr256 d => d
  | .wrp m d => putHost l k (byteMask m) d
  | .acc d => l ||| (d.zeroExtend 2048 <<< (512 * k))
  | .zero => 0
  | _ => l

/-- Line address, host address [43:8], of a request. -/
def Req.line (r : Req) : Nat := r.addr / 256

/-- Page number of a request. -/
def Req.page (r : Req) : Nat := r.addr / 4096

/-! ## The cache and the write-back buffer -/

/-- Set of a line: the keyed hash of R108 over the sets in force. -/
def Cache.setOf (c : Cache) (line : Nat) : Nat := Config.cacheHash c.hashKey line % max 1 c.sets

/-- Dirty count: dirty lines and write-back buffer copies; orphans are not counted (R121). -/
def Cache.dirty (c : Cache) : Nat := (c.lines.filter (fun p => p.2.dirty)).length + c.wbb.length

/-- The cached line of an address that a lookup hits: any way, while the cache is on (R109, R132). -/
def Cache.hit (c : Cache) (line : Nat) : Option CLine := if c.on then Tbl.find c.lines line else none

/-- Whether an OR delta over the stored line stands in a line that DRAM has lost (R113). -/
def Cache.deltaBad (c : Cache) (line : Nat) : Bool :=
  (match c.hit line with
   | some x => x.delta && x.poison
   | none => false)
  || (match Tbl.find c.wbb line with
      | some w => w.delta && w.poison
      | none => false)

/-- OR of what the cache and the write-back buffer hold over the stored line. -/
def Cache.delta (c : Cache) (line : Nat) : Line :=
  (match c.hit line with
   | some x => if x.delta then x.data else 0
   | none => 0)
  ||| (match Tbl.find c.wbb line with
       | some w => if w.delta then w.data else 0
       | none => 0)

/-- The full value of a line that stands in the cache or the buffer, and whether it is poisoned; none where the stored
line is needed (R64, R119, R145). A buffer copy is hit while the cache is off as well: R119 and R132 leave open which of them then
holds, and serving the copy is the model's choice (DESIGN CHOICE, log 76). -/
def Cache.full (c : Cache) (line : Nat) : Option (Line × Bool) :=
  match c.hit line with
  | some x =>
    if !x.delta then some (x.data, x.poison)
    else
      match Tbl.find c.wbb line with
      | some w => if w.delta then none else some (w.data ||| x.data, w.poison || x.poison)
      | none => none
  | none =>
    match Tbl.find c.wbb line with
    | some w => if w.delta then none else some (w.data, w.poison)
    | none => none

/-- Note the use of a line: it becomes the most recent of its set. -/
def touch (s : State) (line : Nat) : State :=
  s.onCache (fun c =>
    { c with lines := Tbl.upd c.lines line (fun x => { x with used := c.clock }), clock := c.clock + 1 })

/-! ## Tags and the tag lookaside (R110, R111) -/

/-- AGE of a line: its recency rank within its set, 0 most recent (Table 4-2). -/
def Cache.age (c : Cache) (x : CLine) : Nat :=
  min 15 (c.lines.filter (fun p => p.2.set == x.set && decide (x.used < p.2.used))).length

/-- The tag entry of a way of a set (Table 4-2); zero where the way holds no line. -/
def Cache.tagEntry (c : Cache) (set way : Nat) : BitVec 64 :=
  match c.lines.find? (fun p => p.2.set == set && p.2.way == way) with
  | none => 0
  | some (line, x) =>
    BitVec.ofNat 64 (line % 2 ^ 36 + 2 ^ 36 + flag x.dirty * 2 ^ 37 + flag x.delta * 2 ^ 38 + flag x.orphan * 2 ^ 39
      + flag x.mono * 2 ^ 40 + c.age x * 2 ^ 41 + x.region % 256 * 2 ^ 48 + x.label % 64 * 2 ^ 56)

/-- The 16 tag entries of a set. -/
def Cache.setTags (c : Cache) (set : Nat) : List (BitVec 64) := (List.range 16).map (c.tagEntry set)

/-- Write the tags of a set to both copies in DRAM (R110). -/
def Cache.writeTags (c : Cache) (set : Nat) : Cache :=
  { c with tag0 := Tbl.put c.tag0 set (c.setTags set), tag1 := Tbl.put c.tag1 set (c.setTags set) }

/-- A set leaves the lookaside: it is written to both copies only if one of its entries changed (R111). -/
def Cache.leaveLookaside (c : Cache) (set : Nat) : Cache :=
  if Tbl.getD c.tag0 set (List.replicate 16 0) = c.setTags set then c else c.writeTags set

/-- A set is used: it becomes the most recent of the lookaside, and the least recent leaves past 32,768 sets (R111). -/
def Cache.useSet (c : Cache) (set : Nat) : Cache :=
  let l := set :: c.lookaside.erase set
  if l.length ≤ Config.lookasideSets then { c with lookaside := l }
  else { (l.getLast?.map c.leaveLookaside).getD c with lookaside := l.dropLast }

/-- A bad tag copy of a set is rewritten from the other (R112). -/
def Cache.mendTags (c : Cache) (set : Nat) : Cache :=
  match Tbl.find c.tag1 set with
  | some t => { c with tag0 := Tbl.put c.tag0 set t }
  | none => c

/-- Active ways as a mask (R114). -/
def Cache.activeMask (c : Cache) : BitVec 16 := BitVec.ofNat 16 (2 ^ c.active - 1)

/-- Effective way mask of an allocation, by the region's mask and the requester's label (R115). -/
def Cache.mask (c : Cache) (ways : BitVec 16) (label : Nat) : BitVec 16 :=
  (if ways = 0 then c.masks.getD label 0xFFFF else ways) &&& c.activeMask

/-- The least recently used of some lines. -/
def oldest (l : List (Nat × CLine)) : Option (Nat × CLine) :=
  l.foldl (fun b p => match b with
    | none => some p
    | some q => if p.2.used < q.2.used then some p else some q) none

/-- Where a line would be placed (R118): a way, and the line it displaces. -/
def Cache.place (c : Cache) (set : Nat) (mask : BitVec 16) : Option (Nat × Option (Nat × CLine)) :=
  let mine := c.lines.filter (fun p => p.2.set == set && mask.getLsbD p.2.way)
  match (List.range 16).find? (fun w => mask.getLsbD w && !c.lines.any (fun p => p.2.set == set && p.2.way == w)) with
  | some w => some (w, none)
  | none =>
    match oldest (mine.filter (fun p => !p.2.dirty)) with
    | some p => some (p.2.way, some p)
    | none => (oldest mine).map (fun p => (p.2.way, some p))

/-- Put a displaced dirty line in the write-back buffer over any copy it already holds (R119). -/
def Cache.buffer (c : Cache) (line : Nat) (x : CLine) : Cache :=
  let w : WbbLine :=
    match Tbl.find c.wbb line with
    | some o =>
      if x.delta then { o with data := o.data ||| x.data, mono := x.mono, poison := o.poison || x.poison, region := x.region }
      else ⟨x.data, false, x.mono, x.poison, x.region⟩
    | none => ⟨x.data, x.delta, x.mono, x.poison, x.region⟩
  { c with wbb := Tbl.put c.wbb line w }

/-- A displaced line leaves its way: a dirty one into the buffer (R119), an orphan out of CA_ORPHANS. -/
def evict (s : State) (line : Nat) (x : CLine) : State :=
  let s1 := s.onCache (fun c =>
    { c with lines := Tbl.del c.lines line })
  if x.dirty then count (s1.onCache (fun c => c.buffer line x)) 0x07 0x3F none 1 else s1

/-- A line leaves the cache without write-back; a restored line that is discarded has nothing left to seal. -/
def dropLine (s : State) (line : Nat) : State :=
  match Tbl.find s.cache.lines line with
  | none => s
  | some x =>
    let t := s.onCache (fun c => { c with lines := Tbl.del c.lines line })
    if x.restored then t.onPers (fun p => { p with restoredLines := p.restoredLines.filter (fun l => l != line) }) else t

/-- Whether a line would have to wait for an entry of the write-back buffer: its victim is dirty and the buffer full (R120). -/
def Cache.crowded (c : Cache) (line : Nat) (ways : BitVec 16) (label : Nat) : Bool :=
  !Tbl.has c.lines line
    && (match c.place (c.setOf line) (c.mask ways label) with
        | some (_, some (l, x)) => x.dirty && decide (Config.wbbLines ≤ c.wbb.length) && !Tbl.has c.wbb l
        | _ => false)

/-- Install a line (R117, R118) under the region's mask at its lookup (R48) and a label: in its own way if it is resident, else in
a way of the effective mask. None where the dirty victim finds the write-back buffer full (R120) or the dirty budget is spent
(R122). -/
def install (s : State) (line : Nat) (data : Line) (dirty delta poison : Bool) (ways : BitVec 16) (label : Nat) : Option State :=
  match s.regionAt (line * 256) with
  | none => none
  | some (idx, r) =>
    let c := s.cache
    let put := fun (t : State) (set way : Nat) (restored : Bool) => t.onCache (fun c0 =>
      let c := c0.useSet set
      { c with
        lines := Tbl.put c.lines line
          { data := data, dirty := dirty, delta := delta, orphan := false, mono := r.mono, poison := poison,
            region := idx, label := label, set := set, way := way, used := c.clock, frozen := false,
            restored := restored }
        clock := c.clock + 1 })
    match Tbl.find c.lines line with
    | some x =>
      if dirty && !x.dirty && decide (c.budget < c.dirty + 1) then none
      else some (put s x.set x.way x.restored)
    | none =>
      if dirty && decide (c.budget < c.dirty + 1) then none
      else
        let set := c.setOf line
        match c.place set (c.mask ways label) with
        | none => none
        | some (w, none) => some (put s set w false)
        | some (w, some (l, x)) =>
          if c.crowded line ways label then none
          else some (put (evict s l x) set w false)

/-- Install a clean line while the cache is on; who calls it has seen that no entry of the write-back buffer is lacking (R120). -/
def installClean (s : State) (line : Nat) (data : Line) (ways : BitVec 16) (label : Nat) : State :=
  if s.cache.on then (install s line data false false false ways label).getD s else s

/-- Whether the write-back buffer can take every dirty line of a set (R112, R119). -/
def Cache.setFits (c : Cache) (set : Nat) : Bool :=
  decide ((c.lines.filter (fun p => p.2.set == set && p.2.dirty && !Tbl.has c.wbb p.1)).length + c.wbb.length ≤ Config.wbbLines)

/-- Both tag copies of a set are uncorrectable (R112): clean lines go, each dirty line that a copy still names goes to
the write-back buffer, and for a dirty line that neither names the pages whose lines the set can hold are poisoned. What
a copy still names is a free value (log 1). The second part is those pages. -/
def loseSet (s : State) (set : Nat) : State × List Nat :=
  let mine := s.cache.lines.filter (fun p => p.2.set == set)
  let go := fun (acc : State × Bool) (p : Nat × CLine) =>
    let t := acc.1
    if !p.2.dirty then (dropLine t p.1, acc.2)
    else
      let named := t.freeVal % 2 == 1
      let t1 := t.burn 1
      if named then
        (evict t1 p.1 p.2, acc.2)
      else (dropLine t1 p.1, true)
  let (t0, lost) := mine.foldl go (s, false)
  let t := t0.onCache (fun c => c.writeTags set)
  let t1 := record t (Config.evClass 4 0) 0
  (t1, if lost then
      t1.maps.regions.flatMap (fun p => ((List.range (p.2.size / 4096)).map (fun i => p.2.base / 4096 + i)).filter
        (fun page => (List.range 16).any (fun j => t1.cache.setOf (16 * page + j) == set)))
    else [])

end Sys2Proof.Machine
end

