-- ==== Sys2Proof/Machine/Change.lean ====
section
/-! DEFINITION. Map changes that make no copy (R148): trim, drop and page poisoning enter the current journal record. -/

namespace Sys2Proof.Machine

open Sys2Proof

/-- The map entry a change without a copy gives its page: poisoned, or unmapped (Table 5-10). -/
def changeEntry (k : MoveKind) : Nat := if k = .poison then Config.poisoned else Config.unmapped

/-- Whether a page has a map change in flight (R148). -/
def State.changing (s : State) (page : Nat) : Bool := Tbl.has s.maps.moves page

/-- Enter a trim, drop or poisoning of a page: it waits behind a change in flight (R148); it leaves the page without a
current copy, so FLOOR is committed first (R423); then its entry joins the current journal record. -/
def startChange (s : State) (page : Nat) (k : MoveKind) : State :=
  if s.changing page then
    s.onMaps (fun m =>
      { m with waitMoves := if m.waitMoves.contains (page, k) then m.waitMoves else m.waitMoves ++ [(page, k)] })
  else
    let old := s.mapEntry page
    let s1 := match s.regionOfPage page with
      | some (idx, r) => if mapped old then raiseFloor s (s.keyOfCopy page old r idx) else s
      | none => s
    s1.onMaps (fun m =>
      { m with
        moves := Tbl.put m.moves page ⟨k, old, changeEntry k, [], ⟨page, 0, false, false, []⟩, 2, [], [], 0, []⟩
        jpend := m.jpend ++ [⟨page, changeEntry k, old⟩] })

/-- A change that waited for a page's earlier one starts (R148). -/
def startWaiting (s : State) (page : Nat) : State :=
  match s.maps.waitMoves.find? (fun w => w.1 == page) with
  | none => s
  | some w => startChange (s.onMaps (fun m => { m with waitMoves := m.waitMoves.erase w })) page w.2

/-- A page's change is over without a map change: writes that its copy was to write through wait for another, and the change that
waits for the page starts (R148). -/
def dropMove (s : State) (page : Nat) : State :=
  let back := match Tbl.find s.maps.moves page with
    | some m => m.thru
    | none => []
  startWaiting ((s.onCache (fun c => { c with thru := back ++ c.thru })).onMaps (fun m =>
    { m with moves := Tbl.del m.moves page })) page

/-- A page is poisoned (R52): recorded, and its map entry changed through the journal. -/
def poisonPage (s : State) (page : Nat) : State := startChange (recordPagePoison s page) page .poison

/-- Poison pages one after another. -/
def poisonPages (s : State) (l : List Nat) : State := l.foldl poisonPage s

end Sys2Proof.Machine
end

