-- ==== Sys2Proof/Machine/Access.lean ====
section
/-! DEFINITION. The path of a memory operation (Tables 1-6 and 1-7): ingress checks, token bucket, operation table,
lookups in order, fills, and the outcome it delivers to whoever issued it (02, 04, 06, 09). -/

namespace Sys2Proof.Machine

open Sys2Proof

/-! ## Outcomes -/

/-- Whether a label holds a commitment of a kind (0 READ, 1 WRITE, 2 ACC) that is in force: commitments restored at a start are held
without force until every channel and port holds a LOADED result (R194). -/
def State.committed (s : State) (label kind : Nat) : Bool :=
  !s.regul.calWait && s.regul.commits.any (fun p => p.2.label == label && p.2.kind == kind)

/-- Whether a completed read was bounded (R170). The channel's calibration counts where the medium served it; a stream fetch has no
latency of its own. -/
def State.boundedRead (s : State) (r : Req) (media : Bool) : Bool :=
  s.fullService && s.committed r.label 0 && !r.held && (!media || (r.lane && (s.chan (s.home r.page)).calLoaded))
    && (match r.who with
        | .host p _ _ => (s.port p).calLoaded
        | .gone _ => false
        | .strm _ _ => false
        | _ => true)

/-- Nanoseconds since a request arrived (log 8). -/
def State.ageNs (s : State) (r : Req) : Nat := nsOf (s.regul.refTicks - r.at0)

/-- Words of data in the completion of an operation (Table 12-6). -/
def MemOp.cplWords : MemOp → Nat
  | .rd64 => 16
  | .rd256 => 64
  | _ => 0

/-- Data of a completion: the host line of a RD64, the line of a RD256. -/
def Req.pick (r : Req) (d : Line) : Line :=
  match r.op with
  | .rd64 => (hostLine d (r.addr / 64 % 4)).zeroExtend 2048
  | _ => d

/-- The outcome of an engine's access: an LD or ST completes; a unit of MOVE, COPY, FILL or CACHE.ZERO leaves it for its
mule's report (R20). -/
def engOutcome (s : State) (e c : Nat) (r : Req) (st : Nat) (d : Line) : State :=
  let x := s.ctx e c
  let s1 := s.putCtx e c { x with state := 3 }
  match x.wait with
  | .mem off =>
    if r.op.isRead && st == Config.OK then
      let w := s.wordAt e c
      completeD s e c w.d (BitVec.ofNat 64 ((d.toNat / 2 ^ (8 * off)) % 2 ^ (8 * 2 ^ w.fld 27 26))) st 0
    else complete s e c st 0
  | .xfer y => s1.updCtx e c (fun x => { x with wait := .xfer { y with out := some (st, d) } })
  | .zero lo n hi _ => s1.updCtx e c (fun x => { x with wait := .zero lo n hi (some st) })
  | _ => s

/-- A request gives back the lane it holds, unless it has been given back already (R172). -/
def laneFree (s : State) (r : Req) : State :=
  if r.lane then
    s.updChan (s.home r.page) (fun c => if c.laneLine = some r.line then { c with laneLine := none } else c)
  else s

/-- Deliver the outcome of a request to whoever issued it; `media` says that a media read served it. A lane it still holds is
released (R172). -/
def deliver (s0 : State) (r : Req) (st : Nat) (d : Line) (media : Bool) : State :=
  let s := laneFree s0 r
  let ns := s.ageNs r
  let s1 := if r.op.isRead && s.boundedRead r media then sample s 0 ns else s
  let s2 := if r.lane then s1.updChan (s.home r.page) (fun c => { c with laneMax := max c.laneMax (min ns 0xFFFF) }) else s1
  let s3 := if r.tagged then sampleRecord s2 0x02 else s2
  match r.who with
  | .gone _ => s3
  | .host p n tag =>
    let s4 := if r.op.isRead then s3 else sample s3 1 ns
    let s5 := if st = Config.OK then count s4 0x03 p (some r.label) (4 * r.op.cplWords) else s4
    sendCpl s5 p n tag 2 st r.op.cplWords (r.pick d)
  | .eng e c => engOutcome s3 e c r st (r.pick d)
  | .post e c => s3.updCtx e c (fun x =>
      match x.posted with
      | [] => x
      | y :: t => { x with posted := { y with out := some (st, r.pick d) } :: t })
  | .strm n k =>
    let s4 := if ((Tbl.find s.eng.streams n).map (fun x => x.commit.isSome)).getD false then sample s3 3 ns else s3
    { s4 with
      eng := { s4.eng with
        streams := Tbl.upd s4.eng.streams n (fun x => { x with fetched := Tbl.put x.fetched k (d, st) }) } }

/-! ## Checks (R36, R45, R55, R56, R72, R73, R424, R436; log 15) -/

/-- Alignment and enable mask (R55). -/
def Req.shapeOk (r : Req) : Bool :=
  r.addr % r.op.bytes == 0
    && (match r.op with
        | .wrp m _ => m != 0
        | _ => true)

/-- Write-backs pending for a line (R73): one in flight whose snapshot holds it, one for the line while it is dirty. -/
def State.pendingWb (s : State) (line : Nat) : Nat :=
  flag (match Tbl.find s.maps.moves (line / 16) with
        | some m => m.snap.any (fun p => p.1 == line)
        | none => false)
  + flag (Tbl.has s.cache.wbb line || (match Tbl.find s.cache.lines line with
        | some x => x.dirty
        | none => false))

/-- Whether the pair of a monotone line has a check record left (R73). -/
def State.recordLeft (s : State) (line : Nat) : Bool :=
  match s.stored (line / 16) with
  | none => false
  | some p => (p.lines[line % 16]?).any (fun i => !i.torn p (line % 16) && decide (i.records + s.pendingWb line < 8))

/-- Status of a request at its region lookup; OK where it passes. -/
def State.checkReq (s : State) (r : Req) : Nat :=
  match s.regionRange r.addr r.op.bytes with
  | none => Config.BAD_OPERAND
  | some (i, g) =>
    let k := s.keyRec g.key
    let rk := match s.keys.rekey with
      | some x => x.region == i
      | none => false
    if !reaches g r.admin r.sesLabel then Config.DENIED
    else if r.op.isAcc && !g.mono then Config.BAD_OPERAND
    else if r.op.isRead then Config.OK
    else if rk then Config.BUSY
    else if k.state = 0 then Config.BAD_OPERAND
    else if k.state = 2 then Config.KEY_FATAL
    else if s.maps.readOnly then
      (if r.op.isAcc then (if s.recordLeft r.line then Config.OK else Config.EXHAUSTED) else Config.EXHAUSTED)
    else Config.OK

/-! ## The read lane (R171, R172) -/

/-- Whether a request may hold a lane (R171): a read, the merge read of a partial write, and in READ_ONLY the check-slot read of an
ACC; a stream fetch never does. -/
def State.laneMay (s : State) (r : Req) : Bool :=
  (match r.who with
   | .strm _ _ => false
   | _ => true)
  && (r.op.isRead || r.op.isPartial || (r.op.isAcc && s.maps.readOnly))

/-- At the end of port ingress, or of the engine-port step, a request asks for the lane of its home channel, once: it holds the lane
where its label has a read commitment and the lane is free (R171). -/
def laneTake (s : State) (r : Req) : State × Req :=
  if s.committed r.label 0 && s.fullService && s.laneMay r && !r.asked then
    let ch := s.home r.page
    let c := s.chan ch
    if c.laneLine.isNone && !c.laneRun then
      (count (s.updChan ch (fun c => { c with laneLine := some r.line, laneGrants := (c.laneGrants + 1) % 2 ^ 32 })) 0x0E ch none 1,
       { r with lane := true, asked := true })
    else (s.updChan ch (fun c => { c with laneMisses := (c.laneMisses + 1) % 2 ^ 32 }), { r with asked := true })
  else (s, r)

/-! ## The array of a die (R173, R393, Table 6-1) -/

/-- Die d of a channel. -/
def Chan.die (c : Chan) (d : Nat) : Die := c.dies.getD d {}

/-- Change a die. -/
def State.updDie (s : State) (ch die : Nat) (f : Die → Die) : State :=
  s.updChan ch (fun c => { c with dies := updAt c.dies die f })

/-- Whether a die has a clear or a program to run (R173). -/
def State.dieBusy (s : State) (ch die : Nat) : Bool :=
  (match (s.chan ch).clearing with
   | some (fx, _) => (s.frame fx).die == die
   | none => false)
  || s.maps.moves.any (fun p => p.2.stage == 0 && mapped p.2.new && (s.frame (fxOf p.2.new)).ch == ch
        && (s.frame (fxOf p.2.new)).die == die)

/-- Fills that still need the array of a die. A read holds the array until its outcome stands (DESIGN CHOICE, log 77). -/
def State.dieFills (s : State) (ch die : Nat) : List (Nat × Fill) :=
  s.cache.fills.filter (fun p => p.2.res.isNone && (s.frame (fxOf p.2.ppn)).ch == ch && (s.frame (fxOf p.2.ppn)).die == die)

/-- Whether a fill suspends a clear or a program at once: a lane read, a fetch of an admitted stream (Table 6-1). -/
def Fill.urgent (f : Fill) : Bool := f.lane || f.deadline.isSome

/-- Reference period in which the first request of a fill arrived. -/
def Fill.born (f : Fill) : Nat := (f.reqs.head?.map (·.at0)).getD 0

/-- Whether one waiting fill goes to the die before another: a lane read first, then admitted stream fetches, earliest deadline
first, then the others in order of arrival (R187). -/
def Fill.before (f g : Fill) : Bool :=
  if f.lane != g.lane then f.lane
  else
    match f.deadline, g.deadline with
    | some a, some b => decide (a < b)
    | some _, none => true
    | none, some _ => false
    | none, none => decide (f.born < g.born)

/-- The waiting fill that a die takes next. -/
def nextFill (l : List (Nat × Fill)) : Option (Nat × Fill) :=
  l.foldl (fun b p => match b with
    | none => some p
    | some q => if p.2.before q.2 then some p else some q) none

/-- Whether two fills share one array read: the same fill, or lines of one page fetch of a stream (R186). -/
def sameRead (p q : Nat × Fill) : Bool := p.1 == q.1 || (p.2.group.isSome && p.2.group == q.2.group)

/-- The array read of a fill is issued; a lane read carries AUTO (R184, R395). -/
def issueRead (s : State) (x : Nat × Fill) (hit : Bool) : State :=
  s.onCache (fun c =>
    { c with
      fills := c.fills.map (fun p =>
        if sameRead p x then
          (p.1, { p.2 with issued := true, auto := p.2.lane, interrupted := p.2.interrupted || (p.2.lane && hit) })
        else p) })

/-- One SUSPEND command to a die (R398, R413): it aborts `n` array reads. -/
def suspendDie (s : State) (ch die n : Nat) : State :=
  count ((s.updChan ch (fun c =>
    { c with suspends := (c.suspends + 1) % 2 ^ 32, aborts := (c.aborts + n) % 2 ^ 32 })).updDie ch die (fun d =>
      { d with halted := true })) 0x0B ch none 1

/-- What the array of a die does next (R173, R184, R393): a lane read aborts another read, which is issued again after it; a lane
read and an admitted stream fetch suspend a clear or a program at once, any other read once that operation has run 800 ns since its last
resume; the operation resumes once no lane read and no admitted stream fetch needs the array. -/
def pumpDie (s : State) (ch die : Nat) : State :=
  let l := s.dieFills ch die
  let running := l.filter (fun p => p.2.issued)
  let d := (s.chan ch).die die
  match nextFill (l.filter (fun p => !p.2.issued)) with
  | none =>
    if d.halted && running.isEmpty then
      s.updDie ch die (fun d => { d with halted := false, runFrom := s.regul.refTicks })
    else s
  | some x =>
    if !running.isEmpty then
      if x.2.lane && running.all (fun p => !p.2.lane) then
        let t := s.onCache (fun c =>
          { c with
            fills := c.fills.map (fun p =>
              if running.any (fun q => q.1 == p.1) then (p.1, { p.2 with issued := false, auto := false }) else p) })
        issueRead (suspendDie t ch die 1) x true
      else s
    else if !s.dieBusy ch die then issueRead s x false
    else if d.halted then
      (if x.2.urgent then issueRead s x true
       else s.updDie ch die (fun d => { d with halted := false, runFrom := s.regul.refTicks }))
    else if x.2.urgent || decide (d.runFrom + Config.runTicks ≤ s.regul.refTicks) then issueRead (suspendDie s ch die 0) x true
    else s

/-- Every die of the channels goes on. -/
def pumpDies (s : State) : State :=
  ((s.cache.fills.map (fun p => ((s.frame (fxOf p.2.ppn)).ch, (s.frame (fxOf p.2.ppn)).die))).eraseDups).foldl
    (fun t x => pumpDie t x.1 x.2) s

/-- The array of the die of a PPN goes on. -/
def pumpAt (s : State) (ppn : Nat) : State := pumpDie s (s.frame (fxOf ppn)).ch (s.frame (fxOf ppn)).die

/-- Whether house work may read a page of a die now: no read holds the array, and a clear or a program there has run 800 ns since its
last resume (Table 6-1). -/
def State.mayRead (s : State) (ppn : Nat) : Bool :=
  let f := s.frame (fxOf ppn)
  let d := (s.chan f.ch).die f.die
  (s.dieFills f.ch f.die).all (fun p => !p.2.issued)
    && (!s.dieBusy f.ch f.die || decide (d.runFrom + Config.runTicks ≤ s.regul.refTicks))

/-- The array read of house work on a page (Table 6-1): a clear or a program on its die is suspended for it and resumes after it. -/
def houseRead (s : State) (ppn : Nat) : State :=
  let f := s.frame (fxOf ppn)
  if s.dieBusy f.ch f.die then
    (suspendDie s f.ch f.die 0).updDie f.ch f.die (fun d => { d with halted := false, runFrom := s.regul.refTicks })
  else s

/-! ## Fills (R64, R126) -/

/-- Whether general cipher pipelines are in service (R427). -/
def State.pipesLeft (s : State) : Bool := s.keys.pipes.any (fun n => decide (n < 3))

/-- A request waits in the address hazard table. -/
def waitReq (s : State) (r : Req) : State := s.onCache (fun c => { c with waiting := c.waiting ++ [r] })

/-- Requester number of a request at a crossbar arbiter (Table 11-18); a stream fetch is HS4's work. -/
def Req.crossbar (r : Req) : Nat :=
  match r.who with
  | .host p _ _ => p
  | .eng e _ => 4 + e
  | .post e _ => 4 + e
  | .strm _ _ => 0x18
  | .gone p => p

/-- Requester number of the slot transfers of a fill at the arbiter of its channel: the lane, the stream class for a fetch of an
admitted stream, else its label (Table 6-1, R347). -/
def Fill.requester (f : Fill) : Nat :=
  if f.lane then 0x42 else if f.deadline.isSome then 0x40 else (f.reqs.head?.map (·.label)).getD 0

/-- The slot transfer of a fill stands at the crossbar and at the arbiter of its channel (R280); those of admitted stream fetches are
taken there in order of deadline (R187). -/
def arbFill (s : State) (line : Nat) (f : Fill) : State :=
  let ch := s.home (line / 16)
  let t := arbWant (arbWant s (1 + ch) ((f.reqs.head?.map (·.crossbar)).getD 0x15)) (0x40 + ch) f.requester
  match f.lane, f.deadline with
  | false, some d => t.updChan ch (fun c => { c with strmXfers := c.strmXfers ++ [(d, line)] })
  | _, _ => t

/-- Start a media read of a line for a request: its frame is pinned (R185), the lane held while it lasts; a stream fetch brings its
deadline and its page fetch (R186, R187, R191). -/
def startFill (s : State) (r : Req) (merge : Bool) : State :=
  if !s.pipesLeft then deliver s r Config.CIPHER_FAULT 0 true
  else
    let ppn := s.mapEntry r.page
    let f : Fill :=
      { ppn := ppn, reqs := [r], merge := merge, doomed := false, lane := r.lane, stage := 0, deadline := r.deadline,
        first := r.first, group := r.group
        issued := r.group.isSome && s.cache.fills.any (fun p => p.2.group == r.group && p.2.issued && p.2.res.isNone) }
    let s1 := (pin s ppn).onCache (fun c => { c with fills := Tbl.put c.fills r.line f })
    count (arbFill (pumpAt s1 ppn) r.line f) 0x08 (s.home r.page) none 1

/-- A request joins a fill in flight; any but a read makes it a fill that is never doomed (R125, R126). A lane read promotes it while
its media read lasts: its array read and its transfers take the lane's place; after that the read completes with it (R184). -/
def joinFill (s : State) (r : Req) : State :=
  match Tbl.find s.cache.fills r.line with
  | none => s
  | some f0 =>
    let gone := f0.res.isSome
    let f := { f0 with
      reqs := f0.reqs ++ [r], merge := f0.merge || !r.op.isRead, lane := f0.lane || (r.lane && !gone)
      deadline := match f0.deadline, r.deadline with
        | some a, some b => some (min a b)
        | some a, none => some a
        | none, b => b
      first := f0.first || r.first }
    let s1 := s.onCache (fun c => { c with fills := Tbl.put c.fills r.line f })
    if gone then laneFree s1 r
    else if f.lane && !f0.lane then
      let ch := s.home r.page
      pumpAt ((arbWant (arbDrop s1 (0x40 + ch) f0.requester) (0x40 + ch) 0x42).updChan ch (fun c =>
        { c with strmXfers := c.strmXfers.filter (fun x => x.2 != r.line) })) f.ppn
    else s1

/-- A fill keeps the accumulates over its line that stand beside it now (R68). -/
def Fill.fold (f : Fill) (delta : Line) (bad : Bool) : Fill :=
  if f.doomed then f else { f with readOver := f.readOver ||| delta, overBad := f.overBad || bad }

/-- A fill is doomed: its reads take effect before what follows, with the accumulates made so far (R125, R126). -/
def Fill.doom (f : Fill) (delta : Line) (bad : Bool) : Fill := { f.fold delta bad with doomed := true }

/-- The value a fill serves: the stored line, the accumulates kept with it, and for a fill that is not doomed those that the cache
and the buffer hold (R68). -/
def Fill.value (f : Fill) (delta : Line) : Line := f.data ||| f.readOver ||| (if f.doomed then 0 else delta)

/-- Whether an accumulate in that value stands in a line that DRAM has lost (R113). -/
def Fill.bad (f : Fill) (bad : Bool) : Bool := f.overBad || (!f.doomed && bad)

/-- Mark the fill of a line doomed (R125, R126). -/
def doomFill (s : State) (line : Nat) : State :=
  s.onCache (fun c => { c with fills := Tbl.upd c.fills line (fun f => f.doom (c.delta line) (c.deltaBad line)) })

/-- Whether a fill that is not doomed is in flight for a line: what reaches the line joins it (R126). -/
def Cache.filling (c : Cache) (line : Nat) : Bool :=
  match Tbl.find c.fills line with
  | some f => !f.doomed
  | none => false

/-- The map entry a lookup sees: a trim, drop or poisoning counts from its discard on (R51, R148). Of two changes that are pending on
one page the spec names no order for a read: the trim or the drop is seen before the poisoning (DESIGN CHOICE, log 78). -/
def State.viewEntry (s : State) (page : Nat) : Nat :=
  let has := fun (k : MoveKind) => s.maps.waitMoves.contains (page, k) || (match Tbl.find s.maps.moves page with
    | some m => m.kind == k
    | none => false)
  if has .trim || has .drop then Config.unmapped
  else if has .poison then Config.poisoned
  else s.mapEntry page

/-- What the map, the poison set and the patch table say of a line without a media read (R37, R53, R177, R178): a status
and a value; none where the medium must be read. The flag says that the value may be installed. -/
def State.known (s : State) (line : Nat) : Option (Nat × Line × Bool) :=
  let page := line / 16
  let e := s.viewEntry page
  if e = Config.unmapped then some (Config.OK, 0, false)
  else if e = Config.poisoned then some (Config.POISON, 0, false)
  else if s.inPoisonSet line then some (Config.POISON, 0, false)
  else
    match s.patchOf page e (line % 16) with
    | none => none
    | some p =>
      if p.img.poison then some (Config.POISON, 0, false)
      else
        match s.regionOfPage page, Tbl.find s.medium.pages e with
        | some (i, g), some img =>
          let k := s.keyOfCopy page e g i
          some (Config.OK, p.img.decipher (s.keyRec k).keys (tweakOf line img.version k img.mono), true)
        | _, _ => none

/-- Whether the line's map entry or die-directory word awaits its recovery (R176, R179). -/
def State.blockedMap (s : State) (page : Nat) : Bool :=
  s.maps.mapBad.contains page || (mapped (s.mapEntry page) && s.medium.dieBad.contains (fxOf (s.mapEntry page) / Config.dieWordFrames))

/-- Whether a stored line carries POISON, for an ACC, which reads nothing (R70). -/
def State.storedPoison (s : State) (line : Nat) : Bool :=
  match (s.stored (line / 16)).bind (fun p => p.lines[line % 16]?) with
  | none => false
  | some i => i.poison && mapped (s.viewEntry (line / 16))

/-! ## Lookups (R32, R109, R126) -/

/-- A read: fill in flight, cache and buffer, map, poison set, patch table, medium. A read behind a doomed fill finds the line
that doomed it, or waits; a line that would displace a dirty one waits for room in the write-back buffer (R120). -/
def lookupRead (s : State) (r : Req) : State :=
  if s.cache.filling r.line then joinFill s r
  else
    match s.cache.full r.line with
    | some (d, poison) =>
      deliver (touch (count s 0x04 0x3F none 1) r.line) r (if poison then Config.POISON else Config.OK) d false
    | none =>
      if Tbl.has s.cache.fills r.line then waitReq s r
      else
        let s2 := count s 0x05 0x3F none 1
        if s2.blockedMap r.page then waitReq s2 r
        else
          match s2.known r.line with
          | none => startFill s2 r false
          | some (st, d, inst) =>
            let bad := st == Config.OK && s2.cache.deltaBad r.line
            let v := d ||| s2.cache.delta r.line
            if !inst || bad || Tbl.has s2.cache.lines r.line then deliver s2 r (if bad then Config.POISON else st) v false
            else if s2.cache.on && s2.cache.crowded r.line r.rways r.label then waitReq s2 r
            else deliver (installClean s2 r.line v r.rways r.label) r st v false

/-- Install the line a write leaves and complete it, or wait for room (R118, R120, R122). -/
def writeLine (s0 : State) (r0 : Req) (d : Line) (delta : Bool) : State :=
  let s := laneFree s0 r0
  let r := { r0 with lane := false }
  match install s r.line d true delta false r.rways r.label with
  | some t => deliver t r Config.OK 0 false
  | none => waitReq s r

/-- A full-line write (R54, R126): it joins a fill that serves a write and dooms any other. -/
def lookupFull (s : State) (r : Req) : State :=
  match Tbl.find s.cache.fills r.line with
  | some f => if f.merge && !f.doomed then joinFill s r else writeLine (doomFill s r.line) r (r.op.merge r.addr 0) false
  | none => writeLine s r (r.op.merge r.addr 0) false

/-- A partial write: it merges into the resident line or into zeros, else a merge read comes first (R64, R65). An OR delta that
DRAM has lost makes the line one that cannot be read (R113). -/
def lookupPartial (s : State) (r : Req) : State :=
  if s.cache.filling r.line then joinFill s r
  else
    match s.cache.full r.line with
    | some (d, poison) =>
      if poison then deliver s r Config.POISON 0 false
      else writeLine (count s 0x04 0x3F none 1) r (r.op.merge r.addr d) false
    | none =>
      if Tbl.has s.cache.fills r.line then waitReq s r
      else
        let s1 := count s 0x05 0x3F none 1
        if s1.blockedMap r.page then waitReq s1 r
        else
          match s1.known r.line with
          | none => startFill s1 r true
          | some (st, d, _) =>
            if st ≠ Config.OK then deliver s1 r st 0 false
            else if s1.cache.deltaBad r.line then deliver s1 r Config.POISON 0 false
            else writeLine s1 r (r.op.merge r.addr (d ||| s1.cache.delta r.line)) false

/-- An ACC: it joins a fill in flight; else it is ORed into the cached line, or into an OR delta without a media read (R33, R69,
R70, R126). -/
def lookupAcc (s : State) (r : Req) : State :=
  if s.cache.filling r.line then joinFill s r
  else
    match s.cache.hit r.line with
    | some x =>
      if x.poison then deliver s r Config.POISON 0 false
      else writeLine (count s 0x04 0x3F none 1) r (r.op.merge r.addr x.data) x.delta
    | none =>
      if Tbl.has s.cache.fills r.line then waitReq s r
      else
        let s1 := count s 0x05 0x3F none 1
        if s1.blockedMap r.page then waitReq s1 r
        else
          let bad := s1.storedPoison r.line || (match s1.known r.line with
            | some (st, _, _) => st != Config.OK
            | none => false) || (match Tbl.find s1.cache.wbb r.line with
            | some w => w.poison
            | none => false)
          if bad then deliver s1 r Config.POISON 0 false
          else
            match s1.cache.full r.line with
            | some (d, _) => writeLine s1 r (r.op.merge r.addr d) false
            | none => writeLine s1 r (r.op.merge r.addr 0) true

/-- A write while the cache is write-through or off (R123, R132): it waits for its page's rewrite; a partial write or an
ACC over a line known poisoned is refused (R65, R70). A line of a CACHE.ZERO waits for a cipher pipeline (Table 4-7). -/
def lookupThru (s : State) (r : Req) : State :=
  let go := fun (s : State) => (laneFree s r).onCache (fun c => { c with thru := c.thru ++ [{ r with lane := false }] })
  match Tbl.find s.cache.fills r.line with
  | some f => if r.op.isFull && !f.merge then go (doomFill s r.line) else waitReq s r
  | none =>
    if s.blockedMap r.page then waitReq s r
    else if !s.pipesLeft && r.op != .zero then deliver s r Config.CIPHER_FAULT 0 false
    else if r.op.isFull then go s
    else
      let bad := (match s.known r.line with
          | some (st, _, _) => st != Config.OK
          | none => false)
        || (match s.cache.full r.line with
          | some (_, p) => p
          | none => s.storedPoison r.line || s.cache.deltaBad r.line)
      if bad then deliver s r Config.POISON 0 false else go s

/-- Whether a request's lookup needs the page's map entry (R174): on a hit its result is discarded. -/
def State.needsMap (s : State) (r : Req) : Bool :=
  if !r.op.isRead && (!s.cache.on || !s.cache.wback) then true
  else if s.cache.filling r.line || r.op.isFull then false
  else if r.op.isAcc then (s.cache.hit r.line).isNone
  else (s.cache.full r.line).isNone

/-- What the inline SEC-DED finds at a lookup (R112, R113, R176, R179). -/
def dramFinding (s : State) (r : Req) : State :=
  match r.dram with
  | .ok => s
  | .tagOne => s.onCache (fun c => c.mendTags (c.setOf r.line))
  | .tagBoth =>
    let (t, pages) := loseSet s (s.cache.setOf r.line)
    poisonPages t pages
  | .data =>
    match s.cache.hit r.line with
    | none => s
    | some x =>
      if x.dirty then
        record (s.onCache (fun c => { c with lines := Tbl.upd c.lines r.line (fun x => { x with poison := true }) }))
          (Config.evClass 4 1) (r.page % 2 ^ 32)
      else dropLine s r.line
  | .mapEntry =>
    if !s.needsMap r || s.maps.mapBad.contains r.page then s
    else s.onMaps (fun m => { m with mapBad := m.mapBad ++ [r.page] })
  | .dieWord =>
    let e := s.mapEntry r.page
    let w := fxOf e / Config.dieWordFrames
    if !s.needsMap r || !mapped e || s.medium.dieBad.contains w then s
    else s.onMedium (fun m => { m with dieBad := m.dieBad ++ [w] })

/-- Whether an earlier request still stands on a line (R57): it waits, is being written through, or waits for a way after that. -/
def State.lineHeld (s : State) (line : Nat) : Bool :=
  s.cache.waiting.any (fun w => w.line == line) || s.cache.thru.any (fun w => w.line == line)
    || s.cache.thruDone.any (fun w => w.1.line == line)
    || (match Tbl.find s.maps.moves (line / 16) with
        | some m => m.thru.any (fun w => w.line == line)
        | none => false)

/-- Look a request up: behind an earlier request on its line (R57), else by what it is. A set whose tags are lost waits while the
write-back buffer cannot take its dirty lines (R112, R119). -/
def lookup (s0 : State) (r0 : Req) : State :=
  if r0.dram == .tagBoth && !s0.cache.setFits (s0.cache.setOf r0.line) then waitReq s0 r0
  else
    let s := (dramFinding s0 r0).onCache (fun c => if c.on then c.useSet (c.setOf r0.line) else c)
    let r := { r0 with dram := .ok }
    if s.lineHeld r.line then waitReq s r
    else if r.op.isRead then lookupRead s r
    else if !s.cache.on || !s.cache.wback then lookupThru s r
    else if r.op.isFull then lookupFull s r
    else if r.op.isPartial then lookupPartial s r
    else lookupAcc s r

/-! ## Ingress -/

/-- Map page, 4 KiB of map entries, that covers a page (R245, R249). -/
def mapPageOf (page : Nat) : Nat := page / 1024

/-- Whether two requests of one session overlap: they take effect in their order of arrival (R57). -/
def Req.overlaps (r q : Req) : Bool :=
  match r.who, q.who with
  | .host p n _, .host p' n' _ =>
    p == p' && n == n' && decide (r.addr < q.addr + q.op.bytes) && decide (q.addr < r.addr + r.op.bytes)
  | _, _ => false

/-- Where the rebuild holds a request (R76, R249): 1 with the reads that wait for their range, 2 with the writes that wait for the
end of step 9, or for a range whose restored lines found no room yet (R250); a request also waits behind a held one that it overlaps (R57). 0 where nothing holds it. -/
def State.lambHold (s : State) (r : Req) : Nat :=
  if 11 ≤ s.pers.rebuild then 0
  else if r.op.isRead then
    (if !s.pers.rebuilt.contains (mapPageOf r.page) then 1 else if s.pers.lambWrites.any r.overlaps then 2 else 0)
  else if s.pers.rebuild < 10 || !s.pers.rebuilt.contains (mapPageOf r.page) then 2
  else if s.pers.lambReads.any r.overlaps then 1
  else 0

/-- The tag read, the map entry read and the poison-set read of a lookup are issued together (R174): each stands at the arbiter of its
DRAM channel, but for a set that the tag lookaside holds and a map entry that the map lookaside holds (its entries: DESIGN CHOICE, log 103). -/
def dramReads (s : State) (r : Req) : State :=
  let at_ := fun (t : State) (x : Nat) => arbWant t (0x20 + Config.dramChannel x % s.dramCount) r.label
  let set := s.cache.setOf r.line
  let s1 := if !s.cache.on || s.cache.lookaside.contains set then s else at_ s (2 ^ 37 + set)
  let s2 := if s.maps.lookaside.contains r.page then s1 else at_ s1 (2 ^ 38 + r.page)
  (at_ s2 (2 ^ 39 + r.line)).onMaps (fun m =>
    { m with lookaside := (r.page :: m.lookaside.erase r.page).take Config.mapSide })

/-- The check-slot read of an ACC in READ_ONLY whose line is not resident (R74): it counts the pair's records, and the lane it held is
free once the slot has been transferred. -/
def checkSlotRead (s : State) (r : Req) : State :=
  if r.op.isAcc && s.maps.readOnly && (s.cache.hit r.line).isNone && mapped (s.mapEntry r.page) then
    let ch := s.home r.page
    count (arbWant (houseRead s (s.mapEntry r.page)) (0x40 + ch) (if r.lane then 0x42 else r.label)) 0x08 ch none 1
  else s

/-- A request past the operation table: it asks for the lane (R171); alignment, the waits of Lamb service (R76, R249), the region
lookup, whose attributes it keeps (R48), the lookups. -/
def access (s0 : State) (r0 : Req) : State :=
  let (s, r) := laneTake s0 r0
  if !r.shapeOk then deliver s r Config.BAD_OPERAND 0 false
  else if s.lambHold r = 1 then
    s.onPers (fun p =>
      { p with
        lambReads := p.lambReads ++ [r]
        order := if r.op.isRead then mapPageOf r.page :: p.order.filter (fun m => m != mapPageOf r.page) else p.order })
  else if s.lambHold r = 2 then
    s.onPers (fun p => { p with lambWrites := p.lambWrites ++ [r] })
  else
    let st := if r.looked then Config.OK else s.checkReq r
    let t := checkSlotRead s r
    if st = Config.OK then
      lookup (dramReads (arbWant t 0 r.crossbar) r)
        { r with looked := true, rways := ((s.regionOfPage r.page).map (·.2.ways)).getD 0 }
    else deliver t r st 0 false

/-- Look the waiting requests up again, in arrival order. -/
def retryWaiting (s : State) : State :=
  s.cache.waiting.foldl (fun t r => lookup t r) (s.onCache (fun c => { c with waiting := [] }))

/-- Whether a request came from a host port. -/
def Req.fromHost (r : Req) : Bool :=
  match r.who with
  | .host _ _ _ => true
  | .gone _ => true
  | _ => false

/-- Requests in the operation table: those of the host, of programs and of streams (R28). -/
def State.hostOps (s : State) : Nat :=
  s.cache.waiting.length + s.cache.thru.length + s.cache.thruDone.length + s.pers.lambReads.length + s.pers.lambWrites.length
    + s.cache.fills.foldl (fun a p => a + p.2.reqs.length) 0 + s.maps.moves.foldl (fun a p => a + p.2.thru.length) 0

/-- Media operations of the house sequencers in the operation table: page copies and in-place programs, journal programs, clears
(R28). -/
def State.houseOps (s : State) : Nat :=
  (s.maps.moves.filter (fun p => p.2.stage == 0 && mapped p.2.new)).length + flag s.maps.jbody.isSome + flag s.maps.jseal.isSome
    + (s.medium.chans.filter (fun c => c.clearing.isSome)).length

/-- Whether a request finds an entry of the operation table: all but the 1,024 of the reserve may be its (R28). -/
def State.entryFree (s : State) : Bool :=
  decide (s.hostOps < Config.hostOps) && decide (s.hostOps + s.houseOps < Config.tableOps)

/-- Whether a house sequencer finds an entry for a media operation (R28, R122). -/
def State.houseRoom (s : State) : Bool := decide (s.hostOps + s.houseOps < Config.tableOps)

/-- Credit of a VC goes back 16 flits at a time (R369), none of VC0 while the port withholds it (R28). -/
def Port.giveBack (x : Port) (vc n : Nat) : Port :=
  let k := x.rem.getD vc 0 + n
  if x.vc0Held && vc == 0 then { x with rem := updAt x.rem vc (fun _ => k) }
  else
    { x with
      rem := updAt x.rem vc (fun _ => k % 16)
      returned := updAt x.returned vc (fun v => v + k / 16 * 16) }

/-- Receive buffer of flits freed on a VC (R369). -/
def freeCredit (s : State) (p vc n : Nat) : State := s.updPort p (fun x => x.giveBack vc n)

/-- VC a request arrives on (Table 12-6). -/
def MemOp.vc (op : MemOp) : Nat := if op.isRead then 0 else 1

/-- Flits of a request: header words, and data for a write (Table 12-5; log 9). -/
def MemOp.flits : MemOp → Nat
  | .rd64 => 1
  | .rd256 => 1
  | .wr256 _ => ceilDiv 66 30
  | _ => 1

/-- The flits of a request are freed as it enters the operation table; a request from the hold store gave them back when it
entered that store (R369). -/
def Req.release (r : Req) (s : State) : State :=
  match r.who with
  | .host p _ _ => if r.held then s else freeCredit s p r.op.vc r.op.flits
  | .gone p => if r.held then s else freeCredit s p r.op.vc r.op.flits
  | _ => s

/-- Requests held for an entry enter the operation table in order while one is free; a port with none left returns the VC0 credit it
withheld (R28). -/
def drainPort (s : State) : State :=
  let go := fun (acc : State × List Req) (r : Req) =>
    if acc.2.isEmpty && acc.1.entryFree then
      (access (r.release acc.1) r, [])
    else (acc.1, acc.2 ++ [r])
  let (t, rest) := s.regul.portHeld.foldl go ({ s with regul := { s.regul with portHeld := [] } }, [])
  { t with
    regul := { t.regul with portHeld := rest }
    ports := t.ports.mapIdx (fun i p =>
      Port.giveBack { p with
        vc0Held := rest.any (fun r => match r.who with
          | .host q _ _ => q == i
          | .gone q => q == i
          | _ => false) } 0 0) }

/-- A request past its token bucket takes an operation-table entry or is held for one; a host request is held at its port ingress,
which withholds VC0 credit (R28). The spec says no more of a full table: a program's or a stream's request waits in the same order (DESIGN
CHOICE, log 79). -/
def enterTable (s : State) (r : Req) : State :=
  if s.regul.portHeld.isEmpty && s.entryFree then access (r.release s) r
  else
    let t := { s with regul := { s.regul with portHeld := s.regul.portHeld ++ [r] } }
    match r.who with
    | .host p _ _ => t.updPort p (fun x => { x with vc0Held := true })
    | .gone p => t.updPort p (fun x => { x with vc0Held := true })
    | _ => t

/-- Key of a label's bucket at a master port: ports 0 to 3, engines 4 to 19 (R260). -/
def bucketKey (port label : Nat) : Nat := 64 * port + label

/-- Master port of a request. -/
def Req.master (r : Req) : Nat :=
  match r.who with
  | .host p _ _ => p
  | .eng e _ => 4 + e
  | .post e _ => 4 + e
  | .strm _ _ => 64
  | .gone p => p

/-- Token charge of a request (Table 9-1). -/
def Req.charge (r : Req) : Nat :=
  match r.who with
  | .strm _ _ => 0
  | _ => if r.charged then 0 else r.op.bytes

/-- Whether a bucket of a label passes a charge now, and the state after (R262, R264). -/
def takeTokens (s : State) (master label bytes : Nat) : Option State :=
  match Tbl.find s.regul.buckets (bucketKey master label) with
  | none => some s
  | some b =>
    if b.rate = 0 then some s
    else if 1024 * bytes ≤ b.tokens then
      some { s with
        regul := { s.regul with
          buckets := Tbl.put s.regul.buckets (bucketKey master label) { b with tokens := b.tokens - 1024 * bytes } } }
    else none

/-- Whether a request waits behind one held at a bucket: an earlier one of its label there (R262), or one of its session that it
overlaps (R57). -/
def Req.behind (r h : Req) : Bool := (h.master == r.master && h.label == r.label) || r.overlaps h

/-- A request at its token bucket: it passes, or is held behind earlier held requests (R57, R262, R263). An engine context whose
request is held stalls. -/
def atBucket (s : State) (r : Req) : State :=
  let behind := s.regul.held.any r.behind
  match (if behind then none else takeTokens s r.master r.label r.charge) with
  | some t => enterTable t r
  | none =>
    let t := count s 0x11 r.master none 1
    let t1 := { t with regul := { t.regul with held := t.regul.held ++ [{ r with held := true }] } }
    let t2 := match r.who with
      | .host p _ _ => freeCredit t1 p r.op.vc r.op.flits
      | .eng e c => t1.updCtx e c (fun x => { x with state := 4 })
      | _ => t1
    t2

/-- A memory operation of a program: it runs under the task's label and the privilege of the queue's session (R45, R299); `looked`
says that its region check is made already (R129). -/
def engAccess (s : State) (who : Who) (e c : Nat) (op : MemOp) (addr : Nat) (charged looked : Bool) (dram : Dram) : State :=
  let x := s.ctx e c
  atBucket s { who := who, op := op, addr := addr, label := x.label, sesLabel := s.queueSessLabel x.queue,
               admin := s.queueAdmin x.queue, at0 := s.regul.refTicks, charged := charged, looked := looked, dram := dram }

/-- Flits of a host message have arrived good and in order: the expected SEQ moves on and no NAK stands (R379). -/
def rxFlits (s : State) (p n : Nat) : State :=
  s.updPort p (fun x => { x with rxExp := (x.rxExp + n) % 1024, nakOut := false })

/-- A host memory request arrives (R370, R372): a duplicate tag is discarded, a session that is not open is refused. -/
def hostRequest (s0 : State) (p n tag addr : Nat) (op : MemOp) (dram : Dram) : State :=
  let s := rxFlits s0 p op.flits
  if s0.live && decide (p < s0.portCount) && (s0.port p).up then
    if (s.port p).outTags.contains tag then
      record (freeCredit (s.updPort p (fun x => { x with tagDup := (x.tagDup + 1) % 2 ^ 16 })) p op.vc op.flits)
        (Config.evClass 12 0) p
    else
      let s1 := s.updPort p (fun x => { x with outTags := x.outTags ++ [tag] })
      let x := s.sess p n
      let r : Req := { who := .host p n tag, op := op, addr := addr, label := x.label, sesLabel := x.label,
                       admin := x.admin, at0 := s.regul.refTicks, dram := dram }
      if !x.isOpen then deliver (freeCredit s1 p op.vc op.flits) r Config.DENIED 0 false
      else
        let (s2, r2) := countReq s1 r 0x01 p 1
        let s3 := if op.isRead then s2 else count s2 0x02 p (some x.label) op.bytes
        atBucket s3 r2
  else s0

/-- Requests that a test picks and that have not taken effect are withdrawn; one that waits gives its lane back. -/
def withdraw (s0 : State) (f : Req → Bool) : State :=
  let s := (s0.cache.waiting.filter f).foldl laneFree s0
  let keep := fun (l : List Req) => l.filter (fun r => !f r)
  { s with
    cache := { s.cache with
      waiting := keep s.cache.waiting, thru := keep s.cache.thru
      thruDone := s.cache.thruDone.filter (fun w => !f w.1)
      fills := s.cache.fills.map (fun p => (p.1, { p.2 with reqs := keep p.2.reqs })) }
    maps := { s.maps with moves := s.maps.moves.map (fun p => (p.1, { p.2 with thru := keep p.2.thru })) }
    pers := { s.pers with lambReads := keep s.pers.lambReads, lambWrites := keep s.pers.lambWrites }
    regul := { s.regul with held := keep s.regul.held, portHeld := keep s.regul.portHeld } }

end Sys2Proof.Machine
end

