-- ==== Sys2Proof/Machine/Settle.lean ====
section
/-! DEFINITION. How a fill ends (R53, R65, R117, R126), and what goes on once a fill, a write-back or an invalidation has made room:
fills and written-through lines that wait for a way, waiting and held requests, and the maintenance operations and trims that wait in the
address hazard table (R51, R116, R120, R124, R125, R127, R128, R130). -/

namespace Sys2Proof.Machine

open Sys2Proof

/-- Whether a line lies in a range of host addresses. -/
def inRange (line lo hi : Nat) : Bool := decide (lo ≤ line * 256) && decide (line * 256 < hi)

/-- Whether a range holds a line the medium lacks: dirty in the cache, or in the write-back buffer. -/
def Cache.dirtyIn (c : Cache) (lo hi : Nat) : Bool :=
  c.lines.any (fun p => p.2.dirty && inRange p.1 lo hi) || c.wbb.any (fun p => inRange p.1 lo hi)

/-- Whether a fill in flight lies in a range. -/
def Cache.fillIn (c : Cache) (lo hi : Nat) : Bool := c.fills.any (fun p => inRange p.1 lo hi)

/-- A restored line has sealed, or is discarded (R251, R252). -/
def sealRestored (s : State) (line : Nat) : State :=
  s.onPers (fun p => { p with restoredLines := p.restoredLines.filter (fun l => l != line) })

/-- Writes to a line that have been written through and wait for a way complete without an install: their line is discarded (R51). -/
def completeDone (s : State) (line : Nat) : State :=
  (s.cache.thruDone.filter (fun w => w.1.line == line)).foldl (fun t w => deliver t w.1 Config.OK 0 true)
    (s.onCache (fun c => { c with thruDone := c.thruDone.filter (fun w => w.1.line != line) }))

/-- A line goes from the cache, while it is on, and from the write-back buffer without write-back (R51, R132). -/
def discardLine (s0 : State) (line : Nat) : State :=
  let s := completeDone s0 line
  let t := if s.cache.on then dropLine s line else s
  sealRestored (t.onCache (fun c => { c with wbb := Tbl.del c.wbb line })) line

/-- Whether a trim of a range waits: for a map change of one of its pages, or for a merged line that it then discards (R125, R148). -/
def State.trimHeld (s : State) (lo hi : Nat) : Bool :=
  let inR := fun (page : Nat) => decide (lo ≤ page * 4096) && decide (page * 4096 < hi)
  s.maps.moves.any (fun p => inR p.1 && (p.2.kind == .trim || p.2.kind == .poison)) || s.maps.waitMoves.any (fun p => inR p.1)
    || s.cache.fills.any (fun p => p.2.trimmed && inR (p.1 / 16))

/-- Lines of a range leave the cache without write-back. -/
def dropRange (s : State) (f : Nat → CLine → Bool) : State :=
  (s.cache.lines.filter (fun p => f p.1 p.2)).foldl (fun t p => dropLine t p.1) s

/-- CACHE.INVAL acts on a range with no fill in flight (R125, R128): DIRTY where a dirty line stands and FORCE is not set;
else every line goes, dirty ones counted and recorded. -/
def finishInval (s : State) (e c lo hi : Nat) (all force : Bool) : State :=
  let n := (s.cache.lines.filter (fun p => p.2.dirty && inRange p.1 lo hi)).length
  if 0 < n ∧ force = false then complete s e c Config.DIRTY 0
  else
    let s1 := dropRange s (fun l _ => inRange l lo hi)
    let s2 := if 0 < n then
        record (s1.onCache (fun x => { x with discards := (x.discards + n) % 2 ^ 32 })) (Config.evClass 4 2) e
      else s1
    complete (s2.onCache (fun x => { x with invalAll := x.invalAll || all })) e c Config.OK 0

/-- CACHE.CLEAN or CACHE.FLUSH has nothing left to write back in its range (R124, R127). -/
def finishClean (s : State) (e c lo hi : Nat) (inval : Bool) : State :=
  let s1 := if inval && s.cache.on then dropRange s (fun l x => !x.dirty && inRange l lo hi) else s
  complete s1 e c Config.OK 0

/-- A CACHE.WAYS that removed ways has written them back (R116); while the cache is off no line is invalidated (R132). -/
def finishWays (s : State) (e c n : Nat) (masks : List (BitVec 16)) : State :=
  let s1 := if s.cache.on then dropRange s (fun _ x => decide (n ≤ x.way)) else s
  complete (s1.onCache (fun x => { x with masks := masks })) e c Config.OK 0

/-- One waiting maintenance operation goes on where nothing holds it any longer. -/
def maintainOne (s : State) (k : Nat) : State :=
  let e := k / 32
  let c := k % 32
  let x := s.ctx e c
  if x.state ≠ 3 then s
  else
    match x.wait with
    | .clean lo hi inval =>
      if s.cache.dirtyIn lo hi || s.cache.fillIn lo hi then s else finishClean s e c lo hi inval
    | .inval lo hi all force => if s.cache.fillIn lo hi then s else finishInval s e c lo hi all force
    | .ways n masks =>
      if s.cache.lines.any (fun p => decide (n ≤ p.2.way) && p.2.dirty) then s else finishWays s e c n masks
    | .trim lo hi => if s.trimHeld lo hi then s else complete s e c Config.OK 0
    | .cacheOff => if s.cache.fills.any (fun p => p.2.doomed) then s else complete s e c Config.OK 0
    | _ => s

/-- Every waiting maintenance operation. -/
def maintain (s : State) : State :=
  (s.waiters (fun w => match w with
    | .clean _ _ _ => true
    | .inval _ _ _ _ => true
    | .ways _ _ => true
    | .cacheOff => true
    | .trim _ _ => true
    | _ => false)).foldl maintainOne s

/-! ## The end of a fill -/

/-- Serve the requests of a good fill in arrival order (R126): reads take the current value, the first write installs the
merged line dirty; behind a write that goes through, the rest are looked up again (R57). The second part holds the requests left where a
dirty line found no room (R120, R122). -/
def serveGood (s : State) (line : Nat) (f : Fill) : State × List Req :=
  let (t, _, left, _) := f.reqs.foldl (fun (acc : State × Line × List Req × Bool) r =>
    let (t, v, left, thru) := acc
    if !left.isEmpty then (t, v, left ++ [r], thru)
    else if thru then (lookup t r, v, [], true)
    else if r.op.isRead then (deliver t r Config.OK v true, v, [], false)
    else if !t.cache.on || !t.cache.wback then
      ((laneFree t r).onCache (fun c => { c with thru := c.thru ++ [{ r with lane := false }] }), v, [], true)
    else
      let v1 := r.op.merge r.addr v
      match install t line v1 true false false r.rways r.label with
      | some u => (deliver u r Config.OK 0 true, v1, [], false)
      | none => (t, v, [r], false)) (s, f.value (s.cache.delta line), [], false)
  (t, left)

/-- Serve the requests of a fill that found no good line (R53, R65): the first read of an uncorrectable line completes with
UNCORRECTABLE, what follows with POISON. A full-line write goes on, and so does an ACC over a line whose MAC failed, which reads nothing
(R33); what follows them is looked up again (R57). -/
def serveBad (s : State) (f : Fill) (st : Nat) : State :=
  (f.reqs.foldl (fun (acc : State × Nat × Bool) r =>
    let (t, now, again) := acc
    let later := if now = Config.UNCORRECTABLE then Config.POISON else now
    if again || r.op.isFull || (r.op.isAcc && st == Config.INTEGRITY) then (lookup t r, later, true)
    else if r.op.isRead then (deliver t r now 0 true, later, false)
    else (deliver t r later 0 true, later, false)) (s, st, false)).1

/-- A fill whose outcome stands completes (R117, R126): the merged line that a discard waited for goes (R125). A line that would
displace a dirty one while the write-back buffer is full waits with its requests (R120). -/
def fillFinish (s : State) (line : Nat) : State :=
  match Tbl.find s.cache.fills line with
  | none => s
  | some f =>
    match f.res with
    | none => s
    | some st =>
      let s0 := s.onCache (fun c => { c with fills := Tbl.del c.fills line })
      if st ≠ Config.OK then serveBad s0 f st
      else if f.bad (s.cache.deltaBad line) then serveBad s0 f Config.POISON
      else
        let label := (f.reqs.head?.map (·.label)).getD 0
        let ways := (f.reqs.head?.map (·.rways)).getD 0
        let clean := s.cache.on && !f.doomed && !f.merge && !Tbl.has s.cache.lines line
        if clean && s.cache.crowded line ways label then
          s.onCache (fun c => { c with fills := Tbl.put c.fills line { f with waits := true } })
        else
          let s1 := if clean then installClean s0 line (f.value (s.cache.delta line)) ways label else s0
          let (s2, left) := serveGood s1 line f
          if left.isEmpty then (if f.trimmed then discardLine s2 line else s2)
          else s2.onCache (fun c => { c with fills := Tbl.put c.fills line { f with reqs := left, waits := true } })

/-- Fills that wait for a way or for the dirty budget go on (R120, R122). -/
def retryFills (s : State) : State :=
  (s.cache.fills.filter (fun p => p.2.waits)).foldl (fun t p => fillFinish t p.1) s

/-- A line written through is installed clean where it finds a way, and its write completes; else it waits (R120, R123). A line that is
dirty again by then keeps its newer content. -/
def installThru (s : State) (r : Req) (full : Line) : State :=
  let dirty := match Tbl.find s.cache.lines r.line with
    | some x => x.dirty
    | none => false
  if !s.cache.on || dirty then deliver s r Config.OK 0 true
  else if s.cache.crowded r.line r.rways r.label then s.onCache (fun c => { c with thruDone := c.thruDone ++ [(r, full)] })
  else deliver (installClean s r.line full r.rways r.label) r Config.OK 0 true

/-- Lines written through that wait for a way go on (R120). -/
def retryThru (s : State) : State :=
  s.cache.thruDone.foldl (fun t w => installThru t w.1 w.2) (s.onCache (fun c => { c with thruDone := [] }))

/-- Requests and maintenance operations go on after something they may wait for has changed. -/
def settle (s : State) : State := maintain (drainPort (retryWaiting (retryThru (retryFills s))))

end Sys2Proof.Machine
end

