-- ==== Sys2Proof/Machine/Wear.lean ====
section
/-! DEFINITION. The pools of a channel over time: set-asides and the staging target (R150, R162), READ_ONLY (R71, R167,
R169), the frames that come free, wear and its tree (R217 to R224), the retirement of a frame (R142, R225). -/

namespace Sys2Proof.Machine

open Sys2Proof

/-! ## Charges and targets -/

/-- Capacity charge factor of a region in 1/32 (Table 2-3). -/
def chargeFactor (r : Region) : Nat :=
  if r.mono then 192
  else if r.density = 0 then (if r.integ then 99 else 96)
  else (if r.integ then 33 else 32)

/-- Capacity charge of a region in 1/32 byte (R44). -/
def charge (r : Region) : Nat := r.size * chargeFactor r

/-- Pages of a region whose home channel is c (R139). -/
def State.homePages (s : State) (r : Region) (c : Nat) : Nat :=
  let b := r.base / 4096
  let n := r.size / 4096
  (List.range 4096).foldl (fun a i =>
    if s.medium.chanTable.getD i 0 = c then a + (b + n + 4095 - i) / 4096 - (b + 4095 - i) / 4096 else a) 0

/-- K_c of R162 as a fraction: charges in frames of 768 KiB. -/
def State.kcOf (s : State) (c : Nat) : Nat × Nat :=
  (s.maps.regions.foldl (fun a p => a + chargeFactor p.2 * s.homePages p.2 c) 0, 6144)

/-- RESERVE frames of a channel for a budget in lines (Table 5-3): none at HOLD 0. -/
def reserveFrames (hold budget m : Nat) : Nat :=
  if hold = 0 then 0 else ceilDiv (ceilDiv (budget + 16384) 1024 + 256) m

/-- X_c: the set-asides of a channel but the staging floor (R150). -/
def State.setAside (s : State) (c : Nat) : Nat :=
  let x := s.chan c
  x.reserve.length + x.journal + x.system + Config.fLo

/-- Pages per frame at a region's final density (R150). -/
def finalPages (r : Region) : Nat :=
  if r.mono then 32 else if r.density = 0 then (if r.integ then 62 else 64) else (if r.integ then 186 else 192)

/-- D_c: frames that the mapped pages of a channel would fill at their final density (R150). The spec gives no rounding: the frames are
rounded up region by region, though pages of several regions share frames of one layout (DESIGN CHOICE, log 81). -/
def State.finalFrames (s : State) (c : Nat) : Nat :=
  s.maps.regions.foldl (fun a p =>
    let n := (s.maps.map.filter (fun e => mapped e.2 && decide (p.2.base ≤ e.1 * 4096)
      && decide (e.1 * 4096 < p.2.base + p.2.size) && s.home e.1 == c)).length
    a + ceilDiv n (finalPages p.2)) 0

/-- Recompute the staging target and K_c of a channel (R150, R162). -/
def recomputeChan (s : State) (c : Nat) : State :=
  let n := (s.chan c).inService
  let x := s.setAside c
  let d := s.finalFrames c
  s.updChan c (fun y => { y with stagingTarget := max 32 (min (n / 16) ((n - x - d) / 4)), kc := s.kcOf c })

/-- Recompute the staging target and K_c of every enabled channel (R150, R162). -/
def recompute (s : State) : State := (List.range s.chanCount).foldl recomputeChan s

/-! ## READ_ONLY (R71, R167, R169) -/

/-- Live fraction of a frame: LIVE and its page positions. -/
def Frame.fill (f : Frame) : Nat × Nat := (f.live, positions f.mode f.integ)

/-- Whether a frame may be a reclaim victim (R158): FULL, and no copy out of it in flight. -/
def State.candidate (s : State) (ch fx : Nat) (f : Frame) : Bool :=
  f.ch == ch && f.state == 3 && !s.maps.moves.any (fun p => mapped p.2.old && fxOf p.2.old == fx && p.2.old != p.2.new
    && p.2.kind != .trim && p.2.kind != .drop && p.2.kind != .poison)

/-- The victim of R158: the lowest ratio of LIVE to page positions, then the lowest ORDER modulo 2^22. -/
def State.victimOf (s : State) (ch : Nat) : Option Nat :=
  let better := fun (a b : Nat × Frame) =>
    let x := a.2.live * b.2.fill.2
    let y := b.2.live * a.2.fill.2
    decide (x < y) || (x == y && decide ((b.2.order + 2 ^ 22 - a.2.order) % 2 ^ 22 < 2 ^ 21) && a.2.order != b.2.order)
  ((s.medium.frames.filter (fun p => s.candidate ch p.1 p.2)).foldl (fun (b : Option (Nat × Frame)) p => match b with
    | none => some p
    | some q => if better p q then some p else some q) none).map (·.1)

/-- Whether a channel has run out: no free stock, no victim with a stale page, no spare (R167). -/
def State.outOfFrames (s : State) (ch : Nat) : Bool :=
  let c := s.chan ch
  c.stock == 0 && c.spareList.isEmpty && c.victim.isNone
    && (match s.victimOf ch with
        | none => true
        | some fx => decide ((s.frame fx).fill.2 ≤ (s.frame fx).live))

/-- Enter READ_ONLY where a channel has run out (R71, R167). -/
def roEnter (s : State) : State :=
  if !s.maps.readOnly && (List.range s.chanCount).any (fun c => decide (0 < (s.chan c).count) && s.outOfFrames c) then
    irq (notifyDevice ((List.range 16).foldl (fun t c => t.updChan c (fun x => { x with yielded := false })) (s.onMaps (fun m => { m with readOnly := true }))) Config.READ_ONLY 0 true) 1
  else s

/-- Leave READ_ONLY where every enabled channel holds 2 × F_LO frames (R169). -/
def roExit (s : State) : State :=
  if s.maps.readOnly && (List.range s.chanCount).all (fun c => decide (2 * Config.fLo ≤ (s.chan c).stock)) then
    irq (notifyDevice (s.onMaps (fun m => { m with readOnly := false })) Config.OK 0 true) 2
  else s

/-! ## Wear (R217) -/

/-- FULL frames of a class on a channel: class T was last cleared in T-mode. -/
def State.classFrames (s : State) (ch : Nat) (t : Bool) : List (Nat × Frame) :=
  s.medium.frames.filter (fun p => p.2.ch == ch && p.2.state == 3 && (p.2.mode == 2) == t)

/-- Clears that a class is measured in, by the group record (R217, R221). -/
def State.clearsOf (s : State) (fx : Nat) (t : Bool) : Nat :=
  let g := Tbl.getD (s.chan (s.chanOfFx fx)).groups fx (0, 0)
  if t then g.2 else g.1

/-- Smallest and largest count of a class: the fields of the tree's root (Table 7-5). -/
def State.classRange (s : State) (ch : Nat) (t : Bool) : Nat × Nat :=
  let n := (s.chan ch).node 1
  if t then (n.iminT, n.imaxT) else (n.iminS, n.imaxS)

/-- A sample of a quantity that the model does not time (log 8): a free value, n times. -/
def sampleFree (s : State) (h n : Nat) : State :=
  (List.range n).foldl (fun t _ => sample (t.burn 1) h t.freeVal) s

/-! ## Frames that come free -/

/-- Live pages of a frame: those whose map entry names it (R159). -/
def State.livePages (s : State) (fx : Nat) : List Nat :=
  (s.medium.pages.filter (fun p => fxOf p.1 == fx && s.mapEntry p.2.page == p.1)).map (fun p => p.2.page)

/-- Whether a frame is under a frame move of HS2 or HS3 (chapter 7): a static move, the move of a patched or an aged frame, or the
move before a retirement. -/
def State.moving (s : State) (fx : Nat) : Bool :=
  let c := s.chan (s.frame fx).ch
  c.static == some fx || c.moves.contains fx || s.medium.retireDue.contains fx
    || c.patches.any (fun p => fxOf p.ppn == fx && p.moving)

/-- Whether a copy into a frame is neither sealed nor abandoned. -/
def State.copiesInto (s : State) (fx : Nat) : Bool := s.maps.moves.any (fun p => mapped p.2.new && fxOf p.2.new == fx)

/-- A frame whose last live page is gone, and into which no copy is on its way, becomes FREE at the tail of the free pool (R159), unless
it is due to retire or holds a slot of the patch table, whose repair check decides (R208). A frame move ends here and counts once
(R231). In READ_ONLY the channel's write-backs may take a frame again (R168), and the state is left where every channel holds enough
(R169). -/
def freeFrame (s : State) (fx : Nat) : State :=
  let f := s.frame fx
  let c := s.chan f.ch
  if (f.state = 3 ∨ f.state = 4) ∧ f.live = 0 ∧ s.copiesInto fx = false then
    let s1 := s.putFrame fx { f with state := 0, staged := false, order := c.order }
    roExit (treeUpdate (s1.updChan f.ch (fun c =>
      { c with
        yielded := s.maps.readOnly || c.yielded
        order := (c.order + 1) % 2 ^ 22
        victim := if c.victim = some fx then none else c.victim
        static := if c.static = some fx then none else c.static
        moves := c.moves.filter (fun x => x != fx)
        relocations := if s.moving fx then (c.relocations + 1) % 2 ^ 32 else c.relocations
        free := if s.medium.retireDue.contains fx || c.patches.any (fun p => fxOf p.ppn == fx) then c.free
          else c.free ++ [fx] })) fx)
  else s

/-- A loss of capability is reported to HS6 (R286), and the staging targets are taken afresh (R150). -/
def loseCapability (s : State) : State := recompute { s with regul := { s.regul with losses := s.regul.losses + 1 } }

/-- A frame without live pages retires (R142, R225): it joins the retired list, and its index takes a spare of the channel
or is lost. The spec does not say which spare: the model takes the lowest die, plane and frame (DESIGN CHOICE, log 82). A MEDIA.RETIRE that
waits for the frame completes (R226). -/
def retireFrame (s : State) (fx : Nat) : State :=
  let f := s.frame fx
  let c := s.chan f.ch
  let s0 := s.onMedium (fun m =>
    { m with
      retireDue := m.retireDue.filter (fun x => x != fx), patterns := Tbl.del m.patterns fx
      pages := m.pages.filter (fun p => fxOf p.1 != fx), sysPages := m.sysPages.filter (fun p => fxOf p.1 != fx) })
  let s1 := s0.updChan f.ch (fun c =>
    { c with
      retired := c.retired ++ [(f.die, f.plane, f.frame)], free := c.free.filter (fun x => x != fx)
      cleared := c.cleared.filter (fun x => x != fx), opens := c.opens.filter (fun p => p.2 != fx)
      patches := c.patches.filter (fun p => fxOf p.ppn != fx), moves := c.moves.filter (fun x => x != fx)
      victim := if c.victim = some fx then none else c.victim
      static := if c.static = some fx then none else c.static
      clearing := match c.clearing with
        | some (x, m) => if x = fx then none else some (x, m)
        | none => none
      worn := c.worn.filter (fun x => x != fx), groups := Tbl.del c.groups fx })
  let done := fun (t : State) => resumeAll (roEnter (treeUpdate t fx)) (fun w => w == .retire fx) Config.OK 0
  match c.spareList with
  | (d, p, k) :: rest =>
    let s2 := s1.putFrame fx { f with
      die := d, plane := p, frame := k, state := if c.journalFrames.contains fx then 6 else 0, mode := 0, live := 0, staged := false, integ := false, next := 0,
      sClears := 0, tClears := 0, stamp := 0, pins := 0, order := c.order, hurt := [], tags := [] }
    done (s2.updChan f.ch (fun c =>
      { c with
        spareList := rest, spares := c.spares - 1, order := (c.order + 1) % 2 ^ 22
        free := if c.journalFrames.contains fx then c.free else c.free ++ [fx]
        jdirty := if c.journalFrames.contains fx && !c.jdirty.contains fx then c.jdirty ++ [fx] else c.jdirty }))
  | [] =>
    let s2 := s1.putFrame fx { f with bound := false, state := 0, live := 0, staged := false, pins := 0 }
    done (loseCapability (s2.updChan f.ch (fun c => { c with inService := c.inService - 1 })))

end Sys2Proof.Machine
end

