-- ==== Sys2Proof/Machine/WriteBack.lean ====
section
/-! DEFINITION. Write-back of a page by HS1: what makes one due, the snapshot, the gather, in-place programs of monotone
pairs, the programmed copy (R88, R122, R144 to R153, R163 to R168, R422, R430). -/

namespace Sys2Proof.Machine

open Sys2Proof

/-! ## When a write-back is due -/

/-- The dirty line that HS1's set cursor reaches next: the one of highest AGE in the next set that holds one (R122). -/
def Cache.cursorLine (c : Cache) : Option (Nat × CLine) :=
  let n := max 1 c.sets
  let ahead := fun (p : Nat × CLine) => (p.2.set + n - c.cursor % n) % n
  (c.lines.filter (fun p => p.2.dirty)).foldl (fun b p => match b with
    | none => some p
    | some q =>
      if ahead p < ahead q ∨ (ahead p = ahead q ∧ p.2.used < q.2.used) then some p else some q) none

/-- Whether a page is under a waiting CACHE.CLEAN, CACHE.FLUSH or CACHE.WAYS. -/
def State.wantedClean (s : State) (page : Nat) : Bool :=
  !(s.waiters (fun w => match w with
    | .clean lo hi _ => decide (lo < (page + 1) * 4096) && decide (page * 4096 < hi)
    | .ways n _ => s.cache.lines.any (fun p => p.1 / 16 == page && p.2.dirty && decide (n ≤ p.2.way))
    | _ => false)).isEmpty

/-- Whether HS1 may write a page back now: more than half the budget is dirty and the cursor reaches the page; a victim's
copy waits in the buffer; a write is to be written through; a maintenance operation asks for it; a restored line or a
line found bad in DRAM stands on it (R113, R119, R122, R123, R127, R251). -/
def State.wbDue (s : State) (page : Nat) : Bool :=
  let c := s.cache
  c.wbb.any (fun p => p.1 / 16 == page) || c.thru.any (fun r => r.page == page) || s.wantedClean page
    || c.lines.any (fun p => p.1 / 16 == page && p.2.dirty && (p.2.poison || p.2.restored))
    || (decide (c.budget < 2 * c.dirty) && (match c.cursorLine with
        | some p => p.1 / 16 == page
        | none => false))

/-! ## Snapshot and gather -/

/-- What the snapshot holds of a line: its dirty content in the cache and the buffer (R144), whether it is an OR delta, and
whether it is poisoned. -/
def Cache.snapLine (c : Cache) (line : Nat) : Option (Line × Bool × Bool) :=
  let dirty := match Tbl.find c.lines line with
    | some x => if x.dirty then some x else none
    | none => none
  match dirty, Tbl.find c.wbb line with
  | some x, some w => if x.delta then some (w.data ||| x.data, w.delta, w.poison) else some (x.data, false, x.poison)
  | some x, none => some (x.data, x.delta, x.poison)
  | none, some w => some (w.data, w.delta, w.poison)
  | none, none => none

/-- A MAC fails: counted and recorded (R431). -/
def macFail (s : State) (page : Nat) : State :=
  let s1 := record s (Config.evClass 14 2) (page % 2 ^ 32)
  { s1 with keys := { s1.keys with macfails := (s1.keys.macfails + 1) % 2 ^ 32 } }

/-- The stored content of a line of a page for a gather (R145, R146): the state after the read, the value and a status. -/
def gatherStored (s : State) (page j : Nat) (found : List (Nat × Decoded)) : State × Line × Nat :=
  let line := 16 * page + j
  let e := s.mapEntry page
  match s.known line with
  | some (st, d, _) => (s, d, st)
  | none =>
    let (s1, x) := slotRead s line e found
    match x, s1.plainAt line e with
    | .good b n, some (d, p) => (noteDecode s1 line e b n, d, if p then Config.POISON else Config.OK)
    | .mac, some _ => (macFail s1 page, 0, Config.INTEGRITY)
    | _, _ => (poisonLine s1 line, 0, Config.POISON)

/-- The content of a line for a write-back (R144, R145), an orphan being no content: the state, its value, its status, what the
snapshot holds. -/
def gatherLine (s : State) (page j : Nat) (found : List (Nat × Decoded)) : State × Line × Nat × Option (Line × Bool) :=
  let line := 16 * page + j
  let stored :=
    let (t, v, st) := gatherStored s page j found
    (t, v, st, none)
  let stOf := fun (bad : Bool) => if bad then Config.POISON else Config.OK
  match s.cache.snapLine line with
  | some (d, delta, poison) =>
    if delta then
      let (t, v, st) := gatherStored s page j found
      (t, if st = Config.OK then v ||| d else 0, if st = Config.OK then stOf poison else st, some (d, true))
    else (s, d, stOf poison, some (d, false))
  | none =>
    match s.cache.hit line with
    | some x =>
      if x.orphan then stored
      else (s, x.data, stOf x.poison, none)
    | none => stored

/-- What a gather has found: its state, the lines with their POISON flags, the snapshot, the writes it writes through, the lines whose
MAC failed. -/
structure Gather where
  s : State
  lines : List (Line × Bool) := []
  snap : List Snap := []
  thru : List Req := []
  macs : List Nat := []

/-- Apply the writes waiting to be written through to a gathered line, in order (R123): a partial write or an ACC over a
poisoned line completes with POISON, a partial write over a line whose MAC failed with INTEGRITY, and neither changes anything
(R65, R70). -/
def thruLine (g : Gather) (line : Nat) (v : Line) (st : Nat) : Gather × Line × Nat × Bool :=
  (g.s.cache.thru.filter (fun r => r.line == line)).foldl (fun (acc : Gather × Line × Nat × Bool) r =>
    let (g, d, st, any) := acc
    let t := g.s.onCache (fun c => { c with thru := c.thru.erase r })
    if st ≠ Config.OK ∧ r.op.isFull = false then ({ g with s := deliver t r st 0 false }, d, st, any)
    else ({ g with s := t, thru := g.thru ++ [r] }, r.op.merge r.addr d, Config.OK, true)) (g, v, st, false)

/-- Gather the 16 lines of a page. -/
def gatherPage (s : State) (page : Nat) (found : List (Nat × Decoded)) : Gather :=
  (List.range 16).foldl (fun (g : Gather) j =>
    let line := 16 * page + j
    let (t, v, st, d) := gatherLine g.s page j found
    let (g1, v2, st2, thru) := thruLine { g with s := t } line v st
    { g1 with
      lines := g1.lines ++ [(v2, st2 != Config.OK)]
      snap := match d with
        | some (x, delta) => g1.snap ++ [⟨line, x, delta⟩]
        | none => if thru then g1.snap ++ [⟨line, v2, false⟩] else g1.snap
      macs := if st2 = Config.INTEGRITY then g1.macs ++ [line] else g1.macs }) { s := s }

/-- Whether the gather of a page reads the medium. -/
def State.gathersMedia (s : State) (page : Nat) : Bool :=
  mapped (s.mapEntry page) && (List.range 16).any (fun j =>
    let line := 16 * page + j
    (s.cache.full line).isNone && (s.known line).isNone)

/-- Lines of a page that device DRAM has lost, found as HS1 reads them: a dirty one is written back with POISON and recorded, a clean one is
no copy any more (R113). -/
def dramLost (s : State) (lines : List Nat) : State :=
  lines.foldl (fun t line =>
    match Tbl.find t.cache.lines line with
    | none => t
    | some x =>
      if x.dirty then
        record (t.onCache (fun c => { c with lines := Tbl.upd c.lines line (fun x => { x with poison := true }) }))
          (Config.evClass 4 1) (line / 16 % 2 ^ 32)
      else if t.cache.on then dropLine t line else t) s

/-! ## Starting a write-back -/

/-- Buffer copies of a page (R119). -/
def Cache.bufOf (c : Cache) (page : Nat) : List (Nat × Line) :=
  (c.wbb.filter (fun p => p.1 / 16 == page)).map (fun p => (p.1, p.2.data))

/-- The key a page's next copy is written under: the region's, or the new one for a page a re-key has passed (R434). -/
def State.writeKey (s : State) (page idx : Nat) (r : Region) : Nat :=
  match s.keys.rekey with
  | some k => if k.region = idx ∧ page * 4096 < k.lo then k.new else r.key
  | none => r.key

/-- Whether a page stands in the batch of a re-key, whose rewrite is its map change (R433). -/
def State.inBatch (s : State) (page : Nat) : Bool :=
  match s.keys.rekey with
  | some k => decide (k.lo ≤ page * 4096) && decide (page * 4096 < k.hi) && (s.rgnIndex page == k.region)
  | none => false

/-- Whether a page stands in a region that a re-key moves: HS1 makes no ordinary write-back of it (R432). -/
def State.rekeying (s : State) (page : Nat) : Bool :=
  match s.keys.rekey with
  | some k => ((s.regionOfPage page).map (·.1)) == some k.region
  | none => false

/-- Whether the due lines of a mapped monotone page can all be programmed in place (R164, R165, R251); a line of the poison set
has no content to program over (R178), and a frame that is due to retire takes no program (R225). -/
def State.inPlace (s : State) (ppn : Nat) (p : PageImg) (ls : List (Line × Bool)) (due : List Nat) : Bool :=
  !s.medium.retireDue.contains (fxOf ppn)
  && due.all (fun line =>
    match p.lines[line % 16]?, ls[line % 16]? with
    | some i, some (d, bad) =>
      !i.torn p (line % 16) && decide (i.records < 8) && !bad && !i.poison && !s.inPoisonSet line && (i.plain &&& ~~~d) == 0
    | _, _ => false)

/-- The image of a page's new copy (R147). -/
def State.newImage (s : State) (page version key : Nat) (r : Region) (ls : List (Line × Bool)) : PageImg :=
  { page := page, version := version, mono := r.mono, integ := r.integ,
    lines := ls.mapIdx (fun j l => s.encipher (16 * page + j) version key r.mono l.1 l.2) }

/-- The transfers of house work on a page of a region stand at the arbiter of its channel under the region's label (R46); above 90 % of
the dirty budget, or below F_LO, they stand in front, as HS1's share of the slots (R122, R157). -/
def chargeRegion (s : State) (page n : Nat) : State :=
  let ch := s.home page
  let label := ((s.regionOfPage page).map (·.2.label)).getD 0
  let urgent := decide (9 * s.cache.budget < 10 * s.cache.dirty) || decide ((s.chan ch).stock < Config.fLo)
  (List.range n).foldl (fun t _ => arbWant t (0x40 + ch) (if urgent then 0x41 else label)) s

/-- Whether media bandwidth of a channel is owned by no commitment: an entry of its live slot table (R151, R275). -/
def State.unowned (s : State) (ch : Nat) : Bool := (s.slotsOf ch).live.any (fun x => x == 0xFF)

/-- Whether the reclaim floor stands against a write-back: F_LO frames or fewer are left, and reclaim has a victim with a stale page to
spend them on (Table 5-3). Where it has none, or in READ_ONLY has yielded a frame (R168), the write-back takes a frame of the floor, so that
a channel can run out as R167 says (DESIGN CHOICE, log 88). -/
def State.floorHolds (s : State) (ch : Nat) : Bool :=
  let c := s.chan ch
  decide (c.stock ≤ Config.fLo) && !(s.maps.readOnly && c.yielded)
    && (match (c.victim <|> s.victimOf ch) with
        | some fx => decide ((s.frame fx).live < (s.frame fx).fill.2)
        | none => false)

/-- A page position for a write-back: of an open frame, or of one that is opened above the reclaim floor (R140, R157). -/
def allocAbove (s : State) (ch u : Nat) : Option (Nat × Nat × State) :=
  if !Tbl.has (s.chan ch).opens u && s.floorHolds ch then none else allocUse s ch u

/-- The open frame that takes a write-back of a page of a region (Table 5-4): monotone, S region; for a T or AUTO page the staging frame
while it is below ST_c and unowned bandwidth can migrate the page later (R151), else the T write frame. A write-through goes to an S-mode
frame (R153). -/
def allocWrite (s : State) (ch : Nat) (r : Region) (thru : Bool) : Option (Nat × Nat × State) :=
  let stage := thru || (decide (s.stagedFrames ch < (s.chan ch).stagingTarget) && s.unowned ch)
  if r.mono then allocAbove s ch 10
  else if r.density = 0 then allocAbove s ch (if r.integ then 3 else 2)
  else if stage then
    (if r.integ then allocAbove s ch 1
     else if s.floorHolds ch then
       (stageOrder (s.chan ch).stageDie).findSome? (fun d => if Tbl.has (s.chan ch).opens (16 + d) then allocUse s ch (16 + d) else none)
     else allocStage s ch)
  else allocAbove s ch (if r.integ then 5 else 4)

/-- Whether HS1 may make a copy of a page now: always outside READ_ONLY, in it where reclaim has yielded a frame on the channel
(R168). -/
def State.copyMay (s : State) (ch : Nat) : Bool := !s.maps.readOnly || (s.chan ch).yielded

/-- Copy a gathered page into an open frame under its next version; nothing starts where a frame or a version is lacking (R168, R425). -/
def startCopy (s : State) (g : Gather) (page idx : Nat) (r : Region) : State :=
  let t := g.macs.foldl poisonLine g.s
  let key := t.writeKey page idx r
  let thru := !g.thru.isEmpty
  match t.nextVersion page key with
  | none => s
  | some v =>
    if !t.copyMay (t.home page) then s
    else
      match allocWrite t (t.home page) r thru with
      | none => s
      | some (ppn, use, t1) =>
        let t2 := chargeRegion (issueVersion t1 key v) page 1
        (count t2 0x18 0x3F none 16).onMaps (fun m =>
          { m with
            moves := Tbl.put m.moves page
              ⟨if thru then .writeThru else .writeBack, t.mapEntry page, ppn, g.snap, t2.newImage page v key r g.lines, 0,
                t.cache.bufOf page, g.thru, use, []⟩ })

/-- Program the due lines of a gathered monotone page in place (R164). -/
def startInPlace (g : Gather) (page : Nat) (img : PageImg) : State :=
  let t := chargeRegion g.s page 1
  let due := g.snap.map (·.line)
  (count t 0x18 0x3F none due.length).onMaps (fun m =>
    { m with
      moves := Tbl.put m.moves page
        ⟨.writeBack, t.mapEntry page, t.mapEntry page, g.snap,
          { img with lines := img.lines.mapIdx (fun j i =>
              if due.contains (16 * page + j) then i.program (g.lines.getD j (0, false)).1 else i) }, 0,
          t.cache.bufOf page, [], 10, []⟩ })

/-- HS1's set cursor moves past the set whose line a write-back takes (R122). -/
def moveCursor (s : State) (page : Nat) : State :=
  match s.cache.cursorLine with
  | some p => if p.1 / 16 = page then s.onCache (fun c => { c with cursor := (p.2.set + 1) % max 1 c.sets }) else s
  | none => s

/-- HS1 starts the write-back of a page: in place where a monotone pair takes another program and nothing is written through
(R153, R164), else into an open frame under a new version. Nothing starts while a patch entry holds a slot of a due monotone line
(R207). -/
def rewritePage (s : State) (page : Nat) (found : List (Nat × Decoded)) (force : Bool) : State :=
  match s.regionOfPage page with
  | none => s
  | some (idx, r) =>
    let e := s.mapEntry page
    let restored := (List.range 16).any (fun j => s.pers.restoredLines.contains (16 * page + j))
    let media := s.gathersMedia page
    if media && !s.mayRead e then s
    else
      let g0 := gatherPage (if media then houseRead (chargeRegion s page 1) e else s) page found
      if g0.snap.isEmpty && !force then g0.s
      else if r.mono && g0.snap.any (fun p => (s.patchOf page e (p.line % 16)).isSome) then s
      else
        let g := { g0 with s := moveCursor g0.s page }
        match s.stored page with
        | some img =>
          if r.mono && !restored && !force && g.thru.isEmpty && s.inPlace e img g.lines (g.snap.map (·.line)) then
            startInPlace g page img
          else startCopy s g page idx r
        | none => startCopy s g page idx r

/-- WRITE_BACK_START of a page (R122): nothing starts while a map change of the page is in flight, while its region is under a re-key,
while its map entry awaits recovery, or while no entry of the operation table or no cipher pipeline is left. -/
def writeBackStart (s : State) (page : Nat) (found : List (Nat × Decoded)) (dramBad : List Nat) : State :=
  if s.live && s.wbDue page && !s.changing page && !s.rekeying page && !s.blockedMap page && s.pipesLeft && s.houseRoom then
    rewritePage (dramLost s (dramBad.filter (fun l => l / 16 == page))) page found false
  else s

/-- WRITE_BACK_START (R122). -/
def execWriteBackStart (page : Nat) (found : List (Nat × Decoded)) (dramBad : List Nat) (s : State) : Out :=
  .next (writeBackStart s page found dramBad)

/-! ## Cleaning -/

/-- A snapshot line has reached the medium: it becomes clean where its content is still the snapshot's, a cached delta turning
into the full line; the buffer copy is released (R145, R149); a fill in flight keeps the delta (R68). A line that a full-line write has
replaced since the snapshot of its delta is no delta any more and stays dirty (R144). -/
def cleanLine (s : State) (p : Snap) (full : Line) (poison : Bool) (buf : List (Nat × Line)) : State :=
  let s1 := s.onCache (fun c =>
    { c with
      fills := Tbl.upd c.fills p.line (fun f => f.fold (c.delta p.line) (c.deltaBad p.line))
      wbb := match Tbl.find c.wbb p.line with
        | some w => if buf.contains (p.line, w.data) && w.delta == p.delta then Tbl.del c.wbb p.line else c.wbb
        | none => c.wbb })
  s1.onCache (fun c =>
    { c with lines := Tbl.upd c.lines p.line (fun x =>
        if x.dirty && ((x.data == p.data && x.delta == p.delta) || (x.delta && (x.data ||| p.data) == p.data)) then
          { x with dirty := false, delta := false, data := full, poison := poison, restored := false }
        else x) })

/-- The writes that a copy has written through to a line complete, and the line is installed clean while the cache is on (R120, R123,
R153). -/
def completeThru (s : State) (m : Move) (line : Nat) (full : Line) : State :=
  (m.thru.filter (fun r => r.line == line)).foldl (fun t r => installThru t r full) s

/-- A program or a clear that a die reports as failed leaves its frame due to retire after its pages have moved (R225). -/
def frameDue (s : State) (fx : Nat) : State :=
  s.onMedium (fun x => { x with retireDue := if x.retireDue.contains fx then x.retireDue else x.retireDue ++ [fx] })

/-- A program failure of a frame: counted, and the frame due to retire (R225, R413). -/
def programFailed (s : State) (fx : Nat) : State :=
  frameDue (s.updChan (s.frame fx).ch (fun c => { c with pfail := (c.pfail + 1) % 2 ^ 16 })) fx

/-- One line of a stored page changes. -/
def updStored (s : State) (ppn line : Nat) (f : LImg → LImg) : State :=
  s.onMedium (fun x =>
    { x with pages := Tbl.upd x.pages ppn (fun p => { p with lines := updAt p.lines (line % 16) f }) })

/-- Step of R88 that an in-place program of a line has completed. -/
def Move.step (m : Move) (line : Nat) : Nat := Tbl.getD m.steps line 1

/-- A pair after step 2, 3 or 4 of R88 of its next program, `d` being the new cells. -/
def LImg.after (i : LImg) (d : Line) (step : Nat) : LImg :=
  if step = 2 then { i with plain := d } else if step = 3 then i.cut3 d (BitVec.allOnes 240) else i.program d

/-- A pair whose next program stopped within step 2, 3 or 4 of R88: how far the step came is free (log 1). -/
def LImg.within (i : LImg) (d : Line) (step v : Nat) : LImg :=
  if step = 2 then i.cut2 d (BitVec.ofNat 2048 v) else if step = 3 then i.cut3 d (BitVec.ofNat 240 v) else i.cut4 d (BitVec.ofNat 16 v)

/-- MONOTONE_PROGRAM_DONE: step 2, 3 or 4 of R88 has ended for a line written in place, each after the one before it; the line is clean
when step 4 has verified (R92, R164). A program that fails leaves its line dirty, for a rewrite of the page, and its frame due to retire
(R225). -/
def monotoneProgramDone (s : State) (page line step : Nat) (pass : Bool) : State :=
  match Tbl.find s.maps.moves page with
  | none => s
  | some m =>
    if !s.live || m.stage != 0 || m.old != m.new || step != m.step line + 1 || decide (4 < step) then s
    else
      match m.snap.find? (fun p => p.line == line), m.img.lines[line % 16]? with
      | some p, some i =>
        if !pass then
          let s1 := programFailed (updStored (s.burn 1) m.new line (fun x => x.within i.plain step s.freeVal)) (fxOf m.new)
          settle (dropMove s1 page)
        else
          let s1 := sampleFree (count (updStored s m.new line (fun x => x.after i.plain step)) 0x09 (s.home page) none 1) 5 1
          if step < 4 then
            s1.onMaps (fun x => { x with moves := Tbl.put x.moves page { m with steps := Tbl.put m.steps line step } })
          else
            let s2 := leavePoisonSet (cleanLine s1 p i.plain false m.buf) page (fun l => l == line)
            let rest := m.snap.filter (fun p => p.line != line)
            if rest.isEmpty then settle (dropMove (count s2 0x06 0x3F none 1) page)
            else settle (s2.onMaps (fun x => { x with moves := Tbl.put x.moves page { m with snap := rest } }))
      | _, _ => s

/-- MONOTONE_PROGRAM_DONE (R88). -/
def execMonotoneProgramDone (page line step : Nat) (pass : Bool) (s : State) : Out :=
  .next (monotoneProgramDone s page line step pass)

/-! ## The programmed copy -/

/-- A copied page's entry joins the current journal record (R148). -/
def journalMove (s : State) (page : Nat) (m : Move) : State :=
  s.onMaps (fun x =>
    { x with
      moves := Tbl.put x.moves page { m with stage := 2 }
      jpend := x.jpend ++ [⟨page, m.new, m.old⟩] })

/-- The other page position of the tag slot that covers a position (R138). -/
def tagPeer (ppn : Nat) : Nat := fxOf ppn * 192 + (if posOf ppn % 2 = 0 then posOf ppn + 1 else posOf ppn - 1)

/-- Whether a page is being programmed at a position. -/
def State.programming (s : State) (ppn : Nat) : Bool := s.maps.moves.any (fun p => p.2.stage == 0 && p.2.new == ppn && p.2.old != ppn)

/-- Whether a copy waits for its tag slot (R430): in a T-mode integrity frame until the frame closes; in an S-mode one until
both pages of its slot are programmed, or the frame has closed; a page written through waits only for a page that is being programmed
beside it. -/
def State.tagWait (s : State) (m : Move) : Bool :=
  let f := s.frame (fxOf m.new)
  m.img.integ && f.state != 3
    && (f.mode == 2 || (!Tbl.has s.medium.pages (tagPeer m.new) && (m.kind != .writeThru || s.programming (tagPeer m.new))))

/-- A copy whose tag slot stands joins the journal; the slot is programmed once, while its frame is open or as it closes (R430). -/
def tagDone (s : State) (page : Nat) (m : Move) : State :=
  let fx := fxOf m.new
  let t := if m.img.integ && (s.frame fx).state == 2 then
      s.updFrame fx (fun f => { f with tags := if f.tags.contains (posOf m.new / 2) then f.tags else f.tags ++ [posOf m.new / 2] })
    else s
  journalMove t page m

/-- Pages copied and waiting whose tag slot stands now join the journal. -/
def releaseTags (s : State) : State :=
  (s.maps.moves.filter (fun p => p.2.stage == 1)).foldl (fun t p =>
    if t.tagWait p.2 then t else tagDone t p.1 p.2) s

/-- Skip the second position of a tag slot that a written-through page closed early (R138, R430). -/
def skipPair (s : State) (m : Move) : State :=
  let fx := fxOf m.new
  let f := s.frame fx
  if m.img.integ && m.kind == .writeThru && f.mode != 2 && f.state == 2 && posOf m.new % 2 == 0 && f.next == posOf m.new + 1 then
    let s1 := s.updFrame fx (fun f => { f with next := f.next + 1 })
    if f.next + 1 < positions f.mode f.integ then s1
    else
      match (s.chan f.ch).opens.find? (fun p => p.2 == fx) with
      | some (u, _) => closeFrame s1 f.ch u fx
      | none => s1
  else s

/-- T-mode triplets whose program ends with the page at a position (R81). -/
def pageTriplets (q : Nat) : Nat := (16 * q + 16) / 3 - 16 * q / 3

/-- Whether an earlier page of a frame is still being programmed and a copy waits for it: in T-mode the triplets are programmed in ascending
order (R81), and the copies of a re-key go page by page, so that those in its frame are the first of their channel (R434, log 100). -/
def State.earlierPage (s : State) (m : Move) : Bool :=
  s.maps.moves.any (fun p =>
    ((s.frame (fxOf m.new)).mode == 2 || (m.kind == .rekey && p.2.kind == .rekey))
      && p.2.stage == 0 && mapped p.2.new && fxOf p.2.new == fxOf m.new && decide (posOf p.2.new < posOf m.new))

/-- A program of a re-key copy has failed: its frame takes no more of them, and the copies of the re-key on their way into it are begun again in
another frame (R225, R434, log 100). -/
def dropWalk (s : State) (fx : Nat) : State :=
  ((s.maps.moves.filter (fun p => p.2.kind == .rekey && p.2.stage == 0 && mapped p.2.new && fxOf p.2.new == fx)).map (·.1)).foldl dropMove s

/-- PAGE_COPY_PROGRAMMED: the 16 slots of a copy have verified (R148); where the die reports a program failure the frame is
due to retire after its pages have moved, and the page is programmed at the next position of its open frame (R143, R225). -/
def pageCopyProgrammed (s : State) (page : Nat) (pass : Bool) : State :=
  match Tbl.find s.maps.moves page with
  | none => s
  | some m =>
    if !s.live || m.stage != 0 || m.old == m.new || s.earlierPage m then s
    else
      let fx := fxOf m.new
      let ch := (s.frame fx).ch
      if pass then
        let s1 := s.onMedium (fun x => { x with pages := Tbl.put x.pages m.new m.img })
        let n := if m.img.mono then 80 else 16
        let s2 := sampleFree (count s1 0x09 ch none n) 5 (if (s.frame fx).mode = 2 then pageTriplets (posOf m.new) else n)
        let s3 := s2.onMaps (fun x => { x with moves := Tbl.put x.moves page { m with stage := 1 } })
        pumpAt (releaseTags (skipPair s3 m)) m.new
      else
        let s2 := programFailed (s.updFrame fx (fun f => { f with hurt := f.hurt ++ [posOf m.new] })) fx
        if m.kind = .rekey then settle (dropWalk s2 fx)
        else match allocUse s2 ch m.use with
        | some (ppn, use, t) => t.onMaps (fun x => { x with moves := Tbl.put x.moves page { m with new := ppn, use := use } })
        | none => settle (dropMove s2 page)

/-- PAGE_COPY_PROGRAMMED (R148). -/
def execPageCopyProgrammed (page : Nat) (pass : Bool) (s : State) : Out := .next (pageCopyProgrammed s page pass)

/-- INTEGRITY_FRAME_CLOSE: an open frame with an integrity layout closes; its tag slots are programmed (R143, R430). -/
def integrityFrameClose (s : State) (ch use : Nat) : State :=
  if s.live && useInteg use then
    match Tbl.find (s.chan ch).opens use with
    | none => s
    | some fx => releaseTags (closeFrame s ch use fx)
  else s

/-- INTEGRITY_FRAME_CLOSE (R143). -/
def execIntegrityFrameClose (ch use : Nat) (s : State) : Out := .next (integrityFrameClose s ch use)

end Sys2Proof.Machine
end

