-- ==== Sys2Proof/Machine/MapPages.lean ====
section
/-! DEFINITION. The copy of the map that HS0 keeps on the medium: map pages, directory pages, the tree of a root, and which copies
reclaim treats as live (R244 to R247). -/

namespace Sys2Proof.Machine

open Sys2Proof

/-- LIVE of a frame changes by one. -/
def addLive (s : State) (ppn : Nat) (up : Bool) : State :=
  if mapped ppn then s.updFrame (fxOf ppn) (fun f => { f with live := if up then f.live + 1 else f.live - 1 }) else s

/-- Object number of a map page (R244). -/
def mapTag (n : Nat) : Nat := 0x10000000 + n

/-- Object number of a directory page (R244). -/
def dirTag (n : Nat) : Nat := 0x20000000 + n

/-- The entries of a map page as the map stands: host pages 1,024 n to 1,024 n + 1,023 (R244). -/
def State.mapPage (s : State) (n : Nat) : Tbl Nat :=
  (s.maps.map.filter (fun e => mapPageOf e.1 == n)).map (fun e => (e.1 % 1024, e.2))

/-- The entries of a directory page as the DRAM directory stands: the PPNs of map pages 1,024 d to 1,024 d + 1,023 (R244). -/
def State.dirPage (s : State) (d : Nat) : Tbl Nat :=
  (s.maps.mapDir.filter (fun p => decide (mapTag (1024 * d) ≤ p.1) && decide (p.1 < mapTag (1024 * d + 1024)))).map (fun p => (p.1 % 1024, p.2))

/-- The entries of the map page or directory page that stands at a PPN; one that can no longer be read has none (log 97). -/
def State.sysEntries (s : State) (ppn : Nat) : Tbl Nat := ((Tbl.find s.medium.sysPages ppn).map (·.entries)).getD []

/-- The tree below the directory pages that a root lists: PPN by object number (R247). -/
def State.rootTree (s : State) (r : Root) : Tbl Nat :=
  r.dirs.flatMap (fun d => (s.sysEntries d.2).map (fun e => (mapTag (1024 * d.1 + e.1), e.2))) ++ r.dirs.map (fun d => (dirTag d.1, d.2))

/-- The map that the tree of a root holds (R245). -/
def State.rootMap (s : State) (r : Root) : Tbl Nat :=
  r.dirs.flatMap (fun d => (s.sysEntries d.2).flatMap (fun e =>
    (s.sysEntries e.2).map (fun x => (1024 * (1024 * d.1 + e.1) + x.1, x.2))))

/-- Copies of map pages and directory pages that reclaim treats as live: those that the DRAM directory or the tree of the latest committed
root names (R247). -/
def State.sysNamed (s : State) : List Nat :=
  (s.maps.mapDir.map (·.2) ++ (match s.pers.roots with
    | r :: _ => (s.rootTree r).map (·.2)
    | [] => [])).eraseDups

/-- LIVE of the frames follows from one set of named copies to another; a frame left without a live page comes free (R159, R247). -/
def sysLive (was : List Nat) (t : State) : State :=
  let now := t.sysNamed
  let up := (now.filter (fun p => !was.contains p)).foldl (fun u p => addLive u p true) t
  (was.filter (fun p => !now.contains p)).foldl (fun u p => freeFrame (addLive u p false) (fxOf p)) up

/-- A copy of a map page or directory page is programmed at a PPN, and the DRAM directory names it: SYS content without cipher (R244). -/
def putSys (s : State) (tag ppn : Nat) (entries : Tbl Nat) : State :=
  let t := (s.onMedium (fun m => { m with sysPages := Tbl.put m.sysPages ppn ⟨tag, entries⟩ })).onMaps (fun m =>
    { m with mapDir := Tbl.put m.mapDir tag ppn })
  let f := s.frame (fxOf ppn)
  sysLive s.sysNamed (sampleFree (count t 0x09 f.ch none 16) 5 (if f.mode = 2 then pageTriplets (posOf ppn) else 16))

/-- HS0 writes a map page or directory page into the S region open frame of channel n mod M, n being the page's number (Table 5-4, R244);
none where that channel has no position for it. -/
def writeSys (s : State) (tag : Nat) (entries : Tbl Nat) : Option State :=
  (allocPos s (tag % 0x10000000 % max 1 s.chanCount) 2).map (fun r => putSys r.2 tag r.1 entries)

/-- The map pages of a list, written one after the other. -/
def writeMapPages (s : State) : List Nat → Option State
  | [] => some s
  | n :: rest =>
    match writeSys s (mapTag n) (s.mapPage n) with
    | none => none
    | some t => writeMapPages t rest

/-- The directory pages of a list, each written where its entries differ from those of the copy on the medium (R245). -/
def writeDirPages (s : State) : List Nat → Option State
  | [] => some s
  | d :: rest =>
    let same := match Tbl.find s.maps.mapDir (dirTag d) with
      | some ppn => s.sysEntries ppn == s.dirPage d
      | none => false
    if same then writeDirPages s rest
    else
      match writeSys s (dirTag d) (s.dirPage d) with
      | none => none
      | some t => writeDirPages t rest

/-- The directory pages whose map pages the DRAM directory names. -/
def State.dirsOf (s : State) : List Nat :=
  ((s.maps.mapDir.filter (fun p => decide (p.1 < 0x20000000))).map (fun p => p.1 % 0x10000000 / 1024)).eraseDups

/-- Reclaim copies the map pages and directory pages that the DRAM directory names out of a frame; what only the latest root names stays
until the next root commits (R247). While a checkpoint is in progress none is moved, so that the root it writes names what stands. -/
def moveSys (s : State) (fx : Nat) : State :=
  if s.pers.ckpt.isSome then s
  else
    (s.maps.mapDir.filter (fun p => fxOf p.2 == fx)).foldl (fun t p =>
      if !t.houseRoom || !t.mayRead p.2 then t
      else
        let ch := (t.frame fx).ch
        let t1 := count (houseRead t p.2) 0x08 ch none 16
        match allocCopy t1 ch 1 false false with
        | none => t
        | some (ppn, _, u) => putSys u p.1 ppn (t.sysEntries p.2)) s

end Sys2Proof.Machine
end

