-- ==== Sys2Proof/Machine/Journal.lean ====
section
/-! DEFINITION. The map journal and the checkpoints of HS0: records of up to 20 entries, body and seal, what a verified seal
changes, and the roots (R147 to R156, R244 to R247). -/

namespace Sys2Proof.Machine

open Sys2Proof

/-! ## Records (R154 to R156) -/

/-- The cleared JOURNAL frame of a channel with the lowest frame index (R154). -/
def State.clearedJournal (s : State) (ch : Nat) : Option Nat :=
  let c := s.chan ch
  c.journalFrames.find? (fun fx =>
    let f := s.frame fx
    f.bound && f.mode == 1 && f.hurt.isEmpty && (s.descOf f).isSome && !c.jdirty.contains fx && !s.medium.retireDue.contains fx
      && !s.maps.jopen.any (fun o => o.1 == fx) && !s.medium.jslots.any (fun x => x.1 / 512 == fx))

/-- Open the next JOURNAL frame: on the enabled channels in rotation, not on the channel of the other open one (R154). -/
def openJournal (s : State) : State :=
  let order := (List.range s.chanCount).map (fun i => (s.maps.jchan + 1 + i) % max 1 s.chanCount)
  let free := fun (ch : Nat) => !s.maps.jopen.any (fun o => s.chanOfFx o.1 == ch) && (s.clearedJournal ch).isSome
  match order.find? free with
  | none => s
  | some ch =>
    match s.clearedJournal ch with
    | none => s
    | some fx => s.onMaps (fun m => { m with jopen := m.jopen ++ [(fx, 0)], jchan := ch })

/-- HS0 keeps two JOURNAL frames open where cleared ones stand (R154). -/
def openJournals (s : State) : State :=
  if s.maps.jopen.length < 2 then
    (let t := openJournal s
     if t.maps.jopen.length < 2 then openJournal t else t)
  else s

/-- The place of the next record: the open frames take records in turn, and a frame whose 512 records are used closes (R154). None where
the ring has no free frame (R156). -/
def takePlace (s0 : State) : Option (Nat × State) :=
  let s := openJournals s0
  match s.maps.jopen with
  | [] => none
  | (fx, i) :: rest =>
    some (512 * fx + i, s.onMaps (fun m => { m with jopen := if i + 1 < 512 then rest ++ [(fx, i + 1)] else rest }))

/-- Channel of the JOURNAL frame that holds a record (R154). -/
def State.journalChan (s : State) (r : JRec) : Nat := s.chanOfFx (r.place / 512)

/-- A record's slots on the medium. -/
def putJournal (s : State) (r : JRec) (body : Bool) (commit : Option (BitVec 16)) : State :=
  s.onMedium (fun m => { m with jslots := Tbl.put m.jslots r.place ⟨r, body, commit⟩ })

/-- Whether the removal of a region waits for the trims of its pages. -/
def State.dropPending (s : State) (idx : Nat) : Bool :=
  match s.region idx with
  | none => false
  | some r =>
    let inR := fun (page : Nat) => decide (r.base ≤ page * 4096) && decide (page * 4096 < r.base + r.size)
    s.maps.moves.any (fun p => inR p.1) || s.maps.waitMoves.any (fun p => inR p.1)

/-- An entry whose page holds another PPN by now is dropped with its copy (R148). -/
def dropStale (s : State) (e : JEntry) : State := if s.mapEntry e.page = e.old then s else dropMove s e.page

/-- JOURNAL_RECORD_START: HS0 starts the body of the next record: up to 20 map entries whose page still holds the PPN they
replace, the others being dropped with their copies (R148, R156), or else one region change. -/
def journalRecordStart (s : State) : State :=
  let m := s.maps
  if s.live && m.jbody.isNone && s.houseRoom then
    match takePlace s with
    | none => s
    | some (place, t) =>
      let start := fun (u : State) (entries : List JEntry) (region : Option (Nat × Option Region)) =>
        let act := match region with
          | some (_, none) => 2
          | some (i, some _) => flag (u.region i).isSome
          | none => 0
        let r : JRec := ⟨u.maps.jseq, entries, region, act, place⟩
        putJournal (u.onMaps (fun x => { x with jbody := some r, jseq := x.jseq + 1 })) r false none
      if !m.jpend.isEmpty then
        let take := m.jpend.take 20
        let good := take.filter (fun e => s.mapEntry e.page == e.old)
        let u := t.onMaps (fun x =>
          { x with
            jpend := x.jpend.drop 20
            moves := good.foldl (fun v e => Tbl.upd v e.page (fun y => { y with stage := 3 })) x.moves })
        (take.filter (fun e => s.mapEntry e.page != e.old)).foldl dropStale (start u good none)
      else
        match m.jregion with
        | [] => s
        | (idx, r) :: rest =>
          if r.isNone && s.dropPending idx then s
          else start (t.onMaps (fun x => { x with jregion := rest })) [] (some (idx, r))
  else s

/-- JOURNAL_RECORD_START (R156). -/
def execJournalRecordStart (s : State) : Out := .next (journalRecordStart s)

/-- A program failure of a journal slot: its frame is due to retire, and the record stands at the next place (R225); none where the
ring has none. -/
def replaceRecord (s : State) (r : JRec) : Option (JRec × State) :=
  (takePlace (programFailed s (r.place / 512))).map (fun x => ({ r with place := x.1 }, x.2))

/-- JOURNAL_BODY_VERIFIED: the seal is programmed once the previous record's seal has verified (R156); a body whose program fails is
programmed at the next place (R225). -/
def journalBodyVerified (s : State) (pass : Bool) : State :=
  match s.maps.jbody with
  | none => s
  | some r =>
    if !s.live then s
    else if !pass then
      match replaceRecord s r with
      | some (q, t) => putJournal (t.onMaps (fun m => { m with jbody := some q })) q false none
      | none => s
    else
      let t := putJournal (sampleFree (count s 0x09 (s.journalChan r) none 1) 5 1) r true none
      if s.maps.jseal.isNone then t.onMaps (fun m => { m with jbody := none, jseal := some r })
      else if s.maps.jready.isNone then t.onMaps (fun m => { m with jbody := none, jready := some r })
      else s

/-- JOURNAL_BODY_VERIFIED (R156). -/
def execJournalBodyVerified (pass : Bool) (s : State) : Out := .next (journalBodyVerified s pass)

/-! ## A verified seal (R149) -/

/-- What is done for the lines of a move whose entry has committed: they become clean, writes written through complete. -/
def sealLines (s : State) (m : Move) : State :=
  m.snap.foldl (fun t p =>
    match m.img.lines[p.line % 16]? with
    | none => t
    | some i => completeThru (sealRestored (cleanLine t p i.plain i.poison m.buf) p.line) m p.line i.plain) s

/-- What a committed change of a kind leaves: counters, the relocation queue, the tally (R203, R205, R231). -/
def sealKind (s : State) (page : Nat) (m : Move) : State :=
  let ch := s.home page
  let s1 := s.updChan ch (fun c => { c with relocs := c.relocs.filter (fun x => !(x.page == page && x.ppn == m.old)) })
  match m.kind with
  | .writeBack => count s1 0x06 0x3F none 1
  | .writeThru => count s1 0x06 0x3F none 1
  | .reclaim => count s1 0x15 ch none 1
  | .relocation => s1.updChan ch (fun c => { c with relocations := (c.relocations + 1) % 2 ^ 32 })
  | .rekey =>
    { s1 with keys := { s1.keys with rekey := s1.keys.rekey.map (fun k => { k with pages := (k.pages + 1) % 2 ^ 32 }) } }
  | .poison => s1.onMaps (fun x => { x with mapBad := x.mapBad.filter (fun p => p != page) })
  | _ => s1

/-- Discard the cached lines of a page (R51); a fill that serves only reads is doomed, the merged line of any other goes once it
is installed (R125). -/
def discardPage (s : State) (page : Nat) : State :=
  (List.range 16).foldl (fun t j =>
    let line := 16 * page + j
    let t1 := t.onCache (fun c =>
      { c with
        fills := Tbl.upd c.fills line (fun f =>
          if f.merge && !f.doomed then { f.fold (c.delta line) (c.deltaBad line) with trimmed := true }
          else f.doom (c.delta line) (c.deltaBad line)) })
    discardLine t1 line) s

/-- A page that still has a line in the poison set, whose flag its new copy does not hold, is queued for relocation again (R178). -/
def requeue (s : State) (page : Nat) : State :=
  if (List.range 16).any (fun j => s.inPoisonSet (16 * page + j)) then queuePage s page true else s

/-- One map entry of a committed record takes effect (R149): the map, the LIVE counts, the lines, the old frame; a staged page takes
its place in the order of the seals (R152). -/
def sealEntry (s : State) (e : JEntry) : State :=
  match Tbl.find s.maps.moves e.page with
  | none => s
  | some m =>
    let s1 := s.onMaps (fun x =>
      { x with
        staged := x.staged.filter (fun p => p != e.page)
          ++ (if mapped e.new && (s.frame (fxOf e.new)).staged then [e.page] else [])
        map := if e.new = Config.unmapped then Tbl.del x.map e.page else Tbl.put x.map e.page e.new
        moves := Tbl.del x.moves e.page
        changed := if x.changed.contains (mapPageOf e.page) then x.changed else x.changed ++ [mapPageOf e.page] })
    let s2 := addLive (addLive s1 e.new true) e.old false
    let flagged := fun (l : Nat) => !mapped e.new || ((m.img.lines[l % 16]?).map (·.poison)).getD false
      || m.snap.any (fun p => p.line == l && !p.delta)
    let s2b := requeue (leavePoisonSet (sealLines s2 m) e.page flagged) e.page
    let s3 := sealKind s2b e.page m
    let s4 := if mapped e.old then freeFrame s3 (fxOf e.old) else s3
    startWaiting s4 e.page

/-- The region change of a committed record takes effect (Table 5-8, R342); a definition or a drop takes the staging targets
afresh (R150). -/
def sealRegion (s : State) (idx : Nat) (r : Option Region) : State :=
  let s1 := s.onMaps (fun m =>
    { m with
      regions := match r with
        | some x => Tbl.put m.regions idx x
        | none => Tbl.del m.regions idx })
  if r.isSome && (s.region idx).isSome then s1 else recompute s1

/-- Contexts whose region change a committed record completes. -/
def resumeJournal (s : State) (region : Option Nat) : State :=
  (s.waiters (fun w => match w with
    | .rgnJournal _ => true
    | _ => false)).foldl (fun t k =>
      match (t.ctx (k / 32) (k % 32)).wait with
      | .rgnJournal i => if region = some i then complete t (k / 32) (k % 32) Config.OK 0 else t
      | _ => t) s

/-- After 1,024 seals that change a channel's frames its staging target is taken afresh (R150). -/
def countSeal (s : State) (r : JRec) : State :=
  (r.entries.map (fun e => s.home e.page)).eraseDups.foldl (fun t c =>
    if (t.chan c).seals + 1 < 1024 then t.updChan c (fun x => { x with seals := x.seals + 1 })
    else recomputeChan (t.updChan c (fun x => { x with seals := 0 })) c) s

/-- A record commits: it joins the journal and its changes take effect (R149, R156). -/
def commitRecord (s : State) (r : JRec) : State :=
  let s1 := s.onMaps (fun m =>
    { m with jseal := m.jready, jready := none, jlog := m.jlog ++ [r], jframes := m.jframes + 1 })
  let ch := s.journalChan r
  let s2 := count (sampleFree (count (putJournal s1 r true (some 0xFFFF)) 0x09 ch none 1) 5 1) 0x14 ch none 1
  let s3 := r.entries.foldl sealEntry s2
  match r.region with
  | some (i, x) => sealRegion s3 i x
  | none => s3

/-- SEAL_VERIFIED: the record is committed; its changes take effect and what waits for them goes on (R149, R156). A seal whose program
fails is programmed with its body at the next place (R225). -/
def sealVerified (s : State) (pass : Bool) : State :=
  match s.maps.jseal with
  | none => s
  | some r =>
    if !s.live then s
    else if !pass then
      match replaceRecord s r with
      | some (q, t) => putJournal (t.onMaps (fun m => { m with jseal := some q })) q true none
      | none => s
    else settle (roEnter (resumeJournal (countSeal (commitRecord s r) r) (r.region.map (·.1))))

/-- SEAL_VERIFIED (R149). -/
def execSealVerified (pass : Bool) (s : State) : Out := .next (sealVerified s pass)

/-! ## Checkpoints (R245, R246) -/

/-- Highest committed JSEQ. -/
def State.committedJseq (s : State) : Nat :=
  match s.maps.jlog.getLast? with
  | some r => r.jseq
  | none => (s.pers.roots.head?.map (·.jseqC)).getD 0

/-- The manifest of the flush image: either committed copy; where both are committed and differ, none is trusted (R242). -/
def State.tail (s : State) : Option Manifest :=
  match s.pers.manifest, s.pers.manifestB with
  | some a, some b => if a = b then some a else none
  | some a, none => some a
  | none, b => b

/-- Image slots whose bit the done map of a checkpoint sets (R246). -/
def State.doneSlots (s : State) : List Nat :=
  match s.tail with
  | none => []
  | some m =>
    let prev := match s.pers.roots.head? with
      | some r => if r.doneFseq = m.fseq then r.done else []
      | none => []
    indices s.pers.image.length (fun i =>
      prev.contains i
        || (match s.pers.image[i]? with
            | some x => s.maps.jlog.any (fun r => decide (m.jF < r.jseq) && r.entries.any (fun e => e.page == x.line / 16))
            | none => false))

/-- CHECKPOINT_START: after 1,024 journal frames, or for a CKPT, where none is in progress. The map pages changed since the previous one are
written, then the directory pages whose entries changed; the root lists these (R245). While a channel has no position for one of them the
checkpoint does not start. -/
def checkpointStart (s : State) : State :=
  let asked := !(s.waiters (fun w => w == .ckpt)).isEmpty
  if s.live && s.pers.ckpt.isNone && (asked || decide (1024 * 512 ≤ s.maps.jframes)) then
    match (writeMapPages (s.onMaps (fun m => { m with changed := [] })) s.maps.changed).bind (fun t => writeDirPages t t.dirsOf) with
    | none => s
    | some t =>
      let live := s.pers.imageLive
      let root : Root :=
        { cseq := s.pers.cseq + 1, jseqC := s.committedJseq
          dirs := (t.maps.mapDir.filter (fun p => decide (0x20000000 ≤ p.1))).map (fun p => (p.1 - 0x20000000, p.2))
          regions := s.maps.regions, doneFseq := if live then (s.tail.map (·.fseq)).getD 0 else 0
          done := if live then s.doneSlots else [] }
      t.onPers (fun p => { p with ckpt := some root })
  else s

/-- CHECKPOINT_START (R245). -/
def execCheckpointStart (s : State) : Out := .next (checkpointStart s)

/-- JOURNAL frames that are not open and hold no record that a root leaves to replay are released: each awaits its clear (R154,
R247). -/
def releaseJournal (s : State) : State :=
  let places := s.medium.jslots.map (·.1 / 512)
  let busy := fun (fx : Nat) => s.maps.jopen.any (fun o => o.1 == fx) || s.maps.jlog.any (fun r => r.place / 512 == fx)
    || [s.maps.jbody, s.maps.jready, s.maps.jseal].any (fun r => (r.map (fun x => x.place / 512)) == some fx)
  (places.eraseDups.filter (fun fx => !busy fx)).foldl (fun t fx =>
    t.updChan (t.chanOfFx fx) (fun c => { c with jdirty := if c.jdirty.contains fx then c.jdirty else c.jdirty ++ [fx] })) s

/-- CHECKPOINT_SEAL_VERIFIED: the root commits, the two latest are kept, journal frames it covers are released, CKPT completes
(R245, R247). -/
def checkpointSealVerified (s : State) : State :=
  match s.pers.ckpt with
  | none => s
  | some r =>
    if !s.live then s
    else
      let s1 := sysLive s.sysNamed (s.onPers (fun p => { p with ckpt := none, roots := r :: p.roots.take 1, cseq := r.cseq }))
      let s2 := s1.onMaps (fun m =>
        let rest := m.jlog.filter (fun x => decide (r.jseqC < x.jseq))
        { m with jlog := rest, jframes := rest.length })
      let s3 := releaseJournal s2
      (s3.waiters (fun w => w == .ckpt)).foldl (fun t k =>
        completeD t (k / 32) (k % 32) (t.wordAt (k / 32) (k % 32)).d (BitVec.ofNat 64 r.cseq) Config.OK 0) s3

/-- CHECKPOINT_SEAL_VERIFIED (R245). -/
def execCheckpointSealVerified (s : State) : Out := .next (checkpointSealVerified s)

/-! ## Recovery of the journal (R156) -/

/-- Whether the record in two slots of a JOURNAL frame is committed (R156): its body verifies, and its seal slot holds a COMMIT field that
is committed under R89. The seal is programmed with the JSEQ and BCRC of the body beside it. -/
def JSlot.committed (x : JSlot) : Bool := x.body && (x.commit.map commitClass) == some .committed

/-- The unbroken run of JSEQ from a number on, among some records; `fuel` bounds its length. -/
def runFrom (l : List JRec) : Nat → Nat → List JRec
  | 0, _ => []
  | n + 1, k =>
    match l.find? (fun r => r.jseq == k) with
    | some r => r :: runFrom l n (k + 1)
    | none => []

/-- The journal as recovery reads it, but for records at places whose slots do not decode: the committed records after the newest root, in JSEQ order up to the first gap (R156). -/
def State.recoverJournal (s : State) (lost : List Nat) : List JRec :=
  let start := (s.pers.roots.head?.map (·.jseqC)).getD 0
  let l := (s.medium.jslots.filter (fun x => x.2.committed && !lost.contains x.1 && decide (start < x.2.rcd.jseq))).map (·.2.rcd)
  runFrom l l.length (start + 1)

/-- The region table of the newest root with the region changes of the journal after it (R149, R156). -/
def State.recoverRegions (s : State) (l : List JRec) : Tbl Region :=
  l.foldl (fun t r => match r.region with
    | some (i, some x) => Tbl.put t i x
    | some (i, none) => Tbl.del t i
    | none => t) ((s.pers.roots.head?.map (·.regions)).getD [])

/-- Step 4 of Table 8-6: the journal is read; the next record takes the number above the highest committed JSEQ (R156). The JOURNAL frames
that hold no record to replay await their clear, with those whose clear was cut (R82); a frame that stood open is not opened again
(DESIGN CHOICE, log 92). -/
def recoverRecords (s : State) (lost : List Nat) : State :=
  let l := s.recoverJournal lost
  let t := s.onMaps (fun m =>
    { m with
      jlog := l, jframes := l.length, regions := s.recoverRegions l
      jseq := ((l.getLast?.map (·.jseq)) <|> (s.pers.roots.head?.map (·.jseqC))).getD 0 + 1 })
  let u := releaseJournal t
  (List.range u.chanCount).foldl (fun v c =>
    v.updChan c (fun x =>
      { x with
        jdirty := x.jdirty ++ x.journalFrames.filter (fun fx =>
          ((Tbl.find u.medium.frames fx).any (fun f => !f.hurt.isEmpty || f.mode != 1)) && !x.jdirty.contains fx) })) u

/-! ## Copies that keep the stored image (R147) -/

/-- The stored image of a page as a copy carries it: lines of the poison set take their POISON flag (R178); a monotone pair is opened
afresh as program 1, its record 1 holding the parity that the pair read with (R166). -/
def State.copyImage (s : State) (page : Nat) (p : PageImg) : PageImg :=
  { p with
    lines := p.lines.mapIdx (fun j i =>
      let d := (p.reads j).getD i.plain
      { i with
        plain := d, poison := i.poison || s.inPoisonSet (16 * page + j), head := 0xFFFF
        checks := if p.mono then [{ image := d }] else [] }) }

/-- House work reads one line of a page that it copies: a line of the poison set or of the patch table is not read (R177, R178); a line that
is lost is poisoned (R52). -/
def copyLine (found : List (Nat × Decoded)) (page ppn : Nat) (s : State) (j : Nat) : State :=
  let line := 16 * page + j
  if s.inPoisonSet line || (s.patchOf page ppn j).isSome then s
  else
    let (t, e) := slotRead s line ppn found
    match e with
    | .good b n => noteSlot t line ppn b n
    | .mac => noteSlot t line ppn 0 0
    | .lost => poisonLine t line

/-- Start a copy of a page out of its frame, where no map change of it is in flight and it holds no restored line (R148, R251, R433), and
its die can be read now (Table 6-1); its lines are read and decoded (R152, R178, R206). -/
def copyPage (s : State) (page : Nat) (k : MoveKind) (mode : Nat) (found : List (Nat × Decoded)) : State :=
  let e := s.mapEntry page
  if s.changing page || s.inBatch page || !s.houseRoom || !s.mayRead e
      || (List.range 16).any (fun j => s.pers.restoredLines.contains (16 * page + j)) then s
  else
    let t0 := (List.range 16).foldl (copyLine found page e) (houseRead (chargeRegion s page 2) e)
    match t0.stored page with
    | none => s
    | some p =>
      match allocCopy t0 (s.home page) mode p.integ (k == .migration) with
      | none => s
      | some (ppn, use, t) =>
        t.onMaps (fun m => { m with moves := Tbl.put m.moves page ⟨k, e, ppn, [], t.copyImage page p, 0, [], [], use, []⟩ })

/-- Start copies of every live page of a frame that can move; map pages move with them (R159, R247). -/
def emptyFrame (s : State) (fx : Nat) (k : MoveKind) (found : List (Nat × Decoded)) : State :=
  moveSys ((s.livePages fx).foldl (fun t page => copyPage t page k (s.frame fx).mode found) s) fx

/-- Start the copy of one live page of a frame, where none of its copies is in flight; map pages move last (R224, R247). -/
def emptyNext (s : State) (fx : Nat) (k : MoveKind) (found : List (Nat × Decoded)) : State :=
  if s.maps.moves.any (fun p => p.2.kind == k && mapped p.2.old && fxOf p.2.old == fx) then s
  else
    match (s.livePages fx).find? (fun page => !s.changing page) with
    | some page => copyPage s page k (s.frame fx).mode found
    | none => moveSys s fx

end Sys2Proof.Machine
end

