-- ==== Sys2Proof/Machine/Reclaim.lean ====
section
/-! DEFINITION. Frames over time: migration, reclaim, clears, static moves, relocation, patch repair, retirement, scrub
passes and the stamp table (05, 07). -/

namespace Sys2Proof.Machine

open Sys2Proof

/-! ## Migration (R150, R152) -/

/-- The staged page of a T region on a channel whose seal is the oldest, of those with no map change in flight (R152). -/
def State.oldestStaged (s : State) (ch : Nat) : Option Nat :=
  s.maps.staged.find? (fun page => s.home page == ch && !s.changing page
    && ((s.regionOfPage page).map (fun p => p.2.density)) == some 1)

/-- MIGRATION_START of a staged page, on unowned bandwidth (R151): of a T region whenever there is some, oldest seal first, of an AUTO
region while the channel's staged frames exceed the staging target (R150). -/
def migrationStart (s : State) (page : Nat) (found : List (Nat × Decoded)) : State :=
  match s.regionOfPage page with
  | none => s
  | some (_, r) =>
    let fx := fxOf (s.mapEntry page)
    let more := decide ((s.chan (s.home page)).stagingTarget < s.stagedFrames (s.home page))
    if s.live && s.unowned (s.home page) && mapped (s.mapEntry page) && (s.frame fx).staged
        && ((r.density == 1 && s.oldestStaged (s.home page) == some page) || (r.density == 2 && more)) then
      copyPage s page .migration 2 found
    else s

/-- MIGRATION_START (R152). -/
def execMigrationStart (page : Nat) (found : List (Nat × Decoded)) (s : State) : Out := .next (migrationStart s page found)

/-! ## Reclaim (R157 to R159) -/

/-- The use under which a frame stands open on its channel. -/
def State.useOf (s : State) (fx : Nat) : Nat :=
  (((s.chan (s.frame fx).ch).opens.find? (fun p => p.2 == fx)).map (·.1)).getD 0

/-- Copy what can move out of the victim; with no live page left it is FREE (R159). -/
def reclaimFrame (s : State) (fx : Nat) (found : List (Nat × Decoded)) : State :=
  let t := emptyFrame s fx .reclaim found
  if (t.frame fx).live = 0 then freeFrame t fx else t

/-- An open frame closes before it moves, so that its position is settled. -/
def closeOpen (s : State) (fx : Nat) : State :=
  if (s.frame fx).state = 2 then releaseTags (closeFrame s (s.frame fx).ch (s.useOf fx) fx) else s

/-- A frame move: the steps of R159 on a frame that HS2 or HS3 chose (chapter 7). -/
def moveFrame (s : State) (fx : Nat) (found : List (Nat × Decoded)) : State :=
  let t := emptyFrame (closeOpen s fx) fx .frameMove found
  if (t.frame fx).live = 0 then freeFrame t fx else t

/-- A static move goes on by one page copy, so that it can pause after the present one (R220, R224). -/
def staticStep (s : State) (fx : Nat) (found : List (Nat × Decoded)) : State :=
  let t := emptyNext s fx .frameMove found
  if (t.frame fx).live = 0 then freeFrame t fx else t

/-- RECLAIM_START on a channel: it goes on with its victim, or chooses one while its stock is below the threshold (R157,
R158); a static move in flight copies on while the tree is valid (R220, R224), then a frame that a scrub visit found due moves
(R211); a channel that has run out takes the device into READ_ONLY (R167). -/
def reclaimStart (s : State) (ch : Nat) (found : List (Nat × Decoded)) : State :=
  let c := s.chan ch
  if !s.live || decide (s.chanCount ≤ ch) then s
  else
    match c.victim with
    | some fx => reclaimFrame s fx found
    | none =>
      match (if decide (c.stock < c.threshold) then s.victimOf ch else none) with
      | some fx =>
        let f := s.frame fx
        if f.fill.2 ≤ f.live then roEnter s
        else
          let s1 := sample s 14 (4096 * f.live / max 1 f.fill.2)
          let s2 := treeUpdate (s1.putFrame fx { f with state := 4 }) fx
          reclaimFrame (s2.updChan ch (fun c => { c with victim := some fx })) fx found
      | none =>
        match c.static, c.moves with
        | some fx, _ => if c.treeValid then staticStep s fx found else s
        | none, fx :: _ => moveFrame s fx found
        | none, [] => roEnter s

/-- RECLAIM_START (R157). -/
def execReclaimStart (ch : Nat) (found : List (Nat × Decoded)) (s : State) : Out := .next (reclaimStart s ch found)

/-! ## Clears (R82, R83, R101, R141, R220) -/

/-- Cleared frames of a mode on a channel. -/
def State.clearedIn (s : State) (ch mode : Nat) : Nat :=
  ((s.chan ch).cleared.filter (fun fx => (s.frame fx).mode == mode)).length

/-- Target of the cleared stock of a mode (log 18): 4 S-mode, 4 T-mode, 2 S-mode monotone frames. -/
def clearTarget (mode : Nat) : Nat := if mode = 3 then 2 else 4

/-- The mode of the clear that a static move in flight waits for: its source's, while no frame that was cleared for it stands cleared
(R220). -/
def State.staticMode (s : State) (ch : Nat) : Option Nat :=
  let c := s.chan ch
  match c.static with
  | none => none
  | some fx => if c.worn.any (fun x => c.cleared.contains x) then none else some (s.frame fx).mode

/-- The mode whose cleared stock is furthest below its target; none where all are met (R141). Of modes equally far below, the model takes
S-mode, then T-mode, then S-mode monotone (DESIGN CHOICE, log 83). A static move in flight that lacks a frame comes first (R220). -/
def State.wantedMode (s : State) (ch : Nat) : Option Nat :=
  (s.staticMode ch) <|> [1, 2, 3].foldl (fun b m =>
    let gap := clearTarget m - s.clearedIn ch m
    if gap = 0 then b
    else
      match b with
      | none => some m
      | some k => if clearTarget k - s.clearedIn ch k < gap then some m else some k) none

/-- Whether a FREE frame may be cleared in a mode: not pinned by a read (R185), its wear stays at or below 1 (R101). -/
def State.clearable (s : State) (fx mode : Nat) : Bool :=
  let f := s.frame fx
  f.pins == 0 && f.bound
    && (match s.descOf f with
        | some ds => wearOk ds f mode && (mode != 2 || ds.capT) && (mode != 3 || ds.capMono)
        | none => false)

/-- The next never-used FREE frame of a channel in index order, RESERVE frames skipped. -/
def Chan.nextVirgin (c : Chan) : Option Nat :=
  let last := c.first + c.count - c.system - c.journal
  ((List.range (c.reserve.length + 1)).map (fun i => c.virgin + i)).find? (fun fx => decide (fx < last) && !c.reserve.contains fx)

/-- The FREE frame that the next clear in a mode takes: the oldest release, or during a static move out of that mode the
most-worn one (R141, R220). Of frames equally worn the spec names none: the model takes a never-used one first, then the oldest release
(DESIGN CHOICE, log 84). -/
def State.nextClear (s : State) (ch mode : Nat) : Option Nat :=
  let c := s.chan ch
  let static := match c.static with
    | some fx => (s.frame fx).mode == mode
    | none => false
  let pool := (match c.nextVirgin with
    | some fx => [fx]
    | none => []) ++ c.free
  let ok := pool.filter (fun fx => s.clearable fx mode)
  if static then
    ok.foldl (fun b fx => match b with
      | none => some fx
      | some k => if s.wearOf k < s.wearOf fx then some fx else some k) none
  else ok.head?

/-- A FREE frame whose next clear would take W past 1 in both modes is due to retire (R225). -/
def wornOut (s : State) (ch : Nat) : State :=
  (s.chan ch).free.foldl (fun t fx =>
    let f := t.frame fx
    match t.descOf f with
    | some ds =>
      if wearOk ds f 1 || wearOk ds f 2 || t.medium.retireDue.contains fx then t
      else t.onMedium (fun m => { m with retireDue := m.retireDue ++ [fx] })
    | none => t) s

/-- The clear command of a frame is issued: it carries a CLEAR_STAMP greater than every one issued before (R83), and what the frame held is
gone; until the clear has ended its slots hold nothing that the spec gives. -/
def issueClear (s : State) (ch fx mode : Nat) : State :=
  ((s.updFrame fx (fun f => { f with hurt := List.range 192 })).onMedium (fun x =>
    { x with
      stampNext := x.stampNext + 1, pages := x.pages.filter (fun p => fxOf p.1 != fx)
      sysPages := x.sysPages.filter (fun p => fxOf p.1 != fx), patterns := Tbl.del x.patterns fx
      jslots := x.jslots.filter (fun p => p.1 / 512 != fx) })).updChan ch (fun c =>
    { c with clearing := some (fx, mode), clearStamp := s.medium.stampNext })

/-- The next clear of a channel: a JOURNAL frame that a checkpoint has released, in S-mode (R154), else a frame of the free pool (R141). -/
def State.clearPick (s : State) (ch : Nat) : Option (Nat × Nat) :=
  match (s.chan ch).jdirty.find? (fun fx => s.clearable fx 1 && !s.medium.retireDue.contains fx) with
  | some fx => some (fx, 1)
  | none =>
    match s.wantedMode ch with
    | none => none
    | some m => (s.nextClear ch m).map (fun fx => (fx, m))

/-- FRAME_CLEAR_START on a channel (R141, R402): one clear at a time, no frame that a read holds pinned. -/
def frameClearStart (s0 : State) (ch : Nat) : State :=
  if !s0.live || decide (s0.chanCount ≤ ch) || (s0.chan ch).clearing.isSome || decide (s0.pers.rebuild < 11) || !s0.houseRoom then s0
  else
    let s := wornOut s0 ch
    match s.clearPick ch with
    | none => s
    | some (fx, m) =>
      (issueClear s ch fx m).updChan ch (fun c =>
        { c with
          cfailRow := 0, free := c.free.filter (fun x => x != fx)
          worn := if c.static.isSome && !c.jdirty.contains fx then c.worn ++ [fx] else []
          virgin := if c.nextVirgin = some fx then fx + 1 else c.virgin })

/-- FRAME_CLEAR_START (R141). -/
def execFrameClearStart (ch : Nat) (s : State) : Out := .next (frameClearStart s ch)

/-- A class's spread exceeds its limit: the static move of its coldest FULL frame starts (R219). Where both classes' do and only one move
may be in flight, the spec does not say which starts: the model takes the S class (DESIGN CHOICE, log 85). -/
def staticMove (s : State) (ch : Nat) : State :=
  let c := s.chan ch
  if c.treeValid && c.static.isNone && decide (1024 ≤ c.sinceStatic) && !s.maps.readOnly then
    let wide := fun (t : Bool) =>
      let r := s.classRange ch t
      decide (r.1 ≤ r.2) && decide ((if t then s.medium.spreadT else s.medium.spreadS) < r.2 - r.1)
    let coldest := fun (t : Bool) =>
      (s.classFrames ch t).foldl (fun (b : Option (Nat × Frame)) p => match b with
        | none => some p
        | some q => if s.clearsOf p.1 t < s.clearsOf q.1 t then some p else some q) none
    match (if wide false then coldest false else if wide true then coldest true else none) with
    | some (fx, _) => s.updChan ch (fun c => { c with static := some fx, sinceStatic := 0 })
    | none => s
  else s

/-- A parity error in a channel's tree: it is invalid until rebuilt (R223). -/
def treeError (s : State) (ch : Nat) : State :=
  record (s.updChan ch (fun c => { c with treeValid := false })) (Config.evClass 7 1) ch

/-- The header of a cleared frame takes the clear: the count of its mode rises by one, with the stamp of the command (R82, R83); the
group record follows (R221). -/
def headerClear (s : State) (fx mode stamp : Nat) : State :=
  let t := s.updFrame fx (fun f =>
    { f with
      mode := mode, sClears := if mode = 2 then f.sClears else f.sClears + 1,
      tClears := if mode = 2 then f.tClears + 1 else f.tClears, stamp := stamp, live := 0, next := 0,
      staged := false, integ := false, hurt := [], tags := [] })
  let f := t.frame fx
  t.updChan f.ch (fun c => { c with groups := Tbl.put c.groups fx (f.sClears, f.tClears) })

/-- What follows each clear on a channel: it is counted, the tree follows, the spreads are compared (R219, R222). -/
def afterClear (s : State) (ch fx : Nat) (parityBad : Bool) : State :=
  let s1 := count (sampleFree (s.updChan ch (fun c => { c with sinceStatic := c.sinceStatic + 1 })) 4 1) 0x0A ch none 1
  if parityBad then treeError s1 ch else staticMove (treeUpdate s1 fx) ch

/-- CLEAR_DONE on a channel: the header takes the clear, the frame is CLEARED, a JOURNAL frame ready for records (R82, R83, R154); a
clear that fails is issued again under a new stamp, and a second failure in a row retires the frame (R225). -/
def clearDone (s : State) (ch : Nat) (pass parityBad : Bool) : State :=
  match (s.chan ch).clearing with
  | none => s
  | some (fx, mode) =>
    if !s.live then s
    else if pass then
      let s1 := headerClear s fx mode (s.chan ch).clearStamp
      let journal := (s.chan ch).jdirty.contains fx
      let s2 := (s1.updFrame fx (fun f => { f with state := if journal then 6 else 1 })).updChan ch (fun c =>
        { c with
          clearing := none, cfailRow := 0, cleared := if journal then c.cleared else c.cleared ++ [fx]
          jdirty := c.jdirty.filter (fun x => x != fx) })
      settle (roExit (pumpDies (afterClear s2 ch fx parityBad)))
    else
      let s1 := s.updChan ch (fun c => { c with cfail := (c.cfail + 1) % 2 ^ 16, cfailRow := c.cfailRow + 1 })
      if (s1.chan ch).cfailRow < 2 then issueClear s1 ch fx mode
      else retireFrame (s1.updChan ch (fun c => { c with clearing := none })) fx

/-- CLEAR_DONE (R221). -/
def execClearDone (ch : Nat) (pass parityBad : Bool) (s : State) : Out := .next (clearDone s ch pass parityBad)

/-- Group records found uncorrectable are rebuilt from the headers of their frames; a header whose HCRC fails is taken to hold the
largest counts of its channel, and its frame is queued for a frame move (R223). -/
def groupRepair (s : State) (ch : Nat) (badGroups badHeaders : List Nat) : State :=
  let c := s.chan ch
  let mine := (s.medium.frames.filter (fun p => p.2.ch == ch))
  let top := mine.foldl (fun a p => (max a.1 p.2.sClears, max a.2 p.2.tClears)) (0, 0)
  mine.foldl (fun t p =>
    if badHeaders.contains p.1 then
      (t.updFrame p.1 (fun f => { f with sClears := top.1, tClears := top.2 })).updChan ch (fun c =>
        { c with
          groups := Tbl.put c.groups p.1 top
          moves := if c.moves.contains p.1 then c.moves else c.moves ++ [p.1] })
    else if badGroups.contains ((p.1 - c.first) / 256) then
      t.updChan ch (fun c => { c with groups := Tbl.put c.groups p.1 (p.2.sClears, p.2.tClears) })
    else t) s

/-- TREE_REBUILT on a channel: the tree is built from the group records and valid again, unless a node fails parity once more (R223,
R224). -/
def treeRebuilt (s : State) (ch : Nat) (parityBad : Bool) (badGroups badHeaders : List Nat) : State :=
  if s.running && !(s.chan ch).treeValid then
    if parityBad then treeError s ch
    else treeBuild ((groupRepair s ch badGroups badHeaders).updChan ch (fun c => { c with treeValid := true })) ch
  else s

/-- TREE_REBUILT (R224). -/
def execTreeRebuilt (ch : Nat) (parityBad : Bool) (badGroups badHeaders : List Nat) (s : State) : Out :=
  .next (treeRebuilt s ch parityBad badGroups badHeaders)

/-! ## Retirement (R142, R225, R226) -/

/-- Whether a JOURNAL frame still serves the journal: it is open, or holds records that no checkpoint has released (R226). -/
def State.journalHolds (s : State) (fx : Nat) : Bool :=
  let c := s.chan (s.frame fx).ch
  c.journalFrames.contains fx && !c.jdirty.contains fx
    && (s.maps.jopen.any (fun o => o.1 == fx) || s.medium.jslots.any (fun x => x.1 / 512 == fx))

/-- FRAME_RETIRE of a frame that is due to retire: its live pages move as reclaim would; with none left it retires, and a
MEDIA.RETIRE that waits for it completes. An open JOURNAL frame closes first and serves until its records are released. -/
def frameRetire (s : State) (fx : Nat) (found : List (Nat × Decoded)) : State :=
  let f := s.frame fx
  if s.live && s.medium.retireDue.contains fx then
    if s.journalHolds fx then s.onMaps (fun m => { m with jopen := m.jopen.filter (fun o => o.1 != fx) })
    else if f.live ≠ 0 then moveFrame s fx found
    else if f.pins ≠ 0 ∨ s.copiesInto fx then s
    else retireFrame s fx
  else s

/-- FRAME_RETIRE (R225). -/
def execFrameRetire (fx : Nat) (found : List (Nat × Decoded)) (s : State) : Out := .next (frameRetire s fx found)

/-! ## Relocation (R204, R205) and patch repair (R206 to R209) -/

/-- The enabled channel whose relocation queue is next in rotation (R205). -/
def State.relocNext (s : State) : Option Nat :=
  ((List.range s.chanCount).map (fun i => (s.medium.relocLast + 1 + i) % max 1 s.chanCount)).find? (fun c => !(s.chan c).relocs.isEmpty)

/-- Whether HS3 serves a channel's relocation queue now: it is next in rotation, or its poison set is full (R205). -/
def State.relocTurn (s : State) (ch : Nat) : Bool :=
  decide (Config.poisonSetLen ≤ (s.chan ch).poisonSet.length) || s.relocNext == some ch

/-- RELOCATION_START on a channel whose turn it is: the page at the head of its queue, dropped where its map entry has changed; it
waits while a map change of the page is in flight. A turn that only a full poison set gives leaves the rotation where it is (R205). -/
def relocationStart (s : State) (ch : Nat) (found : List (Nat × Decoded)) : State :=
  match (s.chan ch).relocs with
  | [] => s
  | x :: rest =>
    if !s.live || !s.relocTurn ch then s
    else
      let t := if s.relocNext = some ch then s.onMedium (fun m => { m with relocLast := ch }) else s
      if t.mapEntry x.page ≠ x.ppn then t.updChan ch (fun c => { c with relocs := rest })
      else copyPage t x.page .relocation (t.frame (fxOf x.ppn)).mode found

/-- RELOCATION_START (R205). -/
def execRelocationStart (ch : Nat) (found : List (Nat × Decoded)) (s : State) : Out := .next (relocationStart s ch found)

/-- PATCH_FRAME_MOVE on a channel: the frame of the oldest entry moves, its live pages copied out (R208). -/
def patchFrameMove (s : State) (ch : Nat) (found : List (Nat × Decoded)) : State :=
  match (s.chan ch).patches with
  | [] => s
  | p :: _ =>
    if !s.fullService || !s.live then s
    else
      moveFrame (s.updChan ch (fun c => { c with patches := updAt c.patches 0 (fun x => { x with moving := true }) })) (fxOf p.ppn) found

/-- PATCH_FRAME_MOVE (R208). -/
def execPatchFrameMove (ch : Nat) (found : List (Nat × Decoded)) (s : State) : Out := .next (patchFrameMove s ch found)

/-- Slots that a repair check programs: the failing data slot, in T-mode the triplet that holds it (R81, R208). -/
def patternSlots (mode pos line : Nat) : List Nat :=
  if mode = 2 then (List.range 3).map (fun i => (16 * pos + line) / 3 * 3 + i)
  else if mode = 3 then [32 * pos + line]
  else [16 * pos + line]

/-- PATCH_REPAIR_CHECK on a channel: the moved frame is cleared, its failing slot programmed with the pattern and read back:
2 corrected bits or fewer free the entry and the frame, which still holds the pattern, else the frame retires (R208). A frame whose wear
the clear would take past 1 is not cleared: it retires (R101, R225). -/
def patchRepairCheck (s : State) (ch : Nat) (r : Decoded) (parityBad : Bool) : State :=
  match (s.chan ch).patches with
  | [] => s
  | p :: rest =>
    let fx := fxOf p.ppn
    let f := s.frame fx
    let mode := if f.mode = 2 then 2 else 1
    if !s.live || !p.moving || f.live != 0 || f.pins != 0 || f.state == 2 || s.copiesInto fx then s
    else if !((s.descOf f).map (fun ds => wearOk ds f mode)).getD false then retireFrame s fx
    else
      let good := match r with
        | .ok b => decide (b ≤ 2)
        | _ => false
      let s1 := headerClear (s.onMedium (fun m =>
        { m with
          stampNext := m.stampNext + 1, pages := m.pages.filter (fun q => fxOf q.1 != fx), sysPages := m.sysPages.filter (fun q => fxOf q.1 != fx)
          patterns := Tbl.put m.patterns fx (patternSlots f.mode (posOf p.ppn) p.line) })) fx mode s.medium.stampNext
      let s2 := afterClear (s1.updFrame fx (fun f => { f with state := 0 })) ch fx parityBad
      if good then
        let s3 := s2.updChan ch (fun c => { c with patches := rest })
        if rest.any (fun q => fxOf q.ppn == fx) then s3
        else s3.updChan ch (fun c => { c with free := c.free ++ [fx] })
      else retireFrame s2 fx

/-- PATCH_REPAIR_CHECK (R208). -/
def execPatchRepairCheck (ch : Nat) (r : Decoded) (parityBad : Bool) (s : State) : Out :=
  .next (patchRepairCheck s ch r parityBad)

/-! ## Scrub passes (R210 to R215) -/

/-- Whether a stored page holds a pair that a tear has left torn (R94). -/
def PageImg.anyTorn (p : PageImg) : Bool := p.mono && (List.range p.lines.length).any (fun j => ((p.lines[j]?).map (fun i => i.torn p j)).getD false)

/-- Pages of a channel with a torn pair are queued for relocation, which writes the pair afresh (R94, R253). -/
def queueTorn (s : State) (ch : Nat) : State :=
  (s.medium.pages.filter (fun p => p.2.anyTorn && s.mapEntry p.2.page == p.1 && s.home p.2.page == ch)).foldl (fun t p =>
    queuePage t p.2.page true) s

/-- SCRUB_PASS_START on a channel: a pass falls due every SCRUB_HOURS of operating seconds, as they stand at its start (R213); where the
pass before it has not finished it goes on and SCRUB_BEHIND is set (R210, R214). The first pass after an unclean stop takes the check slots
of monotone pairs first (R253). -/
def scrubPassStart (s : State) (ch : Nat) : State :=
  let c := s.chan ch
  if s.live && decide (ch < s.chanCount) && decide (c.scrubDue ≤ s.recs.opsec) then
    let due := s.recs.opsec + 3600 * s.medium.scrubHours
    match c.scrubCursor with
    | some _ => record (s.updChan ch (fun c => { c with behind := true, scrubDue := due })) (Config.evClass 7 0) ch
    | none =>
      let t := if c.scrubPairsFirst then queueTorn s ch else s
      t.updChan ch (fun c =>
        { c with
          scrubCursor := some c.first, scrubDue := due, scrubStart := s.recs.opsec, scrubPairsFirst := false
          passHours := s.medium.scrubHours })
  else s

/-- SCRUB_PASS_START (R210). -/
def execScrubPassStart (ch : Nat) (s : State) : Out := .next (scrubPassStart s ch)

/-- Age of a frame in operating seconds (R215); none where every entry of the table is younger. -/
def State.frameAge (s : State) (f : Frame) : Option Nat :=
  ((s.medium.stamps.filter (fun e => decide (e.2 ≤ f.stamp))).getLast?).map (fun e => s.recs.opsec - e.1)

/-- Age at which a scrub visit moves a frame (Table 7-2), in seconds. -/
def State.ageLimit (s : State) (f : Frame) : Nat :=
  if f.mode = 2 then min (60 * 86400) (90 * 86400 - 2 * (s.chan f.ch).passHours * 3600)
  else
    let ret := (List.range 16).foldl (fun a c => (s.chan c).dies.foldl (fun a d =>
      match d.desc with
      | some x => if d.accepted then min a x.retS else a
      | none => a) a) 730
    min (365 * 86400) (ret * 86400 / 2)

/-- A frame is found due for a frame move (Table 7-2). -/
def frameMove (s : State) (fx : Nat) : State :=
  s.updChan (s.frame fx).ch (fun c => if c.moves.contains fx then c else { c with moves := c.moves ++ [fx] })

/-- What a scrub of a line finds, and what it does (Table 7-2): the state, and whether the page was queued. -/
def scrubAct (s : State) (line ppn : Nat) (e : SlotEnd) : State × Bool :=
  match e with
  | .good bits n =>
    let t := noteSlot s line ppn bits n
    if 12 ≤ bits ∨ 2 ≤ n then (t, true)
    else if 8 ≤ bits ∨ 1 ≤ n then (queuePage t (line / 16) false, true)
    else (t, false)
  | .mac => (noteSlot s line ppn 0 0, false)
  | .lost => (poisonLine s line, true)

/-- The native pass reads one line of a programmed page (R210): a line of the poison set or of the patch table is served without a read
(R177, R178). Of a copy that the map names no longer only the read is made. -/
def visitLine (found : List (Nat × Decoded)) (page ppn : Nat) (s : State) (j : Nat) : State :=
  let line := 16 * page + j
  if s.inPoisonSet line || (s.patchOf page ppn j).isSome then s
  else
    let (t, e) := slotRead s line ppn found
    if s.mapEntry page = ppn then (scrubAct t line ppn e).1 else t

/-- What a pass finds beside the decodes: the frames whose headers fail HCRC, and the largest reference shift of T-mode frames. -/
structure ScrubFinds where
  found : List (Nat × Decoded) := []
  badHeaders : List Nat := []
  shifts : List (Nat × Nat) := []
  deriving DecidableEq, Repr

/-- Whether a scrub finds a frame due for a frame move by its age or, in T-mode, by a reference shift of 3 steps or more (Table 7-2). -/
def State.frameDueMove (s : State) (w : ScrubFinds) (fx : Nat) : Bool :=
  let f := s.frame fx
  let old := match s.frameAge f with
    | none => true
    | some a => decide (s.ageLimit f ≤ a)
  f.live != 0 && (old || w.badHeaders.contains fx || (f.mode == 2 && w.shifts.any (fun x => x.1 == fx && decide (3 ≤ x.2))))

/-- What a scrub does with a frame whose pages it has read (Table 7-2): a header that fails HCRC is taken as R223 says and its frame moves;
an aged or a drifted frame moves. -/
def scrubFrame (w : ScrubFinds) (s : State) (fx : Nat) : State :=
  if w.badHeaders.contains fx then groupRepair s (s.frame fx).ch [] [fx]
  else if s.frameDueMove w fx then frameMove s fx
  else s

/-- A scrub visit of a frame (R210, R211): every programmed page is read, a torn pair queues its page, then the frame itself is judged;
the slots of records and map pages are read and counted (DEDUCED, log 104). -/
def scrubVisit (w : ScrubFinds) (s : State) (fx : Nat) : State :=
  match Tbl.find s.medium.frames fx with
  | none => s
  | some f =>
    if f.bound && (f.state == 2 || f.state == 3 || f.state == 4) then
      let mine := s.medium.pages.filter (fun p => fxOf p.1 == fx)
      let s0 := mine.foldl (fun t p => (List.range 16).foldl (visitLine w.found p.2.page p.1) t) (if mine.isEmpty then s else houseRead s (fx * 192))
      let sys := (s.medium.sysPages.filter (fun p => fxOf p.1 == fx)).length
      let s1 := if sys = 0 then s0 else count s0 0x08 f.ch none (16 * sys)
      let s2 := (mine.filter (fun p => p.2.anyTorn && s.mapEntry p.2.page == p.1)).foldl (fun t p => queuePage t p.2.page true) s1
      scrubFrame w s2 fx
    else s

/-- One operating second of a pass (R210, log 19): the frames of a 1/(3,600 × SCRUB_HOURS) share of the channel, rounded
up, are visited in ascending index; at the end the pass counts and its duration is sampled (H15). -/
def scrubSecond (w : ScrubFinds) (s : State) (ch : Nat) : State :=
  let c := s.chan ch
  match c.scrubCursor with
  | none => s
  | some k =>
    let n := ceilDiv c.count (max 1 (3600 * c.passHours - 1))
    let hi := min (c.first + c.count) (k + n)
    let s1 := ((s.medium.frames.filter (fun p => decide (k ≤ p.1) && decide (p.1 < hi))).map (·.1)).foldl (scrubVisit w) s
    let read := (s.medium.jslots.filter (fun x => decide (k ≤ x.1 / 512) && decide (x.1 / 512 < hi))).length
    let s2 := if read = 0 then s1 else count s1 0x08 ch none (2 * read)
    if hi < c.first + c.count then s2.updChan ch (fun c => { c with scrubCursor := some hi })
    else
      let dur := s.recs.opsec - c.scrubStart
      sample (s2.updChan ch (fun c =>
        { c with
          scrubCursor := none, passes := (c.passes + 1) % 2 ^ 32
          behind := if dur ≤ 3600 * c.passHours then false else c.behind })) 15 dur

/-- The pair of operating seconds and highest stamp issued joins the stamp table; past 4,096 entries the oldest goes (R215). -/
def appendStamp (s : State) : State :=
  s.onMedium (fun m =>
    { m with
      stamps := (if 4096 ≤ m.stamps.length then m.stamps.drop 1 else m.stamps) ++ [(s.recs.opsec, m.stampNext - 1)] })

/-- STAMP_TABLE_APPEND: every 3,600 operating seconds (R215). -/
def stampTableAppend (s : State) : State :=
  let due := match s.medium.stamps.getLast? with
    | none => true
    | some e => decide (e.1 + 3600 ≤ s.recs.opsec)
  if s.live && due then appendStamp s else s

/-- STAMP_TABLE_APPEND (R215). -/
def execStampTableAppend (s : State) : Out := .next (stampTableAppend s)

end Sys2Proof.Machine
end

