-- ==== Sys2Proof/Machine/Ledger.lean ====
section
/-! DEFINITION. The ledger of HS6: accounts and capacities (R265), what a commitment costs (R266 to R268), the admission
tests (R269 to R272), slot tables (R275 to R279), revocation (R286 to R288). Figures are exact fractions. -/

namespace Sys2Proof.Machine

open Sys2Proof

/-! ## Capacities -/

/-- Largest value that any accepted die reports of a figure for which Table 3-9 sets no limit (R265). -/
def State.dieMax (s : State) (f : Desc → Nat) : Nat :=
  (List.range s.chanCount).foldl (fun m c => (s.chan c).dies.foldl (fun m d => match d.desc with
    | some x => if d.accepted then max m (f x) else m
    | none => m) m) 0

/-- Bound frame indexes on a plane: those it was given, less the ones unbound or bound elsewhere since, plus the ones bound
to it since. -/
def State.boundOn (s : State) (ch : Nat) (pl : Nat × Nat × Nat) : Nat :=
  let c := s.chan ch
  let home := fun (fx : Nat) =>
    let o := planeOf c.given (fx - c.first)
    o.1 == pl.1 && o.2.1 == pl.2.1
  let here := fun (f : Frame) => f.bound && f.die == pl.1 && f.plane == pl.2.1
  let mine := s.medium.frames.filter (fun p => p.2.ch == ch)
  pl.2.2 + (mine.filter (fun p => here p.2 && !home p.1)).length - (mine.filter (fun p => home p.1 && !here p.2)).length

/-- P_c: planes of accepted dies that hold a bound frame index (R265). -/
def State.planeCount (s : State) (ch : Nat) : Nat :=
  ((s.chan ch).given.filter (fun pl => ((s.chan ch).dies.getD pl.1 {}).accepted && decide (0 < s.boundOn ch pl))).length

/-- A_c, the worst-case amplification; none where it is unbounded (R162). -/
def State.amp (s : State) (ch : Nat) : Option Rat :=
  let c := s.chan ch
  let k : Rat := (c.kc.1 : Rat) / c.kc.2
  let room : Rat := (c.inService : Rat) - s.setAside ch - 32
  if room ≤ k then none else some (room / (room - k))

/-! ## What a commitment costs (R266, R267) -/

/-- e_c: fraction of a region's pages whose home channel is c. -/
def State.evenShare (s : State) (r : Region) (ch : Nat) : Rat :=
  (s.homePages r ch : Rat) / (r.size / 4096 : Nat)

/-- φ_c: the largest fraction of a generator's lines on a channel in any 1,024 consecutive lines over one period, the
period repeating; 1 on every channel the region touches for a table or a period above 2^24 lines (R266). -/
def State.phi (s : State) (g : Gen) (r : Region) (ch : Nat) : Rat :=
  let n := genPeriod g
  if g.ind || decide (2 ^ 24 < n) then (if 0 < s.homePages r ch then 1 else 0)
  else
    let hit := fun (k : Nat) => flag (s.home ((r.base / 256 + genStep g (k % n)) / 16) == ch)
    let w0 := (List.range 1024).foldl (fun a k => a + hit k) 0
    let best := ((List.range n).foldl (fun (a : Nat × Nat) k =>
      (a.1 + hit (k + 1024) - hit k, max a.2 a.1)) (w0, 0)).2
    (best : Rat) / 1024

/-- b_c: what HS6 charges a channel of a commitment's rate (R266). -/
def State.chanRate (s : State) (k : Commit) (ch : Nat) : Rat :=
  match s.region k.region with
  | none => 0
  | some r =>
    match k.stream with
    | some g => k.rate * s.phi g r ch
    | none => min (k.rate : Rat) (k.rate * k.headroom * s.evenShare r ch)

/-- Whether a region's lines stand in S-mode frames. -/
def Region.sMode (r : Region) : Bool := r.mono || r.density == 0

/-- Unit cost of a commitment on a channel: bytes of the unit, BUS ns and ARR plane-ns (Table 9-2); none where the
amplification it needs is unbounded (R162). -/
def State.unitCost (s : State) (k : Commit) (r : Region) (ch : Nat) : Option (Rat × Rat × Rat) :=
  let tau : Rat := 18
  let ts : Rat := s.dieMax (·.tProgS)
  let tt : Rat := s.dieMax (·.tProgT)
  let cs : Rat := s.dieMax (·.tClrS)
  let ct : Rat := s.dieMax (·.tClrT)
  let n : Rat := if r.integ then 33 / 2 else 16
  let dbl : Rat := if r.integ then 2 else 1
  let rdBus : Rat := dbl * (if r.sMode then tau else 3 * tau)
  let rdArr : Rat := if r.sMode then 100 else 784
  let pairs := fun (a : Rat) => a * (16 * (ts + 4 * 300) + ts / 10 + cs * 1000 / 32) + (a - 1) * 2 * 100
  match k.kind with
  | 0 => some (256, rdBus, rdArr)
  | 3 => some (256, rdBus, if (k.stream.map genSeq).getD false then rdArr / 16 else rdArr)
  | 1 =>
    (s.amp ch).map (fun a =>
      if r.mono then (4096, a * (32 * tau + tau / 10) + (a - 1) * 32 * tau, pairs a)
      else if r.density = 0 then
        (4096, a * (n * tau + tau / 10) + (a - 1) * n * tau,
          a * (n * ts + ts / 10 + cs * 1000 / (if r.integ then 62 else 64)) + (a - 1) * 100)
      else
        (4096, a * (n * tau + tau / 10) + (a - 1) * 3 * n * tau,
          a * (n * tt / 3 + ts / 10 + ct * 1000 / (if r.integ then 186 else 192)) + (a - 1) * 784))
  | _ =>
    (s.amp ch).map (fun a =>
      (256, 4 * tau + (32 * tau + a * (32 * tau + tau / 10) + (a - 1) * 32 * tau) / 7,
        100 + 600 + 2 * 300 + (2 * 100 + pairs a) / 7))

/-- Load of a commitment on a channel: BUS ns/µs and ARR plane-ns/µs, not yet rounded; none where unbounded. -/
def State.commitLoad (s : State) (k : Commit) (ch : Nat) : Option (Rat × Rat) :=
  let b := s.chanRate k ch
  if b = 0 then some (0, 0)
  else
    match s.region k.region with
    | none => some (0, 0)
    | some r => (s.unitCost k r ch).map (fun u => (b / u.1 * u.2.1, b / u.1 * u.2.2))

/-- Whether a commitment charges a channel. -/
def State.charges (s : State) (k : Commit) (ch : Nat) : Bool := decide (s.chanRate k ch ≠ 0)

/-! ## Accounts (R268 to R271) -/

/-- A fraction rounded up to a whole number. -/
def up (q : Rat) : Nat := q.ceil.toNat

/-- Owner code of a commitment: its label, or the stream class (R269, R275). -/
def Commit.owner' (k : Commit) : Nat := if k.kind = 3 then 0x40 else k.label

/-- Scrub load of R212 in slots per µs, for a value of SCRUB_HOURS. -/
def State.scrubSlots (s : State) (ch hours : Nat) : Rat :=
  ((s.chan ch).inService * 3072 : Nat) / ((hours * 3600 * 1000000 : Nat) : Rat)

/-- Whether the lane reserve applies to a channel (Table 9-3). -/
def State.laneReserve (s : State) (cs : Tbl Commit) (ch : Nat) : Bool :=
  cs.any (fun p => p.2.kind == 0 && s.charges p.2 ch)

/-- Flush-reserve upkeep stands at HOLD 1 to 3 (Table 9-3). -/
def State.upkeep (s : State) (n : Nat) : Nat := if s.boot.straps.hold = 0 then 0 else n

/-- Load of an owner on a channel, summed over its commitments and rounded up (Table 9-4); HOUSE has the fixed terms. -/
def State.ownerLoad (s : State) (cs : Tbl Commit) (hours ch owner : Nat) : Nat × Nat :=
  if owner = 0x41 then
    (s.upkeep 1 + up (54 * s.scrubSlots ch hours) + 20, s.upkeep 2 + up (49 * s.scrubSlots ch hours) + 400)
  else
    let t := (cs.filter (fun p => p.2.owner' == owner)).foldl (fun (a : Rat × Rat) p =>
      let l := (s.commitLoad p.2 ch).getD (0, 0)
      (a.1 + l.1, a.2 + l.2)) (0, 0)
    (up t.1, up t.2)

/-- S_c in ns/µs (R269). -/
def State.slotTime (s : State) (cs : Tbl Commit) (ch : Nat) : Nat := if s.laneReserve cs ch then 730 else 900

/-- Slot-table entries of a BUS load (R269). -/
def entriesFor (load slot : Nat) : Nat := ceilDiv (256 * load) slot

/-- Owner codes that can hold entries: labels, the stream class, HOUSE. -/
def ownerCodes : List Nat := List.range 0x42

/-- Entries of an owner on a channel. -/
def State.ownerEntries (s : State) (cs : Tbl Commit) (hours ch owner : Nat) : Nat :=
  entriesFor (s.ownerLoad cs hours ch owner).1 (s.slotTime cs ch)

/-- Entries that the calibration term keeps unowned (R269). -/
def State.calEntries (s : State) (cs : Tbl Commit) (ch : Nat) : Nat := entriesFor 10 (s.slotTime cs ch)

/-- Entries of every owner on a channel. -/
def State.ownedEntries (s : State) (cs : Tbl Commit) (hours ch : Nat) : Nat :=
  ownerCodes.foldl (fun a o => a + s.ownerEntries cs hours ch o) 0

/-- ARR load of a channel: owners, lane reserve, calibration (Table 9-3). -/
def State.arrLoad (s : State) (cs : Tbl Commit) (hours ch : Nat) : Nat :=
  ownerCodes.foldl (fun a o => a + (s.ownerLoad cs hours ch o).2) 0 + 160
    + (if s.laneReserve cs ch then 4 * (250 + s.dieMax (·.tRes)) else 0)

/-- BUS load of a channel: owners, lane reserve, calibration (Table 9-3). -/
def State.busLoad (s : State) (cs : Tbl Commit) (hours ch : Nat) : Nat :=
  ownerCodes.foldl (fun a o => a + (s.ownerLoad cs hours ch o).1) 0 + 10 + (if s.laneReserve cs ch then 170 else 0)

/-- Admitted streams with a line on a channel. -/
def State.streamsOn (s : State) (cs : Tbl Commit) (ch : Nat) : List Commit :=
  (cs.filter (fun p => p.2.kind == 3 && s.charges p.2 ch)).map (·.2)

/-- First-transfer slots of one fetch of a stream; a sequential one above 14,000 B/µs counts every slot of the page (R191, R270). -/
def State.firstSlots (s : State) (k : Commit) : Nat :=
  let integ := ((s.region k.region).map (·.integ)).getD false
  (if 14000 < k.rate ∧ (k.stream.map genSeq).getD false = true then 16 else 1) * (if integ then 2 else 1)

/-- D of R270: 970 ns where every stream has a T-mode source, else 654 ns. -/
def State.streamD (s : State) (cs : Tbl Commit) (ch : Nat) : Nat :=
  if (s.streamsOn cs ch).all (fun k => !((s.region k.region).map Region.sMode).getD false) then 970 else 654

/-- Left side of R270 for a count of class entries; 0 without streams. -/
def State.streamNs (s : State) (cs : Tbl Commit) (ch entries : Nat) : Rat :=
  let l := s.streamsOn cs ch
  if l.isEmpty then 0
  else
    let m := l.foldl (fun a k => a + s.firstSlots k) 0
    18 * ((m * 256 : Nat) / (entries : Rat) + 1)
      + (if s.laneReserve cs ch then 17 / 100 * s.streamD cs ch + 108 else 0)

/-- The stream test of R270 for a count of class entries. -/
def State.streamOk (s : State) (cs : Tbl Commit) (ch entries : Nat) : Bool :=
  (s.streamsOn cs ch).isEmpty || (entries != 0 && decide (s.streamNs cs ch entries ≤ s.streamD cs ch))

/-- Egress and ingress loads of a port (R271). -/
def portLoad (cs : Tbl Commit) (p : Nat) : Nat × Nat :=
  cs.foldl (fun a q =>
    if bitOf q.2.ports p then
      (if q.2.kind = 0 ∨ q.2.kind = 3 then (a.1 + q.2.rate, a.2) else (a.1, a.2 + q.2.rate))
    else a) (0, 0)

/-- Capacity of a port in each direction; a disabled port has none (R265). -/
def State.portCap (s : State) (p : Nat) : Nat :=
  if s.portCount ≤ p then 0 else if (s.port p).fell then 5000 * s.lanes else 10000 * s.lanes

/-- DRAM load in quarters of 1 B/µs (R271). -/
def dramLoad4 (cs : Tbl Commit) : Nat :=
  cs.foldl (fun a q => a + q.2.rate * (if q.2.kind = 0 ∨ q.2.kind = 3 then 5 else 9)) 0

/-- DRAM capacity in B/µs, exact (R265). -/
def State.dramCap (s : State) : Rat :=
  (3 * s.dramCount * 4 * s.medium.dramRate.1 : Nat) / ((5 * s.medium.dramRate.2 : Nat) : Rat)

/-- The first resource of a channel that fails R272: 0 BUS, 1 ARR, 2 STREAM. -/
def State.chanFails (s : State) (cs : Tbl Commit) (hours ch : Nat) : Option Nat :=
  if cs.any (fun p => (s.commitLoad p.2 ch).isNone)
      || decide (256 < s.ownedEntries cs hours ch + s.calEntries cs ch) then some 0
  else if 1000 * s.planeCount ch < s.arrLoad cs hours ch then some 1
  else if s.streamOk cs ch (s.ownerEntries cs hours ch 0x40) then none
  else some 2

/-- The failure detail of R345 for a set of commitments; none where every account passes (R272). -/
def State.ledgerFails (s : State) (cs : Tbl Commit) (hours : Nat) : Option Nat :=
  match (List.range s.chanCount).findSome? (fun c => (s.chanFails cs hours c).map (fun r => c + 256 * r)) with
  | some d => some d
  | none =>
    if (List.range 4).any (fun p => decide (s.portCap p < (portLoad cs p).1 ∨ s.portCap p < (portLoad cs p).2)) then
      some (32 + 256 * 3)
    else if s.dramCap * 4 < (dramLoad4 cs : Rat) then some (32 + 256 * 4)
    else none

/-! ## Slot tables (R275 to R279) -/

/-- Change the slot tables of a channel. -/
def State.updSlots (s : State) (ch : Nat) (f : Slots → Slots) : State :=
  { s with regul := { s.regul with slots := updAt s.regul.slots ch f } }

/-- Place owners' entries by largest remainder (R276): at each entry the owner whose share is furthest behind takes it; the
unowned entries count as one more. -/
def placeSlots (own : List (Nat × Nat)) : Nat → Nat → List Nat → List Nat
  | 0, _, acc => acc.reverse
  | n + 1, j, acc =>
    let rem := fun (o : Nat × Nat) => ((o.2 * (j + 1) : Nat) : Int) - 256 * (acc.filter (fun x => x == o.1)).length
    let pick := own.foldl (fun (b : Option (Nat × Nat)) o => match b with
      | none => some o
      | some q => if rem q < rem o then some o else some q) none
    placeSlots own n (j + 1) (((pick.map (·.1)).getD 0xFF) :: acc)

/-- The table HS6 places for a channel (R276). -/
def State.hs6Table (s : State) (ch : Nat) : List Nat :=
  let cs := s.regul.commits
  let own := (ownerCodes.map (fun o => (o, s.ownerEntries cs s.medium.scrubHours ch o))).filter (fun o => o.2 != 0)
  let used := own.foldl (fun a o => a + o.2) 0
  placeSlots (own ++ [(0xFF, 256 - used)]) 256 0 []

/-- Entries of an owner in a table. -/
def ownedIn (l : List Nat) (o : Nat) : Nat := (l.filter (fun x => x == o)).length

/-- Owners that a table leaves with fewer entries than R269 gives them. -/
def State.shortOwners (s : State) (ch : Nat) (l : List Nat) : List Nat :=
  ownerCodes.filter (fun o => decide (ownedIn l o < s.ownerEntries s.regul.commits s.medium.scrubHours ch o))

/-- HS6 writes the shadow tables of channels and arms their swaps (R276, R278). -/
def hs6Swap (s : State) (chans : List Nat) : State :=
  chans.foldl (fun t ch =>
    let tab := s.hs6Table ch
    t.updSlots ch (fun x => { x with shadow := tab, shadowBy := 2, armed := true, forced := [] })) s

/-- Channels that a commitment charges. -/
def State.chargedBy (s : State) (k : Commit) : List Nat := (List.range s.chanCount).filter (fun c => s.charges k c)

/-- Identifier of the commitment in an entry (R345). -/
def identOf (n : Nat) (k : Commit) : Nat := n + 1024 * k.gen

/-- Remove a commitment from the ledger image. -/
def removeCommit (s : State) (n : Nat) : State :=
  { s with regul := { s.regul with commits := Tbl.del s.regul.commits n } }

/-- Add a commitment in a free entry of the ledger image under a new generation; the entry. -/
def addCommit (s : State) (k : Commit) : Option (Nat × State) :=
  match (List.range 1024).find? (fun n => !Tbl.has s.regul.commits n) with
  | none => none
  | some n =>
    let g := (Tbl.getD s.regul.gens n 0 + 1) % 2 ^ 22
    some (n, { s with
      regul := { s.regul with
        commits := Tbl.put s.regul.commits n { k with gen := g }, gens := Tbl.put s.regul.gens n g } })

/-- Drop a commitment and swap the reduced tables of the channels it charged (R274); those channels. -/
def dropCommit (s : State) (n : Nat) : State × List Nat :=
  match Tbl.find s.regul.commits n with
  | none => (s, [])
  | some k =>
    let chans := s.chargedBy k
    (hs6Swap (removeCommit s n) chans, chans)

/-! ## Revocation (R286 to R288) -/

/-- Withdraw commitments on every channel: the cause bit is set (R527), each owner is told, a stream goes on unadmitted, HS6 swaps new tables but on a
channel named apart. -/
def revoke (s : State) (l : List Nat) (apart : Option Nat) : State :=
  let gone := l.filterMap (fun n => (Tbl.find s.regul.commits n).map (fun k => (n, k)))
  let chans := (List.range s.chanCount).filter (fun c => some c != apart && gone.any (fun p => s.charges p.2 c))
  let s1 := gone.foldl (fun t p => removeCommit t p.1) s
  let s2 := { s1 with
    eng := { s1.eng with
      streams := s1.eng.streams.map (fun p =>
        if gone.any (fun g => p.2.commit == some g.1) then (p.1, { p.2 with commit := none, revoked := true }) else p) } }
  let s3 := if gone.isEmpty then s2 else irq s2 4
  hs6Swap (gone.foldl (fun t p => notifyCommit t p.2.owner Config.LEDGER_REVOKED (identOf p.1 p.2)) s3) chans

/-- The entries that revalidation withdraws: whole labels from the lowest, until every account passes (R287). -/
def State.toRevoke (s : State) : Nat → Tbl Commit → List Nat
  | 0, _ => []
  | n + 1, cs =>
    if (s.ledgerFails cs s.medium.scrubHours).isNone then []
    else
      match cs with
      | [] => []
      | _ =>
        let low := cs.foldl (fun m p => min m p.2.label) 64
        ((cs.filter (fun p => p.2.label == low)).map (·.1)) ++ s.toRevoke n (cs.filter (fun p => p.2.label != low))

/-- HS6 revalidates every account, revokes what no longer fits, and swaps new tables where the live one leaves an owner with
fewer entries than it now needs (R286, R287). -/
def revalidate (s : State) : State :=
  let t := revoke { s with regul := { s.regul with losses := 0 } } (s.toRevoke 65 s.regul.commits) none
  hs6Swap t ((List.range t.chanCount).filter (fun c => !(t.shortOwners c (t.slotsOf c).live).isEmpty))

/-- LEDGER_REVALIDATE: a loss of capability has been reported, or the ledger image is restored (R286). -/
def ledgerRevalidate (s : State) : State :=
  if s.running && !s.flushing && decide (0 < s.regul.losses) then revalidate s else s

/-- LEDGER_REVALIDATE (R286). -/
def execLedgerRevalidate (s : State) : Out := .next (ledgerRevalidate s)

/-! ## Swaps (R278, R279) -/

/-- An instruction that waited for table swaps completes: OK, and D, or g0 of a house routine, where it returns a value. -/
def endSwap (s : State) (e c : Nat) (d : Option Nat) : State :=
  let x := s.ctx e c
  match d with
  | none => complete s e c Config.OK 0
  | some v => completeD s e c (if x.house = 0 then (s.wordAt e c).d else 0) (BitVec.ofNat 64 v) Config.OK 0

/-- Wait for the swaps of channels, or complete at once where there is none (R272, R274). -/
def waitSwap (s : State) (e c : Nat) (chans : List Nat) (d : Option Nat) : State :=
  if chans.isEmpty then endSwap s e c d else suspend s e c (.swap chans d)

/-- A channel's new table is live: contexts that waited for it go on. -/
def swapSeen (s : State) (ch : Nat) : State :=
  (s.waiters (fun w => match w with
    | .swap l _ => l.contains ch
    | _ => false)).foldl (fun t k =>
      match (t.ctx (k / 32) (k % 32)).wait with
      | .swap l d => waitSwap t (k / 32) (k % 32) (l.filter (fun x => x != ch)) d
      | _ => t) s

/-- SLOT_ENTRY_ELAPSE: the next entry is in use; at the wrap an armed shadow becomes live, and commitments whose owners a
forced table leaves short are revoked (R277 to R279). -/
def slotEntryElapse (s : State) (ch : Nat) : State :=
  if s.running && decide (ch < s.chanCount) then
    let x := s.slotsOf ch
    let n := (x.entry + 1) % 256
    if n = 0 ∧ x.armed then
      let s1 := s.updSlots ch (fun x =>
        { x with live := x.shadow, shadow := x.live, shadowBy := 0, armed := false, entry := 0, forced := [] })
      swapSeen (if x.forced.isEmpty then s1 else revoke s1 x.forced (some ch)) ch
    else s.updSlots ch (fun x => { x with entry := n })
  else s

/-- SLOT_ENTRY_ELAPSE (R279). -/
def execSlotEntryElapse (ch : Nat) (s : State) : Out := .next (slotEntryElapse s ch)

/-! ## Admission (R272, R273) -/

/-- Whether every enabled channel and port holds a LOADED calibration result (R194). -/
def State.calibrated (s : State) : Bool :=
  (List.range s.chanCount).all (fun c => (s.chan c).calLoaded) && (List.range s.portCount).all (fun p => (s.port p).calLoaded)

/-- Whether a channel holds a program-loaded shadow table not yet swapped (R273). -/
def State.progShadow (s : State) (ch : Nat) : Bool := (s.slotsOf ch).shadowBy == 1

/-- What admission answers: a status and detail that refuse, or the entry taken, the channels to wait for, and the state. -/
def tryAdmit (s : State) (k : Commit) : (Nat × Nat) ⊕ (Nat × List Nat × State) :=
  let chans := s.chargedBy k
  if !s.calibrated || chans.any s.progShadow then .inl (Config.BUSY, 0)
  else
    match addCommit s k with
    | none => .inl (Config.LEDGER_FULL, 32 + 256 * 5)
    | some (n, t) =>
      match s.ledgerFails t.regul.commits s.medium.scrubHours with
      | some d => .inl (Config.LEDGER_FULL, d)
      | none => .inr (n, chans, hs6Swap t chans)

/-- Complete LEDG.ADMIT with a refusal: D takes the failure detail on LEDGER_FULL alone (R345). -/
def refuseAdmit (s : State) (e c : Nat) (d : BitVec 5) (st detail : Nat) : State :=
  if st = Config.LEDGER_FULL then completeD s e c d (BitVec.ofNat 64 detail) st 0 else complete s e c st 0

/-- LEDG.ADMIT: the commitment block of Table 11-16. -/
def ledgAdmitBody (e c : Nat) (s : State) (w : SWord) : State :=
  let x := s.ctx e c
  let (a, st) := s.bufArg x.queue (x.reg w.a) 32
  if st ≠ Config.OK then complete s e c st 0
  else
    let n := s.bufNum a 32
    let kind := bitsOf n 9 8
    let rate := bitsOf n 95 64
    let h := bitsOf n 36 32
    if bitsOf n 7 6 ≠ 0 ∨ bitsOf n 15 10 ≠ 0 ∨ bitsOf n 31 28 ≠ 0 ∨ bitsOf n 63 37 ≠ 0 ∨ bitsOf n 255 96 ≠ 0 then
      complete s e c Config.BAD_OPERAND 0
    else if s.maps.readOnly && (kind == 1 || kind == 2) then complete s e c Config.READ_ONLY 0
    else if !s.calibrated then complete s e c Config.BUSY 0
    else
      match s.openRegion (bitsOf n 23 16) with
      | none => complete s e c Config.BAD_OPERAND 0
      | some r =>
        if kind = 3 ∨ h = 0 ∨ 16 < h ∨ rate = 0 ∨ 160000 < rate ∨ (kind = 2 ∧ r.mono = false) then
          complete s e c Config.BAD_OPERAND 0
        else
          let k : Commit :=
            { label := bitsOf n 5 0, kind := kind, region := bitsOf n 23 16, rate := rate, ports := bitsOf n 27 24,
              headroom := h, owner := some x.queue, gen := 0, stream := none }
          match tryAdmit s k with
          | .inl (st, d) => refuseAdmit s e c w.d st d
          | .inr (m, chans, t) => waitSwap t e c chans (some (m + 1024 * Tbl.getD t.regul.gens m 0))

/-- LEDG_ADMIT (R272). -/
def execLedgAdmit (e c : Nat) (s : State) : Out := .next (synStep s e c (fun w => w.op == 0x49) (ledgAdmitBody e c))

/-- LEDG.DROP of a commitment by its identifier; any ADMIN queue may (R274, R311). -/
def ledgDropBody (e c : Nat) (s : State) (w : SWord) : State :=
  let v := ((s.ctx e c).reg w.a).toNat
  match Tbl.find s.regul.commits (v % 1024) with
  | none => complete s e c Config.BAD_OPERAND 0
  | some k =>
    if identOf (v % 1024) k ≠ v then complete s e c Config.BAD_OPERAND 0
    else
      let (t, chans) := dropCommit s (v % 1024)
      let t1 := { t with
        eng := { t.eng with
          streams := t.eng.streams.map (fun p =>
            if p.2.commit = some (v % 1024) then (p.1, { p.2 with commit := none }) else p) } }
      waitSwap t1 e c chans none

/-- LEDG_DROP (R274). -/
def execLedgDrop (e c : Nat) (s : State) : Out := .next (synStep s e c (fun w => w.op == 0x4A) (ledgDropBody e c))

/-- The record of LEDG.QUERY as a number of 128 bytes (R346, Table 11-17). -/
def State.ledgRecord (s : State) (acct : Nat) : Nat :=
  let cs := s.regul.commits
  let h := s.medium.scrubHours
  if acct < 16 then
    let own := s.ownedEntries cs h acct
    let cal := s.calEntries cs acct
    900 + (s.busLoad cs h acct % 2 ^ 16) * 2 ^ 16 + (1000 * s.planeCount acct % 2 ^ 32) * 2 ^ 32
      + (s.arrLoad cs h acct % 2 ^ 32) * 2 ^ 64 + ((256 - own - cal) % 2 ^ 9) * 2 ^ 96
      + (up (s.streamNs cs acct (s.ownerEntries cs h acct 0x40)) % 2 ^ 16) * 2 ^ 128
      + (s.streamD cs acct % 2 ^ 16) * 2 ^ 144
      + ((cs.filter (fun p => s.charges p.2 acct)).length % 2 ^ 16) * 2 ^ 160
  else
    let port := fun (p : Nat) =>
      if p < s.portCount then
        let l := portLoad cs p
        s.portCap p + l.1 * 2 ^ 32 + s.portCap p * 2 ^ 64 + l.2 * 2 ^ 96
      else 0
    port 0 + port 1 * 2 ^ 128 + port 2 * 2 ^ 256 + port 3 * 2 ^ 384 + s.dramCap.floor.toNat * 2 ^ 512
      + ceilDiv (dramLoad4 cs) 4 * 2 ^ 544 + cs.length * 2 ^ 576

/-- LEDG.QUERY of an account (R346). -/
def ledgQueryBody (e c : Nat) (s : State) (w : SWord) : State :=
  let x := s.ctx e c
  let acct := (x.reg w.a).toNat
  let (b, st) := s.bufArg x.queue (x.reg w.b) 128
  if acct ≠ 16 ∧ s.chanCount ≤ acct then complete s e c Config.BAD_OPERAND 0
  else if st ≠ Config.OK then complete s e c st 0
  else complete (s.bufStore b (bytesOf (s.ledgRecord acct) 128)) e c Config.OK 0

/-- LEDG_QUERY (R346). -/
def execLedgQuery (e c : Nat) (s : State) : Out := .next (synStep s e c (fun w => w.op == 0x4B) (ledgQueryBody e c))

/-! ## SLOT.LOAD and SLOT.SWAP -/

/-- Largest distance between consecutive entries of an owner around a table. -/
def widestGap (l : List Nat) (o : Nat) : Nat :=
  ((l ++ l).foldl (fun (a : Nat × Nat) x => if x = o then (1, max a.2 a.1) else (a.1 + 1, a.2)) (1, 0)).2

/-- Whether the stream class of a table passes R270: its count passes the test and it is spread as R276 spreads it. -/
def State.spacingOk (s : State) (ch : Nat) (l : List Nat) : Bool :=
  let n := ownedIn l 0x40
  (s.streamsOn s.regul.commits ch).isEmpty
    || (s.streamOk s.regul.commits ch n && decide (widestGap l 0x40 ≤ ceilDiv 256 n))

/-- SLOT.LOAD: a table for the shadow of a channel; FORCE loads it as given (R277, R348). -/
def slotLoadBody (e c : Nat) (s : State) (w : SWord) : State :=
  let x := s.ctx e c
  let ch := (x.reg w.a).toNat
  let (b, st) := s.bufArg x.queue (x.reg w.b) 256
  if s.chanCount ≤ ch then complete s e c Config.BAD_OPERAND 0
  else if st ≠ Config.OK then complete s e c st 0
  else if (s.slotsOf ch).shadowBy = 2 then complete s e c Config.BUSY 0
  else
    let l := (s.bufBytes b 256).map (·.toNat)
    let short := s.shortOwners ch l
    let bad := !short.isEmpty || l.any (fun v => decide (0x41 < v) && v != 0xFF) || !s.spacingOk ch l
    if bad && !w.force then complete s e c Config.BAD_OPERAND 0
    else
      let hit := (s.regul.commits.filter (fun p => short.contains p.2.owner' && s.charges p.2 ch)).map (·.1)
      complete (s.updSlots ch (fun y => { y with shadow := l, shadowBy := 1, forced := hit })) e c Config.OK 0

/-- SLOT_LOAD (R277). -/
def execSlotLoad (e c : Nat) (s : State) : Out := .next (synStep s e c (fun w => w.op == 0x4C) (slotLoadBody e c))

/-- SLOT.SWAP arms the swap of a loaded shadow table (R278). -/
def slotSwapBody (e c : Nat) (s : State) (w : SWord) : State :=
  let ch := ((s.ctx e c).reg w.a).toNat
  if s.chanCount ≤ ch ∨ (s.slotsOf ch).shadowBy = 0 then complete s e c Config.BAD_OPERAND 0
  else suspend (s.updSlots ch (fun x => { x with armed := true })) e c (.swap [ch] none)

/-- SLOT_SWAP (R278). -/
def execSlotSwap (e c : Nat) (s : State) : Out := .next (synStep s e c (fun w => w.op == 0x4D) (slotSwapBody e c))

/-! ## SCRUB.RATE (R213) -/

/-- SCRUB.RATE: 4 to 720 hours; LEDGER_FULL where the new charge does not fit on a channel. -/
def scrubRateBody (e c : Nat) (s : State) (w : SWord) : State :=
  let h := ((s.ctx e c).reg w.a).toNat
  if h < 4 ∨ 720 < h then complete s e c Config.BAD_OPERAND 0
  else if (List.range s.chanCount).any (fun ch => (s.chanFails s.regul.commits h ch).isSome) then
    complete s e c Config.LEDGER_FULL 0
  else
    let s1 := s.onMedium (fun m => { m with scrubHours := h })
    complete (hs6Swap s1 ((List.range s1.chanCount).filter (fun c => !s1.progShadow c))) e c Config.OK 0

/-- SCRUB_RATE (R213). -/
def execScrubRate (e c : Nat) (s : State) : Out := .next (synStep s e c (fun w => w.op == 0x41) (scrubRateBody e c))

end Sys2Proof.Machine
end

