-- ==== Sys2Proof/Machine/Arbiter.lean ====
section
/-! DEFINITION. Labels and token buckets as programs set them (R257 to R264), and the arbiters: grants, quota, counter
records (R280 to R285, R347), and the records of broken conditions (R292). -/

namespace Sys2Proof.Machine

open Sys2Proof

/-! ## LBL.SET -/

/-- LBL.SET form 0: a label for a queue or a session. A TENANT queue sets its own session's label on its own queues (R257,
Table 10-9). -/
def lblSetBody (e c : Nat) (s : State) (w : SWord) : State :=
  let x := s.ctx e c
  let v := (x.reg w.a).toNat
  let l := w.fld 13 8
  let q := v % 4096
  let p := bitsOf v 4 3
  let n := v % 8
  let sess := bitOf v 12
  if !s.queueAdmin x.queue && (sess || !s.sameSession x.queue q || l != s.queueSessLabel x.queue) then
    complete s e c Config.DENIED 0
  else if 2 ^ 13 ≤ v then complete s e c Config.BAD_OPERAND 0
  else if sess then
    if bitsOf v 11 5 ≠ 0 ∨ s.portCount ≤ p ∨ (s.sess p n).isOpen = false then complete s e c Config.BAD_OPERAND 0
    else complete (s.updSess p n (fun y => { y with label := l })) e c Config.OK 0
  else
    match s.queue q with
    | none => complete s e c Config.BAD_OPERAND 0
    | some _ => complete (s.updQueue q (fun y => { y with label := l })) e c Config.OK 0

/-- LBL_SET (R257). -/
def execLblSet (e c : Nat) (s : State) : Out :=
  .next (synStep s e c (fun w => w.op == 0x48 && !w.bit 0) (lblSetBody e c))

/-- A bucket is given a rate and a depth, which apply at its next refill (R264). A bucket that had no limit holds a number of tokens that
the spec does not give: a free value (log 1). -/
def setBucket (s : State) (master label rate depth : Nat) : State :=
  let (b, t) := match Tbl.find s.regul.buckets (bucketKey master label) with
    | some b => if b.rate = 0 then ({ b with tokens := s.freeVal }, s.burn 1) else (b, s)
    | none => (⟨0, depth, s.freeVal, none⟩, s.burn 1)
  { t with
    regul := { t.regul with
      buckets := Tbl.put t.regul.buckets (bucketKey master label) { b with next := some (rate, depth) } } }

/-- LBL.SET form 1: the bucket of a label on a mask of ports (R260). It is marked A (Table 11-15). -/
def lblLimitBody (e c : Nat) (s : State) (w : SWord) : State :=
  let x := s.ctx e c
  let rate := (x.reg w.a).toNat
  let depth := (x.reg w.b).toNat
  let m := (x.reg w.c).toNat
  if !s.queueAdmin x.queue then complete s e c Config.DENIED 0
  else if 200000 < rate ∨ depth < 256 ∨ 2 ^ 24 < depth ∨ 2 ^ 20 ≤ m then complete s e c Config.BAD_OPERAND 0
  else
    complete ((indices 20 (bitOf m)).foldl (fun t p => setBucket t p (w.fld 13 8) rate depth) s) e c Config.OK 0

/-- LBL_SET_LIMIT (R260). -/
def execLblSetLimit (e c : Nat) (s : State) : Out :=
  .next (synStep s e c (fun w => w.op == 0x48 && w.bit 0) (lblLimitBody e c))

/-! ## Requesters (Table 11-18) -/

/-- Whether an arbiter serves a requester: crossbar 0x00 to 0x11, DRAM 0x20 to 0x2B, media 0x40 to 0x4F. -/
def serves (a q : Nat) : Bool :=
  if a ≤ 0x11 then decide (q ≤ 0x1B)
  else if 0x20 ≤ a ∧ a ≤ 0x2B then decide (q ≤ 0x3F) || q == 0x41 || q == 0x43
  else if 0x40 ≤ a ∧ a ≤ 0x4F then decide (q ≤ 0x43)
  else false

/-- HS5 as a requester of an arbiter. -/
def hs5At (a : Nat) : Nat := if a ≤ 0x11 then 0x19 else 0x43

/-- Whether a requester stands ahead of the shared phase: HS5, the lane, the stream class (R347). -/
def aheadOf (a q : Nat) : Bool := q == hs5At a || (decide (0x40 ≤ a) && (q == 0x40 || q == 0x42))

/-- Whether a requester is masked by the quota: K of the last W shared-phase grants (R283). -/
def Arb.masked (x : Arb) (q : Nat) : Bool := decide (x.k ≤ ((x.window.take x.w).filter (fun r => r == q)).length)

/-- ARB.CFG: the high-priority mark of a requester and, with SETQ, the quota (R283, R347). -/
def arbCfgBody (e c : Nat) (s : State) (w : SWord) : State :=
  let x := s.ctx e c
  let a := (x.reg w.a).toNat
  let q := (x.reg w.b).toNat
  let hi := w.bit 21
  let wn := w.fld 10 0
  let k := w.fld 20 11
  if !serves a q || (hi && aheadOf a q) then complete s e c Config.BAD_OPERAND 0
  else if w.bit 22 && (decide (wn < 2) || decide (1024 < wn) || k == 0 || decide (wn ≤ k)) then
    complete s e c Config.BAD_OPERAND 0
  else
    let y := s.arb a
    let y1 := { y with recs := Tbl.put y.recs q { Tbl.getD y.recs q {} with hipri := hi } }
    complete (s.putArb a (if w.bit 22 then { y1 with k := k, w := wn } else y1)) e c Config.OK 0

/-- ARB_CFG (R283). -/
def execArbCfg (e c : Nat) (s : State) : Out := .next (synStep s e c (fun w => w.op == 0x4E) (arbCfgBody e c))

/-- The counter record of a requester at an arbiter (Table 9-7). -/
def State.arbRecord (s : State) (a q : Nat) : Nat :=
  let y := s.arb a
  let r := Tbl.getD y.recs q {}
  let own := if 0x40 ≤ a then ownedIn (s.slotsOf (a - 0x40)).live q else 0
  r.grants % 2 ^ 48 + r.waits % 2 ^ 48 * 2 ^ 64 + min r.maxWait 0xFFFFFF * 2 ^ 128 + r.pend.length % 256 * 2 ^ 152
    + flag r.hipri * 2 ^ 160 + flag (r.hipri && y.masked q) * 2 ^ 161 + own * 2 ^ 176

/-- ARB.READ: the record of a requester; CLR zeroes its counts (R285). -/
def arbReadBody (e c : Nat) (s : State) (w : SWord) : State :=
  let x := s.ctx e c
  let a := (x.reg w.a).toNat
  let q := (x.reg w.b).toNat
  let (b, st) := s.bufArg x.queue (x.reg w.c) 32
  if !serves a q then complete s e c Config.BAD_OPERAND 0
  else if st ≠ Config.OK then complete s e c st 0
  else
    let s1 := s.bufStore b (bytesOf (s.arbRecord a q) 32)
    let y := s1.arb a
    let s2 := if w.bit 0 then
        s1.putArb a { y with recs := Tbl.upd y.recs q (fun r => { r with grants := 0, waits := 0, maxWait := 0 }) }
      else s1
    complete s2 e c Config.OK 0

/-- ARB_READ (R285). -/
def execArbRead (e c : Nat) (s : State) : Out := .next (synStep s e c (fun w => w.op == 0x4F) (arbReadBody e c))

/-! ## Grants (R281, R284) -/

/-- Requesters with a request pending at an arbiter. -/
def Arb.waiting (x : Arb) : List (Nat × ArbRec) := x.recs.filter (fun p => !p.2.pend.isEmpty)

/-- The least recently granted of some requesters, the lowest number on a tie. -/
def leastRecent (l : List (Nat × ArbRec)) : Option Nat :=
  (l.foldl (fun (b : Option (Nat × ArbRec)) p => match b with
    | none => some p
    | some q => if p.2.last < q.2.last then some p else some q) none).map (·.1)

/-- The requester a round grants, and whether in the shared phase (R281): once a flush has started HS5 and no other (R21, Table 8-2); at a
media channel the lane, for which the bus is reserved between its re-reads (R183), and the owner of the entry in use; else the shared
phase. -/
def State.arbPick (s : State) (a : Nat) : Option (Nat × Bool) :=
  let x := s.arb a
  let l := x.waiting
  let has := fun (q : Nat) => l.any (fun p => p.1 == q)
  let media := decide (0x40 ≤ a)
  let sl := s.slotsOf (a - 0x40)
  let owner := sl.live.getD sl.entry 0xFF
  if s.flushing then (if has (hs5At a) then some (hs5At a, false) else none)
  else if media && has 0x42 then some (0x42, false)
  else if media && (s.chan (a - 0x40)).laneBus then none
  else if media && decide (owner ≤ 0x41) && has owner then some (owner, false)
  else
    match leastRecent (l.filter (fun p => p.2.hipri && !x.masked p.1)) with
    | some q => some (q, true)
    | none => (leastRecent (l.filter (fun p => !p.2.hipri || x.masked p.1))).map (fun q => (q, true))

/-- Within the stream class the transfer granted is that of the fetch with the earliest deadline (R187, R281). -/
def takeStrmXfer (s : State) (a q : Nat) : State :=
  if q = 0x40 ∧ 0x40 ≤ a then
    s.updChan (a - 0x40) (fun c =>
      match c.strmXfers.foldl (fun (b : Option (Nat × Nat)) x => match b with
        | none => some x
        | some y => if x.1 < y.1 then some x else some y) none with
      | none => c
      | some x => { c with strmXfers := c.strmXfers.erase x, strmXfer := some x.2 })
  else s

/-- ARBITRATION_DECISION: the grant of the next transfer; every other pending requester loses a round (R284, R285). -/
def arbitrationDecision (s : State) (a : Nat) : State :=
  if !s.running then s
  else
    match s.arbPick a with
    | none => s
    | some (q, shared) =>
      let x := s.arb a
      let now := s.regul.refTicks
      let recs := x.recs.map (fun p =>
        if p.1 = q then
          (p.1, { p.2 with
            grants := (p.2.grants + 1) % 2 ^ 48, last := x.turn + 1
            maxWait := max p.2.maxWait (min 0xFFFFFF (nsOf (now - p.2.pend.headD now))) }.next (p.2.pend.drop 1) now)
        else if p.2.pend.isEmpty then p
        else (p.1, { p.2 with waits := (p.2.waits + 1) % 2 ^ 48 }))
      let s := if 0x40 ≤ a then
          count (count s 0x0F (a - 0x40) none 1) 0x10 (a - 0x40) none (x.waiting.length - 1)
        else s
      (takeStrmXfer s a q).putArb a { x with recs := recs, turn := x.turn + 1, window := if shared then (q :: x.window).take 1024 else x.window }

/-- ARBITRATION_DECISION (R284). -/
def execArbitrationDecision (arb : Nat) (s : State) : Out := .next (arbitrationDecision s arb)

/-- CREDIT_WAIT_RECORD: a wait for credit longer than 10 us is counted, its longest kept, and recorded (R292, R384). -/
def creditWaitRecord (s : State) (p us : Nat) : State :=
  if s.running && decide (p < s.portCount) && decide (10 < us) then
    record ((sample s 7 us).updPort p (fun x =>
      { x with crWait := (x.crWait + 1) % 2 ^ 16, maxCrWait := max x.maxCrWait (min us 0xFFFF) })) (Config.evClass 9 0) p
  else s

/-- CREDIT_WAIT_RECORD (R292). -/
def execCreditWaitRecord (port us : Nat) (s : State) : Out := .next (creditWaitRecord s port us)

end Sys2Proof.Machine
end

