-- ==== Sys2Proof/Machine/Records.lean ====
section
/-! DEFINITION. The event recorder's blocks, the performance counters, the dump ring and the NV store (17; R335, R487 to
R511). -/

namespace Sys2Proof.Machine

open Sys2Proof

/-! ## Recorder blocks (R496, R497) -/

/-- The recorder header (Table 17-2) as a number of 64 bytes. -/
def State.headerNum (s : State) : Nat :=
  let r := s.recs
  r.hdrHead % 2 ^ 32 + r.pcc % 2 ^ 32 * 2 ^ 32 + r.opsec % 2 ^ 40 * 2 ^ 64 + r.saved % 2 ^ 16 * 2 ^ 128
    + flag r.saveCut * 2 ^ 144 + r.hdrHead % 2 ^ 32 * 2 ^ 480

/-- A histogram block (Table 17-4) as a number of 128 bytes. -/
def Hist.num (x : Hist) : Nat :=
  x.head % 2 ^ 32 + (List.range 16).foldl (fun a i => a + x.bins.getD i 0 % 2 ^ 32 * 2 ^ (64 + 32 * i)) 0
    + x.min % 2 ^ 32 * 2 ^ 576 + x.max % 2 ^ 32 * 2 ^ 608 + x.at0.1 % 2 ^ 32 * 2 ^ 640 + x.at0.2 % 2 ^ 40 * 2 ^ 672
    + x.head % 2 ^ 32 * 2 ^ 992

/-- An event-class entry (Table 17-3) as a number of 32 bytes. -/
def EvEntry.num (x : EvEntry) : Nat :=
  x.count % 2 ^ 32 + x.detail % 2 ^ 32 * 2 ^ 32 + x.first.1 % 2 ^ 32 * 2 ^ 64 + x.first.2 % 2 ^ 40 * 2 ^ 96
    + x.last.1 % 2 ^ 32 * 2 ^ 136 + x.last.2 % 2 ^ 40 * 2 ^ 168

/-- The class block of a chapter (R496) as a number of 544 bytes. -/
def State.classNum (s : State) (c : Nat) : Nat :=
  let h := s.recs.heads.getD c 0 % 2 ^ 32
  h + (List.range 16).foldl (fun a k =>
      a + (Tbl.getD s.recs.classes (16 * c + k) {}).num * 2 ^ (8 * (16 + 32 * k))) 0
    + h * 2 ^ (8 * 528)

/-- Block b of the recorder in address order: 0 the header, 1 to 16 the histograms, 17 to 35 the class blocks (R496, log 26). -/
def State.block (s : State) (b : Nat) : List Byte :=
  if b = 0 then bytesOf s.headerNum 64
  else if b ≤ 16 then bytesOf (s.recs.hists.getD (b - 1) {}).num 128
  else bytesOf (s.classNum (b - 17)) 544

/-- The image of every block in address order (R497). -/
def State.allBlocks (s : State) : List Byte := (List.range 36).flatMap s.block

/-- The header block is updated: its HEAD and TAIL move on (R496). -/
def headerUpdate (s : State) : State := s.onRecs (fun r => { r with hdrHead := (r.hdrHead + 1) % 2 ^ 32 })

/-! ## EVT.READ (R497) -/

/-- EVT.READ of the block in A to the buffer at B. -/
def evtReadBody (e c : Nat) (s : State) (w : SWord) : State :=
  let x := s.ctx e c
  let b := (x.reg w.a).toNat
  let img := s.block b
  let (a, st) := s.bufArg x.queue (x.reg w.b) img.length
  if 35 < b then complete s e c Config.BAD_OPERAND 0
  else if st ≠ Config.OK then complete s e c st 0
  else complete (s.bufStore a img) e c Config.OK 0

/-- EVT_READ (R497). -/
def execEvtRead (e c : Nat) (s : State) : Out :=
  .next (synStep s e c (fun w => w.op == 0x5C && !w.bit 0) (evtReadBody e c))

/-- Write a record to the ring of a context's queue, which takes the dump buffer for it (R315, R500). -/
def dumpTo (s : State) (e c kind units : Nat) (body : List Byte) : State :=
  let q := (s.ctx e c).queue
  if !s.claimOk q 0x10 then complete s e c Config.CONFLICT 0
  else if ((s.queue q).bind (·.ring)).isNone then complete s e c Config.BAD_OPERAND 0
  else complete (ringPut (takeRes s q 0x10) q kind units body) e c Config.OK 0

/-- EVT_READ_SNAP: one ring record of the whole recorder (R497). -/
def execEvtReadSnap (e c : Nat) (s : State) : Out :=
  .next (synStep s e c (fun w => w.op == 0x5C && w.bit 0) (fun s _ => dumpTo s e c 0x04 195 s.allBlocks))

/-! ## PERF.CFG, PERF.DUMP (R499 to R503) -/

/-- Whether an event is one of Table 17-7. -/
def eventOk (ev : Nat) : Bool := decide (1 ≤ ev) && decide (ev ≤ 0x18)

/-- Read a select word (R500). -/
def selectOf (w : Nat) : Select := { event := bitsOf w 7 0, unit := bitsOf w 13 8, label := bitsOf w 20 14, en := bitOf w 31 }

/-- Whether the reserved bits of the configuration block are zero and its values stand in Table 17-5 (R9, R500). -/
def perfBlockOk (h : Nat) (sel : List Nat) (periodic : Bool) : Bool :=
  let mode := bitsOf h 1 0
  let off := bitsOf h 159 128
  let len := bitsOf h 191 160
  mode != 3 && bitsOf h 7 2 == 0 && bitsOf h 15 13 == 0 && bitsOf h 31 24 == 0 && bitsOf h 127 112 == 0
    && bitsOf h 511 192 == 0
    && (mode != 1 || (decide (4 ≤ bitsOf h 12 8) && decide (bitsOf h 12 8 ≤ 24)))
    && (!periodic || (decide (1 ≤ bitsOf h 63 32) && decide (bitsOf h 63 32 ≤ 60000)))
    && off % 4096 == 0 && len % 4096 == 0 && decide (65536 ≤ len) && decide (len ≤ 2 ^ 26)
    && sel.all (fun w => bitsOf w 30 21 == 0 && (!bitOf w 31 || eventOk (bitsOf w 7 0)))

/-- Configure the counters, the sampling and the ring of a queue (R499, R500, R503): every counter starts from zero, OVC from
OVPRESET, an empty ring. -/
def perfSet (s : State) (q h : Nat) (sel : List Nat) (periodic : Bool) (trig : Option Nat) : State :=
  let mode := bitsOf h 1 0
  let t := s.updQueue q (fun x => { x with ring := some (bitsOf h 159 128, bitsOf h 191 160) })
  t.onRecs (fun r =>
    { r with
      ctr := if mode = 2 then [(bitsOf h 23 16, bitsOf h 111 64)] else []
      sel := (sel.mapIdx (fun i w => (i, selectOf w))).filter (fun p => p.2.en)
      mode := mode, taglog := bitsOf h 12 8, tagCount := 0, ovc := bitsOf h 23 16, ovPreset := bitsOf h 111 64
      ovDue := false, perfTrig := trig, periodMs := if periodic then bitsOf h 63 32 else 0, ringQ := some q
      prod := 0, cons := 0, drops := 0, rseq := 0 })

/-- PERF.CFG from the block at A. -/
def perfCfgBody (e c : Nat) (s : State) (w : SWord) : State :=
  let x := s.ctx e c
  let q := x.queue
  let (a, st) := s.bufArg q (x.reg w.a) 1088
  let h := s.bufNum a 64
  let sel := (List.range 256).map (fun i => s.bufNum (a + 64 + 4 * i) 4)
  let periodic := w.bit 0
  let trig := if w.bit 1 then some (w.fld 3 2) else none
  let want := (if periodic then [0x10] else []) ++ trig.toList
  if st ≠ Config.OK then complete s e c st 0
  else if !perfBlockOk h sel periodic || !s.bufRange (bufAddr q (bitsOf h 159 128)) (bitsOf h 191 160) then
    complete s e c Config.BAD_OPERAND 0
  else if want.any (fun r => !s.claimOk q r) then complete s e c Config.CONFLICT 0
  else complete (perfSet (want.foldl (fun t r => takeRes t q r) s) q h sel periodic trig) e c Config.OK 0

/-- PERF_CFG (R500). -/
def execPerfCfg (e c : Nat) (s : State) : Out := .next (synStep s e c (fun w => w.op == 0x5D) (perfCfgBody e c))

/-- The 256 counters as a counter dump carries them (R503). -/
def State.counterBytes (s : State) : List Byte :=
  (List.range 256).flatMap (fun i => bytesOf (Tbl.getD s.recs.ctr i 0) 8)

/-- PERF_DUMP (R500). -/
def execPerfDump (e c : Nat) (s : State) : Out :=
  .next (synStep s e c (fun w => w.op == 0x5E) (fun s _ =>
    dumpTo s e c 0x01 33 (s.counterBytes ++ List.replicate 32 0)))

/-- PERIODIC_DUMP: the dump of PERIOD_MS, while the queue that configured it holds the dump buffer (R503). -/
def periodicDump (s : State) : State :=
  match s.recs.ringQ with
  | none => s
  | some q =>
    if s.live && s.recs.periodMs != 0 && Tbl.find s.eng.claims 0x10 == some q then
      ringPut s q 0x01 33 (s.counterBytes ++ List.replicate 32 0)
    else s

/-- PERIODIC_DUMP (R503). -/
def execPeriodicDump (s : State) : Out := .next (periodicDump s)

/-! ## NV store (R504 to R511) -/

/-- Bytes of an NV record with its RCRC and COMMIT (R506). -/
def nvBytes (len : Nat) : Nat := 32 + 4 * ceilDiv len 4

/-- Where a record of a kind and length goes in an area whose head sector holds `fill` bytes: how many sectors further, and the
fill after it (R506). -/
def nvPlace (kind len fill : Nat) : Nat × Nat :=
  let n := nvBytes len
  let p0 := max 16 fill
  let p := if kind = 2 ∧ p0 / 256 ≠ (p0 + n - 1) / 256 then ceilDiv p0 256 * 256 else p0
  if p + n ≤ 4096 then (0, p + n) else (1, 16 + n)

/-- Append one copy of a record at the head of both areas (R507): SEQ rises by one, the heads move on. -/
def nvAppend (s : State) (kind id : Nat) (data : List Byte) : State :=
  s.onRecs (fun r =>
    let p0 := nvPlace kind data.length r.nvFill0
    let p1 := nvPlace kind data.length r.nvFill1
    { r with
      nv := r.nv ++ [{ kind := kind, id := id, data := data, seq := r.nvSeq, pcc := r.pcc, opsec := r.opsec, copy0 := true,
                       copy1 := true, sect0 := r.nvHead0 + p0.1, sect1 := r.nvHead1 + p1.1 }]
      nvSeq := (r.nvSeq + 1) % 2 ^ 32, nvFill0 := p0.2, nvFill1 := p1.2, nvHead0 := r.nvHead0 + p0.1
      nvHead1 := r.nvHead1 + p1.1, erased0 := r.erased0 - p0.1, erased1 := r.erased1 - p1.1 })

/-- A record that R508 rejects: both copies valid, their payloads different. -/
def NvRec.duplicate (x : NvRec) : Bool := x.copy0 && x.copy1 && x.differ

/-- The record selected for an ID: the highest SEQ with a valid copy that is not rejected (R508); none in an unusable store. -/
def Records.selected (r : Records) (id : Nat) : Option NvRec :=
  if r.nvState = 3 then none
  else (r.nv.filter (fun x => x.id == id && (x.copy0 || x.copy1) && !x.duplicate)).getLast?

/-- How many records the selection for an ID rejects before it ends (R508). -/
def Records.rejected (r : Records) (id : Nat) : Nat :=
  ((r.nv.reverse.filter (fun x => x.id == id && (x.copy0 || x.copy1))).takeWhile NvRec.duplicate).length

/-- Each rejection of a selection is recorded and counted in NV_DUPS (R508, R511). -/
def noteRejected (s : State) (id : Nat) : State :=
  let n := if s.recs.nvState = 3 then 0 else s.recs.rejected id
  ((List.range n).foldl (fun t _ => record t (Config.evClass 17 0) 0) s).onRecs (fun r =>
    { r with nvDups := (r.nvDups + n) % 2 ^ 16 })

/-- An area with fewer than 8 erased sectors ahead compacts (R509): STATE follows. -/
def nvDue (s : State) : State :=
  s.onRecs (fun r =>
    { r with nvState := if r.nvState = 3 then 3 else if r.erased0 < 8 ∨ r.erased1 < 8 then 2 else 1 })

/-- NV.PUT of the record in A from the buffer at B, C bytes (R507, R509); BUSY in an unusable store (log 102). -/
def nvPutBody (e c : Nat) (s : State) (w : SWord) : State :=
  let x := s.ctx e c
  let id := (x.reg w.a).toNat
  let n := (x.reg w.c).toNat
  let (b, st) := s.bufArg x.queue (x.reg w.b) n
  let r := s.recs
  if 0xF000 ≤ id ∨ n = 0 ∨ 200 < n then complete s e c Config.BAD_OPERAND 0
  else if st ≠ Config.OK then complete s e c st 0
  else if r.nvState = 2 ∨ r.nvState = 3 ∨ r.erased0 < 4 + (nvPlace 1 n r.nvFill0).1 ∨ r.erased1 < 4 + (nvPlace 1 n r.nvFill1).1 then
    complete s e c Config.BUSY 0
  else complete (nvDue (nvAppend s 1 id (s.bufBytes b n))) e c Config.OK 0

/-- NV_PUT (R507). -/
def execNvPut (e c : Nat) (s : State) : Out := .next (synStep s e c (fun w => w.op == 0x5F) (nvPutBody e c))

/-- NV.GET of the record in A to the buffer at B of 200 bytes; D takes its length (R508). -/
def nvGetBody (e c : Nat) (s0 : State) (w : SWord) : State :=
  let x := s0.ctx e c
  let s := noteRejected s0 (x.reg w.a).toNat
  match s.recs.selected (x.reg w.a).toNat with
  | none => complete s e c Config.BAD_OPERAND 0
  | some r =>
    let (b, st) := s.bufArg x.queue (x.reg w.b) (max 200 r.data.length)
    if st ≠ Config.OK then complete s e c st 0
    else completeD (s.bufStore b r.data) e c w.d (BitVec.ofNat 64 r.data.length) Config.OK 0

/-- NV_GET (R508). -/
def execNvGet (e c : Nat) (s : State) : Out := .next (synStep s e c (fun w => w.op == 0x60) (nvGetBody e c))

/-- NV_COMPACTION of an area: the selected records of its oldest sector are appended again, then that sector is erased (R509). -/
def nvCompaction (s : State) (area : Nat) : State :=
  let r := s.recs
  let erased := if area = 0 then r.erased0 else r.erased1
  let sect := fun (x : NvRec) => if area = 0 then x.sect0 else x.sect1
  let has := fun (x : NvRec) => if area = 0 then x.copy0 else x.copy1
  if 1 < area ∨ 8 ≤ erased ∨ r.nvState ≠ 2 then s
  else
    let head := if area = 0 then r.nvHead0 else r.nvHead1
    let old := head + erased - 126
    let mine := r.nv.filter (fun x => has x && sect x == old)
    let keep := mine.filter (fun x => r.selected x.id == some x)
    let t := keep.foldl (fun t x => nvAppend t x.kind x.id x.data) s
    nvDue (t.onRecs (fun r =>
      { r with
        nv := (r.nv.map (fun x =>
          if area = 0 ∧ x.sect0 = old then { x with copy0 := false }
          else if area = 1 ∧ x.sect1 = old then { x with copy1 := false }
          else x)).filter (fun x => x.copy0 || x.copy1)
        erased0 := if area = 0 then r.erased0 + 1 else r.erased0
        erased1 := if area = 1 then r.erased1 + 1 else r.erased1 }))

/-- NV_COMPACTION (R509). -/
def execNvCompaction (area : Nat) (s : State) : Out := .next (nvCompaction s area)

/-! ## Tally, clock and the power-down save (R487 to R491, R510) -/

/-- The power-cycle count rises by one (R487, R489, R491): a sector without an unset cell, or whose next cell has failed its
verify 3 times, is switched first, its base record appended. -/
def countPower (s : State) (cellFails : Bool) : State :=
  let t := if s.recs.tallyCells < 4096 ∧ cellFails = false ∨ s.recs.nvState = 3 then s
    else
      let base := s.recs.nvBase + s.recs.tallyCells
      let sect := !s.recs.tallySect
      (nvAppend s 5 0xF0FF (bytesOf (base % 2 ^ 32 + flag sect * 2 ^ 32) 5)).onRecs (fun r =>
        { r with nvBase := base, tallySect := sect, tallyCells := 0 })
  headerUpdate (t.onRecs (fun r =>
    { r with tallyCells := r.tallyCells + 1, pcc := (r.nvBase + r.tallyCells + 1) % 2 ^ 32 }))

/-- The records of a power-down save in their order (R510): clock, histograms, the class blocks that have changed. -/
def State.saveList (s : State) : List (Nat × Nat × List Byte) :=
  let r := s.recs
  (2, 0xF000, bytesOf (r.opsec % 2 ^ 40 + r.pcc % 2 ^ 32 * 2 ^ 64) 12)
    :: (List.range 16).map (fun h => (3, 0xF001 + h, ((s.block (1 + h)).drop 4).take 120))
    ++ ((List.range 19).filter (fun c => r.changedClasses.contains c)).map (fun c =>
      (4, 0xF020 + c, ((s.block (17 + c)).drop 16).take 512))

/-- A record whose write is abandoned (R453, R510): nothing of it stands, or copy 0 without its COMMIT, or copy 0 alone; which,
the spec does not give (log 1). -/
def nvAbandon (s : State) (x : Nat × Nat × List Byte) : State :=
  let stage := s.freeVal % 3
  let t := s.burn 1
  if stage = 0 then t
  else
    (nvAppend t x.1 x.2.1 x.2.2).onRecs (fun r =>
      { r with nv := r.nv.map (fun (y : NvRec) =>
          if y.seq = s.recs.nvSeq then { y with copy0 := stage == 2, copy1 := false } else y) })

/-- The power-down save: the first n records commit and the next is abandoned; SAVED and SAVE_CUT report it (R510). -/
def saveRecords (s : State) (n : Nat) : State :=
  let l := s.saveList
  let k := if s.recs.nvState = 3 then 0 else min n l.length
  let t0 := (l.take k).foldl (fun t x => nvAppend t x.1 x.2.1 x.2.2) s
  let t := match l[k]? with
    | some x => if s.recs.nvState = 3 then t0 else nvAbandon t0 x
    | none => t0
  headerUpdate (t.onRecs (fun r =>
    { r with
      saved := k % 2 ^ 16, saveCut := decide (k < l.length)
      changedClasses := ((List.range 19).filter (fun c => r.changedClasses.contains c)).drop (k - 17) }))

/-- The scan of the NV store at a power-up (R504, R506, R508): which copies no longer verify, which records' copies differ,
and whether the part is usable. -/
def norScan (s : State) (usable : Bool) (lost : List (Nat × Nat)) (differ : List Nat) : State :=
  s.onRecs (fun r =>
    { r with
      nvState := if usable then 1 else 3
      nv := r.nv.map (fun (x : NvRec) =>
        { x with
          copy0 := x.copy0 && !lost.contains (x.seq, 0), copy1 := x.copy1 && !lost.contains (x.seq, 1)
          differ := x.differ || differ.contains x.seq }) })

/-- The clock at a power-up (R488): operating seconds of the selected clock record. -/
def loadClock (s0 : State) : State :=
  let s := noteRejected s0 0xF000
  match s.recs.selected 0xF000 with
  | none => s.onRecs (fun r => { r with opsec := 0 })
  | some x => s.onRecs (fun r => { r with opsec := numOf (x.data.take 5) })

/-- Operating seconds at step 2 of a rebuild (R488): the stamp table's latest entry, and 3,600 more where the last power-down
saved no clock. -/
def raiseClock (s : State) : State :=
  let last := s.medium.stamps.foldl (fun m p => max m p.1) 0
  let clean := match s.recs.selected 0xF000 with
    | some x => numOf ((x.data.drop 8).take 4) + 1 == s.recs.pcc
    | none => false
  s.onRecs (fun r => { r with opsec := max r.opsec (if clean then last else last + 3600) })

/-- A histogram read back from the payload of its record: bytes 4 to 123 of its block (R493, R506). -/
def histOf (n : Nat) : Hist :=
  { head := 0, bins := (List.range 16).map (fun i => bitsOf n (63 + 32 * i) (32 + 32 * i)), min := bitsOf n 575 544,
    max := bitsOf n 607 576, at0 := (bitsOf n 639 608, bitsOf n 679 640) }

/-- An event-class entry read back from its 32 bytes. -/
def evOf (n : Nat) : EvEntry :=
  { count := bitsOf n 31 0, detail := bitsOf n 63 32, first := (bitsOf n 95 64, bitsOf n 135 96),
    last := (bitsOf n 167 136, bitsOf n 207 168) }

/-- The IDs of the recorder's own records (Table 17-9). -/
def recorderIds : List Nat := (List.range 16).map (0xF001 + ·) ++ (List.range 19).map (0xF020 + ·)

/-- The recorder is reloaded at a power-up from the selected records, and what the Goose island kept is entered (R452, R493,
R498). -/
def reloadRecorder (s : State) : State :=
  let r := s.recs
  let data := fun (id : Nat) => (r.selected id).map (fun x => numOf x.data)
  let entries := (List.range 19).flatMap (fun c =>
    match data (0xF020 + c) with
    | none => []
    | some n => (List.range 16).map (fun k => (16 * c + k, evOf (bitsOf n (256 * k + 255) (256 * k)))))
  let t := s.onRecs (fun r =>
    { r with
      frozen := false, changedClasses := [], heads := List.replicate 19 0
      hists := (List.range 16).map (fun h => match data (0xF001 + h) with
        | some n => histOf n
        | none => { bins := List.replicate 16 0 })
      classes := entries.filter (fun p => p.2.count != 0) })
  let t1 := s.goose.held.foldl (fun t e => record t e.cls e.detail) (recorderIds.foldl noteRejected t)
  nvDue (t1.onGoose (fun g => { g with held := [] }))

end Sys2Proof.Machine
end

