-- ==== Sys2Proof/Machine/Bus.lean ====
section
/-! DEFINITION. The media bus's alerts and status records (13), the operating second (17), the JTAG TAP (18). -/

namespace Sys2Proof.Machine

open Sys2Proof

/-! ## Media bus (R392, R403, R413) -/

/-- DIE_ALERT: an assertion of a running channel's ALERT_N is serviced; the pin stays low until a STATUS read (R403, R413). -/
def dieAlert (s : State) (ch : Nat) : State :=
  if ch < s.chanCount ∧ (s.chan ch).state = 2 then
    s.updChan ch (fun c => { c with alerts := (c.alerts + 1) % 2 ^ 32, alertN := false })
  else s

/-- DIE_ALERT (R403). -/
def execDieAlert (ch : Nat) (s : State) : Out := .next (dieAlert s ch)

/-- A die as a status record describes it (Table 13-4). -/
def Die.ofStatus (d : Die) (n : Nat) : Die :=
  { d with
    pstate := (List.range 4).map (fun p => bitsOf n (4 * p + 3) (4 * p))
    pres := (List.range 4).map (fun p => bitsOf n (4 * p + 19) (4 * p + 16))
    susp := bitOf n 32, autoerr := bitOf n 33, initing := bitOf n 34, illop := bitsOf n 47 40 }

/-- Frames of a plane of a die with a program outstanding: page copies and in-place programs, journal slots. -/
def State.programsOn (s : State) (ch die plane : Nat) : List Nat :=
  let here := fun (fx : Nat) =>
    let f := s.frame fx
    f.ch == ch && f.die == die && f.plane == plane
  let copies := (s.maps.moves.filter (fun p => p.2.stage == 0 && mapped p.2.new)).map (fun p => fxOf p.2.new)
  let journal := ([s.maps.jbody, s.maps.jseal].filterMap id).map (fun r => r.place / 512)
  ((copies ++ journal).filter here).eraseDups

/-- DIE_STATUS_RECORD: STATUS returns an accepted die's record and releases ALERT_N (R103, R403); a command refused, or a program that
would have cleared a cell, is counted and recorded (R392, R401); a plane that reports PROG_FAIL leaves the frames that it was programming
due to retire (Table 7-6b). The results themselves are counted by the commands that report a program's or a clear's outcome (log 91). -/
def dieStatusRecord (s : State) (ch die : Nat) (rec : BitVec 128) : State :=
  let d := (s.chan ch).dies.getD die {}
  if ch < s.chanCount ∧ (s.chan ch).state = 2 ∧ d.present = true ∧ d.accepted = true then
    let n := rec.toNat
    let pres := fun (p : Nat) => bitsOf n (4 * p + 19) (4 * p + 16)
    let t := s.updChan ch (fun c => { c with alertN := true, dies := updAt c.dies die (fun d => d.ofStatus n) })
    let bad := bitsOf n 47 40 != 0 || (List.range 4).any (fun p => pres p == 6 || pres p == 4)
    let failed := ((List.range 4).filter (fun p => pres p == 2)).flatMap (fun p => s.programsOn ch die p)
    failed.foldl frameDue
      (if bad then record (t.updChan ch (fun c => { c with illegal := (c.illegal + 1) % 2 ^ 16 })) (Config.evClass 13 0) ch else t)
  else s

/-- DIE_STATUS_RECORD (R403). -/
def execDieStatusRecord (ch die : Nat) (record : BitVec 128) (s : State) : Out := .next (dieStatusRecord s ch die record)

/-! ## Operating second (R427, R487, R494) -/

/-- The four samples of each second (Table 17-1): dirty share of the budget, highest temperature, lowest speed index, VDD_CORE; a
temperature below 0 counts as 0. -/
def secondSamples (s : State) : State :=
  let g := s.goose
  let hot := g.sites.foldl (fun (m : Int) x => max m x.temp) 0
  let slow := g.sites.foldl (fun m x => min m x.speed) ((g.sites.head?.map (·.speed)).getD 0)
  let s1 := sample s 8 (4096 * s.cache.dirty / max 1 s.cache.budget)
  sample (sample (sample s1 9 hot.toNat) 10 slow) 11 (s.rail 0).sense

/-- OPERATING_SECOND: from the end of phase 0 until the start of power-down (R487); the scrub passes go on with what their reads find. -/
def operatingSecond (s : State) (w : ScrubFinds) : State :=
  if s.goose.upStep = 8 ∧ s.goose.downStep = 0 ∧ s.boot.cold ≠ 2 then
    let s1 := secondSamples (headerUpdate (s.onRecs (fun r => { r with opsec := (r.opsec + 1) % 2 ^ 40 })))
    let s2 := { s1 with keys := { s1.keys with pipes := s1.keys.pipes.map (fun n => if n < 3 then 0 else n) } }
    let s3 := s2.onMedium (fun m =>
      { m with chans := m.chans.map (fun c => if c.calLoaded then { c with calAge := min 0xFFFF (c.calAge + 1) } else c) })
    if s3.live && s3.pers.rebuild == 11 then (List.range s3.chanCount).foldl (scrubSecond w) s3 else s3
  else s

/-- OPERATING_SECOND (R487). -/
def execOperatingSecond (found : List (Nat × Decoded)) (badHeaders : List Nat) (shifts : List (Nat × Nat)) (s : State) : Out :=
  .next (operatingSecond s ⟨found, badHeaders, shifts⟩)

/-! ## JTAG (R528) -/

/-- JTAG_INSTRUCTION: 0 BYPASS, 1 IDCODE, 2 SAMPLE/PRELOAD, 3 EXTEST, 4 CLAMP, 5 HIGHZ; any other value is BYPASS (log 28). The TAP
answers while VDD_IO and VDD_CORE are good (Table 16-7). -/
def jtagInstruction (s : State) (ir : Nat) : State :=
  if (s.rail 0).on && (s.rail 2).on then { s with boot := { s.boot with tapIr := if ir < 6 then ir else 0 } } else s

/-- JTAG_INSTRUCTION (R528). -/
def execJtagInstruction (ir : Nat) (s : State) : Out := .next (jtagInstruction s ir)

/-- JTAG_TAP_RESET: the TAP only; its instruction is IDCODE again (R528, Table 16-4). -/
def execJtagTapReset (s : State) : Out := .next { s with boot := { s.boot with tapIr := 1 } }

end Sys2Proof.Machine
end

