-- ==== Sys2Proof/Machine/Streams.lean ====
section
/-! DEFINITION. Streams: their definition and admission (R318, R319, R321, R341), start and stop (R323), the page fetches
(R186, R187) and the release of STRM flits (R188, R189, R364, R365). -/

namespace Sys2Proof.Machine

open Sys2Proof

/-! ## Definition -/

/-- Stream n, if defined. -/
def State.strm (s : State) (n : Nat) : Option Strm := Tbl.find s.eng.streams n

/-- Put a stream. -/
def State.putStrm (s : State) (n : Nat) (x : Strm) : State :=
  { s with eng := { s.eng with streams := Tbl.put s.eng.streams n x } }

/-- Whether a request is a fetch of stream n. -/
def Req.ofStrm (n : Nat) (r : Req) : Bool :=
  match r.who with
  | .strm m _ => m == n
  | _ => false

/-- Undefine a stream: its fetches are withdrawn and its commitment ends with it (R302, R323); the channels whose tables HS6 swaps. -/
def undefStrm (s : State) (n : Nat) : State :=
  match s.strm n with
  | none => s
  | some x =>
    let w := withdraw s (Req.ofStrm n)
    let s1 := { w with eng := { w.eng with streams := Tbl.del w.eng.streams n } }
    match x.commit with
    | none => s1
    | some k => (dropCommit s1 k).1

/-- Stop and undefine a stream, its owner told ABORTED (R323). -/
def abortStrm (s : State) (n : Nat) : State :=
  match s.strm n with
  | none => s
  | some x => notify (undefStrm s n) x.owner 0x04 Config.ABORTED n

/-- Stop and undefine every stream that a test picks. -/
def abortStrms (s : State) (f : Strm → Bool) : State :=
  ((s.eng.streams.filter (fun p => f p.2)).map (·.1)).foldl abortStrm s

/-- A stream to be defined: number, source, destination, rate, generator and options. -/
def defineStrm (s : State) (e c n region port session rate : Nat) (g : Gen) (best : Bool) (trig : Option Nat)
    (d : Option (BitVec 5)) : State :=
  let x := s.ctx e c
  let st : Strm :=
    { region := region, port := port, session := session, rate := rate, gen := g, best := best, commit := none,
      owner := x.queue, label := x.label, trig := trig }
  let free := match trig with
    | some b => s.claimOk x.queue b
    | none => true
  let claim := fun (t : State) => match trig with
    | some b => if Tbl.has t.eng.claims b then t else trigIdle (claimFor t x.queue b) b
    | none => t
  let refuse := fun (code detail : Nat) => match d with
    | some r => refuseAdmit s e c r code detail
    | none => if code = Config.LEDGER_FULL then completeD s e c 0 (BitVec.ofNat 64 detail) code 0 else complete s e c code 0
  if !free then complete s e c Config.CONFLICT 0
  else if best then
    let t := claim (s.putStrm n st)
    completeD t e c (d.getD 0) (BitVec.ofNat 64 0xFFFFFFFF) Config.OK 0
  else
    let k : Commit :=
      { label := x.label, kind := 3, region := region, rate := rate, ports := 2 ^ port, headroom := 0,
        owner := some x.queue, gen := 0, stream := some g }
    match tryAdmit s k with
    | .inl (code, detail) => refuse code detail
    | .inr (m, chans, t) =>
      waitSwap (claim (t.putStrm n { st with commit := some m })) e c chans
        (some (m + 1024 * Tbl.getD t.regul.gens m 0))

/-- Whether a stream's number, region, destination and rate may stand (R318); the lines of the region. -/
def State.strmOk (s : State) (n region port session rate : Nat) : Option Nat :=
  match s.openRegion region with
  | none => none
  | some r =>
    if 1024 ≤ n ∨ (s.strm n).isSome ∨ rate = 0 ∨ 160000 < rate ∨ s.portCount ≤ port ∨ (s.sess port session).isOpen = false
    then none
    else some (r.size / 256)

/-- STRM.DEF: the stream block of Table 11-9 and its generator. -/
def strmDefBody (e c : Nat) (s : State) (w : SWord) : State :=
  let x := s.ctx e c
  let (a, st) := s.bufArg x.queue (x.reg w.a) 32
  if st ≠ Config.OK then complete s e c st 0
  else
    let b := s.bufNum a 32
    let best := bitOf b 128
    let gen := bitsOf b 103 64
    if bitsOf b 15 10 ≠ 0 ∨ bitsOf b 31 29 ≠ 0 ∨ bitsOf b 127 104 ≠ 0 ∨ bitsOf b 255 132 ≠ 0 ∨ (best ∧ w.expert = false) then
      complete s e c Config.BAD_OPERAND 0
    else if !s.fullService && !best then complete s e c Config.NOT_READY 0
    else
      let gst := s.bufCheck x.queue gen 64
      match s.strmOk (bitsOf b 9 0) (bitsOf b 23 16) (bitsOf b 25 24) (bitsOf b 28 26) (bitsOf b 63 32) with
      | none => complete s e c Config.BAD_OPERAND 0
      | some lines =>
        if gen % 64 ≠ 0 then complete s e c Config.BAD_OPERAND 0
        else if gst ≠ Config.OK then complete s e c gst 0
        else
          let g := genOf (s.bufNum gen 64)
          if genReserved (s.bufNum gen 64) ≠ 0 ∨ genOk g lines = false
              ∨ (g.ind ∧ s.bufRange (bufAddr x.queue g.tbuf) (8 * g.tlen) = false) then
            complete s e c Config.BAD_OPERAND 0
          else
            defineStrm s e c (bitsOf b 9 0) (bitsOf b 23 16) (bitsOf b 25 24) (bitsOf b 28 26) (bitsOf b 63 32) g best
              (if bitOf b 129 then some (bitsOf b 131 130) else none) (some w.d)

/-- STRM_DEF (R318). -/
def execStrmDef (e c : Nat) (s : State) : Out := .next (synStep s e c (fun w => w.op == 0x28) (strmDefBody e c))

/-! ## Start, stop, status -/

/-- A stream starts from the first step of its first pass; its table is read now (R320, R323). -/
def startStrm (s : State) (n : Nat) (x : Strm) : State :=
  let tab := if x.gen.ind then
      (List.range x.gen.tlen).map (fun i => s.bufNum (bufAddr x.owner (x.gen.tbuf + 8 * i)) 8 % 2 ^ 36)
    else []
  s.putStrm n { x with
    state := 2, t0 := s.regul.refTicks, excluded := 0, fetchNext := 0, ahead := [], fetched := [], flits := 0, bytes := 0,
    table := tab }

/-- STRM.GO of a stream, from a program or a house routine. -/
def strmGo (s : State) (e c n : Nat) : State :=
  match s.strm n with
  | none => complete s e c Config.BAD_OPERAND 0
  | some x =>
    if !s.sameSession x.owner (s.ctx e c).queue then complete s e c Config.DENIED 0
    else if x.state = 2 then complete s e c Config.BAD_OPERAND 0
    else complete (startStrm s n x) e c Config.OK 0

/-- STRM_GO (R323). -/
def execStrmGo (e c : Nat) (s : State) : Out :=
  .next (synStep s e c (fun w => w.op == 0x29) (fun s w => strmGo s e c ((s.ctx e c).reg w.a).toNat))

/-- A stream becomes idle: no further flit is released, and its fetches are withdrawn (R323). -/
def idleStrm (s : State) (n : Nat) (x : Strm) : State :=
  (withdraw s (Req.ofStrm n)).putStrm n { x with state := 1, fetchNext := 0, ahead := [], fetched := [] }

/-- Whether a queue may stop a stream: a TENANT queue only one that its session's queues own (Table 10-9). -/
def State.mayStop (s : State) (q : Nat) (x : Strm) : Bool := s.queueAdmin q || s.sameSession x.owner q

/-- STRM.STOP without DROP (R323). -/
def strmStopBody (e c : Nat) (s : State) (w : SWord) : State :=
  let x := s.ctx e c
  let n := (x.reg w.a).toNat
  match s.strm n with
  | none => complete s e c Config.BAD_OPERAND 0
  | some y =>
    if !s.mayStop x.queue y then complete s e c Config.DENIED 0 else complete (idleStrm s n y) e c Config.OK 0

/-- STRM_STOP (R323). -/
def execStrmStop (e c : Nat) (s : State) : Out :=
  .next (synStep s e c (fun w => w.op == 0x2A && !w.bit 0) (strmStopBody e c))

/-- STRM.STOP with DROP also undefines the stream and drops its commitment (R323). -/
def strmStopDropBody (e c : Nat) (s : State) (w : SWord) : State :=
  let x := s.ctx e c
  let n := (x.reg w.a).toNat
  match s.strm n with
  | none => complete s e c Config.BAD_OPERAND 0
  | some y =>
    if !s.mayStop x.queue y then complete s e c Config.DENIED 0 else complete (undefStrm s n) e c Config.OK 0

/-- STRM_STOP_DROP (R323). -/
def execStrmStopDrop (e c : Nat) (s : State) : Out :=
  .next (synStep s e c (fun w => w.op == 0x2A && w.bit 0) (strmStopDropBody e c))

/-- STRM.STAT: state, admission, revocation, bytes and passes released (Table 11-8). -/
def strmStatBody (e c : Nat) (s : State) (w : SWord) : State :=
  let n := ((s.ctx e c).reg w.a).toNat
  if 1024 ≤ n then complete s e c Config.BAD_OPERAND 0
  else
    match s.strm n with
    | none => completeD s e c w.d 0 Config.OK 0
    | some x =>
      completeD s e c w.d
        (BitVec.ofNat 64 (x.state + 4 * flag x.commit.isSome + 8 * flag x.revoked + 256 * x.bytes)) Config.OK
        (x.bytes / (256 * genPeriod x.gen))

/-- STRM_STAT (R335). -/
def execStrmStat (e c : Nat) (s : State) : Out := .next (synStep s e c (fun w => w.op == 0x2B) (strmStatBody e c))

/-! ## Fetches (R186, R187) -/

/-- Lines a stream runs for; none without end. -/
def Strm.total (x : Strm) : Option Nat := if x.gen.passes = 0 then none else some (x.gen.passes * genPeriod x.gen)

/-- Line offset of the k-th line of a stream (R320). -/
def Strm.lineOff (x : Strm) (k : Nat) : Nat :=
  let v := genStep x.gen (k % genPeriod x.gen)
  if x.gen.ind then x.table.getD (v - x.gen.wrapLo) 0 else v

/-- Whether line k belongs to a stream's run. -/
def Strm.inRun (x : Strm) (k : Nat) : Bool :=
  match x.total with
  | none => true
  | some n => decide (k < n)

/-- Nanoseconds of a stream's own time: since t0, the excluded intervals left out (R189, R365). -/
def State.strmNs (s : State) (x : Strm) : Nat := nsOf (s.regul.refTicks - x.t0 - x.excluded)

/-- Lines that one page fetch reads from line k on: those of its page within the next 16 addresses (R186). -/
def Strm.fetchSet (x : Strm) (k : Nat) : List Nat :=
  let page := x.lineOff k / 16
  ((List.range 16).map (fun i => k + i)).filter (fun j => x.inRun j && !x.ahead.contains j && x.lineOff j / 16 == page)

/-- The first line from k on that is not fetched yet. -/
def nextUnfetched (l : List Nat) : Nat → Nat → Nat
  | 0, k => k
  | n + 1, k => if l.contains k then nextUnfetched l n (k + 1) else k

/-- Latest issue time of line k of a stream, ns from its t0 (R187). -/
def Strm.issueNs (x : Strm) (k : Nat) : Nat := 256 * (k - 1) * 1000 / x.rate

/-- Lead of a stream from a region, ns: an AUTO or T source counts as T-mode (chapter 6, R186). -/
def leadNs (r : Region) : Nat := if r.density = 0 then 2000 else 3000

/-- Deadline of line k of an admitted stream, ns: its issue time plus the lead, less the terms of Table 6-8 behind the channel window. The
issue time taken is the latest that R187 permits (DEDUCED, log 86). -/
def Strm.deadline (x : Strm) (r : Region) (k : Nat) : Nat := nsOf x.t0 + x.issueNs k + leadNs r - 96

/-- The request for line j of a page fetch whose first line is k (R186, R187): a fetch of an admitted stream carries a deadline, every slot
that of the first one past 14,000 B/us (R191). -/
def State.fetchReq (s : State) (n : Nat) (x : Strm) (r : Region) (k j : Nat) (dram : Dram) : Req :=
  let fast := decide (14000 < x.rate)
  { who := .strm n j, op := .rd256, addr := r.base + 256 * x.lineOff j, label := x.label,
    sesLabel := s.queueSessLabel x.owner, admin := s.queueAdmin x.owner, at0 := s.regul.refTicks, dram := dram
    deadline := if x.commit.isSome then some (x.deadline r (if fast then k else j)) else none
    first := x.commit.isSome && (fast || j == k), group := some (n + 1024 * k) }

/-- STREAM_FETCH_ISSUE: the next line's page fetch falls due and is issued, its slots in generator order (R186, R187); a table entry beyond
the region stops the stream (R320). -/
def streamFetchIssue (s : State) (n : Nat) (dram : Dram) : State :=
  match s.strm n with
  | none => s
  | some x =>
    let k := x.fetchNext
    if !s.live || x.state ≠ 2 || !x.inRun k || decide (nsOf (s.regul.refTicks - x.t0) < x.issueNs k) then s
    else
      match s.region x.region with
      | none => s
      | some r =>
        if r.size / 256 ≤ x.lineOff k then notify (idleStrm s n x) x.owner 0x04 Config.BAD_OPERAND n
        else
          let l := (x.fetchSet k).filter (fun j => decide (x.lineOff j < r.size / 256))
          let all := x.ahead ++ l
          let nx := nextUnfetched all all.length k
          let s1 := s.putStrm n { x with fetchNext := nx, ahead := all.filter (fun j => decide (nx < j)) }
          l.foldl (fun t j => enterTable t (s.fetchReq n x r k j (if j = k then dram else .ok))) s1

/-- STREAM_FETCH_ISSUE (R187). -/
def execStreamFetchIssue (n : Nat) (dram : Dram) (s : State) : Out := .next (streamFetchIssue s n dram)

/-! ## Release (R188, R364) -/

/-- Status of a fetched line. -/
def Strm.lineSt (x : Strm) (k : Nat) : Nat := ((Tbl.find x.fetched k).map (·.2)).getD Config.OK

/-- Byte i of a stream: of its line, or zero where that line failed (R322, R364). -/
def Strm.byte (x : Strm) (i : Nat) : Nat :=
  match Tbl.find x.fetched (i / 256) with
  | some (d, st) => if st = Config.OK then (d.extractLsb' (8 * (i % 256)) 8).toNat else 0
  | none => 0

/-- STRM flit n of a stream with its data bytes from lo to hi (R364, Table 12-7). -/
def Strm.flit (x : Strm) (n lo hi : Nat) : Msg :=
  let a := x.lineSt (lo / 256)
  let b := x.lineSt ((hi - 1) / 256)
  let st := if a = Config.OK then b else a
  let bytes := (List.range (hi - lo)).map (fun i => BitVec.ofNat 8 (x.byte (lo + i)))
  .strm n x.session ((x.flits + 1) % 2 ^ 32) st (a != Config.OK) (b != Config.OK && b == st) (hi - lo)
    (BitVec.ofNat 896 (numOf bytes))

/-- STREAM_FLIT_RELEASE: flit n leaves on VC2 no earlier than its time, its lines fetched and credit at hand; the last flit
of the last pass makes the stream idle (R188, R323). -/
def streamFlitRelease (s : State) (n : Nat) : State :=
  match s.strm n with
  | none => s
  | some x =>
    let lo := 112 * x.flits
    let hi := match x.total with
      | none => lo + 112
      | some k => min (lo + 112) (256 * k)
    let p := s.port x.port
    let m := x.flit n lo hi
    let ready := (List.range ((hi - 1) / 256 + 1 - lo / 256)).all (fun i => Tbl.has x.fetched (lo / 256 + i))
    if !s.live || x.state ≠ 2 || decide (hi ≤ lo) || !ready || !p.canEmit m || p.txq.any (fun q => q.vc == 2)
        || decide (s.strmNs x * x.rate < lo * 1000) then s
    else
      let per := 256 * genPeriod x.gen
      let starts := lo % per == 0 || decide (lo / per < (hi - 1) / per)
      let s1 := sendMsg s x.port m
      let bad := (List.range ((hi - 1) / 256 + 1 - lo / 256)).filter (fun i =>
        decide (lo ≤ 256 * (lo / 256 + i)) && x.lineSt (lo / 256 + i) != Config.OK)
      let page := fun (i : Nat) => match s.region x.region with
        | some r => (r.base + 256 * x.lineOff (lo / 256 + i)) / 4096 % 2 ^ 32
        | none => 0
      let s2 := bad.foldl (fun t i => record t (Config.evClass 10 1) (page i)) s1
      let s3 := match x.trig with
        | some b => if starts && Tbl.find s2.eng.claims b == some x.owner then trigHigh s2 b else s2
        | none => s2
      let y := { x with
        flits := x.flits + 1, bytes := x.bytes + (hi - lo), fetched := x.fetched.filter (fun p => decide (hi / 256 ≤ p.1)) }
      if x.total = some (hi / 256) ∧ hi % 256 = 0 then notify (idleStrm s3 n y) x.owner 0x04 Config.OK n
      else s3.putStrm n y

/-- STREAM_FLIT_RELEASE (R188). -/
def execStreamFlitRelease (n : Nat) (s : State) : Out := .next (streamFlitRelease s n)

/-! ## H.STREAM_LOOP (R313, R314) -/

/-- The smallest power of two at or above a number. -/
def pow2Above (n : Nat) : Nat := if n ≤ 1 then 1 else 2 ^ (Nat.log2 (n - 1) + 1)

/-- The generator of R314 for a first line, a length and the lines of the region; none where R314 refuses it. -/
def loopGen (f l lines : Nat) : Option Gen :=
  let p := pow2Above l
  if l = 0 ∨ lines < f + l ∨ lines < p then none
  else
    let hi := if f + p ≤ lines then f + p else lines
    some { base := f, ind := false, n0 := l, n1 := 1, n2 := 1, s0 := 1, s1 := 0, s2 := 0, wrapLo := hi - p, wrapHi := hi,
           xmask := 0, passes := 0, tlen := 0, tbuf := 0 }

/-- The two instructions of H.STREAM_LOOP: STRM.DEF to the caller's own session, then STRM.GO. -/
def streamLoopStep (e c : Nat) (s : State) (step : Nat) : State :=
  let x := s.ctx e c
  let g0 := (x.reg 0).toNat
  match step with
  | 0 =>
    match s.queue x.queue with
    | none => complete s e c Config.BAD_OPERAND 0
    | some q =>
      if !s.fullService then complete s e c Config.NOT_READY 0
      else
        match s.strmOk (g0 % 1024) (x.reg 1).toNat q.port q.session (bitsOf g0 63 32) with
        | none => complete s e c Config.BAD_OPERAND 0
        | some lines =>
          match loopGen (x.reg 2).toNat (x.reg 3).toNat lines with
          | none => complete s e c Config.BAD_OPERAND 0
          | some g =>
            if bitsOf g0 31 10 ≠ 0 then complete s e c Config.BAD_OPERAND 0
            else
              let t := s.updCtx e c (fun y => { y with lastArg := g0 % 1024 })
              defineStrm t e c (g0 % 1024) (x.reg 1).toNat q.port q.session (bitsOf g0 63 32) g false none none
  | _ => strmGo s e c x.lastArg

/-- H_STREAM_LOOP (R314). -/
def execHStreamLoop (e c : Nat) (s : State) : Out := .next (houseStepOf s e c 8 (streamLoopStep e c))

end Sys2Proof.Machine
end

