-- ==== Sys2Proof/Machine/Queues.lean ====
section
/-! DEFINITION. Queues, descriptors, completions and sessions (R298 to R309, R372): the fetch of a descriptor, QOPEN,
QCLOSE, PLOAD, the completion entry, the notification that leaves, and what closes with a queue or a session. -/

namespace Sys2Proof.Machine

open Sys2Proof

/-! ## What a context leaves behind -/

/-- Whether a request belongs to a context. -/
def Req.ofCtx (e c : Nat) (r : Req) : Bool := r.who == .eng e c || r.who == .post e c

/-- An RGN.DROP that ends before its region's lines are discarded leaves the region open again: no region state is changed (R14). -/
def reopen (s : State) (e c : Nat) : State :=
  match (s.ctx e c).wait with
  | .rgnDrain idx => s.onMaps (fun m => { m with regions := Tbl.upd m.regions idx (fun r => { r with closing := false }) })
  | _ => s

/-- Requests of a context that have not taken effect are withdrawn, and what its instruction has begun is undone (R14). -/
def dropReqs (s : State) (e c : Nat) : State := withdraw (reopen s e c) (fun r => r.ofCtx e c)

/-- A task ends with ABORTED and no completion entry: its context is IDLE (R302). -/
def killCtx (s : State) (e c : Nat) : State := (dropReqs s e c).putCtx e c {}

/-- Keys of the contexts that hold a task of a queue. -/
def State.ctxsOf (s : State) (q : Nat) : List Nat :=
  (s.eng.ctx.filter (fun p => p.2.state != 0 && p.2.queue == q)).map (·.1)

/-! ## Opening and closing -/

/-- Bytes of the queue pool that a queue takes (R300). -/
def Queue.poolBytes (q : Queue) : Nat := 64 * 2 ^ q.dlog + 32 * 2 ^ q.clog + q.bufMib * 2 ^ 20

/-- Bytes of the queue pool in use (R300, R301). -/
def State.poolUsed (s : State) : Nat := s.eng.queues.foldl (fun a p => a + p.2.poolBytes) 0

/-- Open a queue. -/
def openQueue (s : State) (q : Nat) (x : Queue) : State :=
  { s with eng := { s.eng with queues := Tbl.put s.eng.queues q x } }

/-- A queue closes once its tasks have ended (R302 steps 3 to 6): streams, claims, commitments, rings and buffer. -/
def closeQueue (s : State) (q : Nat) : State :=
  let s1 := ((s.eng.streams.filter (fun p => p.2.owner == q)).map (·.1)).foldl undefStrm s
  let s2 := ((s1.eng.claims.filter (fun p => p.2 == q)).map (·.1)).foldl freeClaim s1
  let g := s2.eng
  { s2 with
    regul := { s2.regul with
      commits := s2.regul.commits.map (fun p => if p.2.owner = some q then (p.1, { p.2 with owner := none }) else p) }
    eng := { g with
      queues := Tbl.del g.queues q, cring := g.cring.filter (fun p => p.1 / 65536 != q)
      buf := g.buf.filter (fun p => p.1 / 2 ^ 28 != q) }
    recs := { s2.recs with ringQ := if s2.recs.ringQ = some q then none else s2.recs.ringQ } }

/-- Queues of a session, its control queue last. -/
def State.queuesOf (s : State) (p n : Nat) : List Nat :=
  let l := (s.eng.queues.filter (fun x => x.2.port == p && x.2.session == n)).map (·.1)
  l.filter (fun q => decide (32 ≤ q)) ++ l.filter (fun q => decide (q < 32))

/-- A session closes (R302, R323, R372): its tasks end with ABORTED and no entry, streams to it are undefined, its queues
close, its control queue last. -/
def closeSession (s : State) (p n : Nat) : State :=
  if (s.sess p n).isOpen then
    let qs := s.queuesOf p n
    let s1 := qs.foldl (fun t q => (t.ctxsOf q).foldl (fun t k => killCtx t (k / 32) (k % 32)) t) s
    let s2 := abortStrms s1 (fun x => x.port == p && x.session == n)
    (qs.foldl closeQueue s2).updSess p n (fun _ => Session.closed)
  else s

/-- Whether the device waits for GO: under link-load, or after no NOR slot held an acceptable image (R479, R480). -/
def State.awaitsGo (s : State) : Bool :=
  !s.boot.linkGo && (s.boot.straps.boot == 1 || (s.boot.straps.boot == 0 && s.boot.bootFail))

/-- Buffer of a control queue in MiB: Q0 has 2 MiB under link-load until the image is committed (R480). -/
def State.controlBuf (s : State) (q : Nat) : Nat := if q = 0 ∧ s.awaitsGo then 2 else 0

/-- A session opens with a privilege; its control queue opens with 64 entries in each ring (R298, R372). -/
def openSession (s : State) (p n : Nat) (admin : Bool) : State :=
  let q := 8 * p + n
  openQueue (s.updSess p n (fun _ => { isOpen := true, admin := admin })) q
    { port := p, session := n, engine := q % 16, label := 0, dlog := 6, clog := 6, bufMib := s.controlBuf q }

/-! ## Fetching a descriptor (R304) -/

/-- Whether a queue has a descriptor that its engine may fetch: one waiting behind ORDER is not (R304). -/
def Queue.ready (x : Queue) (e : Nat) : Bool :=
  x.engine == e && !x.closing && x.head != x.tail && !(x.order && decide (0 < x.busy))

/-- The queue an engine fetches from: the highest label, then in queue-number order behind the last one (R304). -/
def State.nextQueue (s : State) (e : Nat) : Option Nat :=
  let l := s.eng.queues.filter (fun p => p.2.ready e)
  let top := l.foldl (fun m p => max m p.2.label) 0
  let c := (l.filter (fun p => p.2.label == top)).map (·.1)
  let last := Tbl.getD s.eng.lastQ e 4096
  match c.find? (fun q => decide (last < q)) with
  | some q => some q
  | none => c.head?

/-- A descriptor is fetched into an IDLE context: the queue's head moves on and the context takes ARG0 to ARG3, g4 and the
descriptor's fields (Table 10-1, R303, R304). -/
def fetchDesc (s : State) (e c q : Nat) (x : Queue) (d : TaskDesc) : State :=
  let s1 := s.updQueue q (fun x => { x with head := (x.head + 1) % 2 ^ x.dlog, busy := x.busy + 1, order := false })
  let s2 := { s1 with eng := { s1.eng with lastQ := Tbl.put s1.eng.lastQ e q } }
  s2.putCtx e c
    { state := 1, g := d.args ++ [BitVec.ofNat 64 (q + x.head * 2 ^ 12)] ++ List.replicate 27 0, pc := d.entry,
      lastPc := d.entry, queue := q, didx := x.head, tag := d.tag, notify := d.notify, limit := d.limit, label := x.label }

/-- A fetched descriptor completes at once with a code. -/
def descEnds (s : State) (e c code : Nat) : State := endTask s e c code true

/-- Fetch a descriptor of one of some kinds and go on with it; ORDER holds it, and the queue behind it, while an earlier
descriptor of the queue runs (R304). A reserved field or kind completes with BAD_OPERAND (R303). -/
def withDesc (s : State) (e c q : Nat) (d : BitVec 512) (mine : Nat → Bool) (go : State → Queue → TaskDesc → State) :
    State :=
  let t := taskDesc d
  if s.live && decide (e < 16) && decide (c < 32) && (s.ctx e c).state == 0 && s.nextQueue e == some q && mine t.kind then
    match s.queue q with
    | none => s
    | some x =>
      if t.order && decide (0 < x.busy) then s.updQueue q (fun x => { x with order := true })
      else
        let s1 := fetchDesc s e c q x t
        if !t.reservedOk then descEnds s1 e c Config.BAD_OPERAND else go s1 x t
  else s

/-- TASK_RUN: a RUN descriptor starts a program at ENTRY; a reserved KIND completes with BAD_OPERAND (R303). -/
def execTaskRun (e c q : Nat) (d : BitVec 512) (s : State) : Out :=
  .next (withDesc s e c q d (fun k => k == 1 || k == 0 || decide (5 < k))
    (fun s _ t => if t.kind = 1 then s else descEnds s e c Config.BAD_OPERAND))

/-- HCALL: a house routine runs in the context; a TENANT queue may call H.SCRUB_RANGE only (R313, Table 10-9). -/
def hcallRun (e c : Nat) (s : State) (x : Queue) (t : TaskDesc) : State :=
  let n := t.entry % 256
  if 256 ≤ t.entry then descEnds s e c Config.BAD_OPERAND
  else if !(s.sess x.port x.session).admin && n != 4 then descEnds s e c Config.DENIED
  else if n = 0 ∨ 9 < n then descEnds s e c Config.BAD_OPERAND
  else s.updCtx e c (fun y => { y with house := n, hcall := true })

/-- HCALL (R313). -/
def execHcall (e c q : Nat) (d : BitVec 512) (s : State) : Out :=
  .next (withDesc s e c q d (fun k => k == 2) (hcallRun e c))

/-- QOPEN of the queue in ARG0 (R301). -/
def qopenRun (e c q : Nat) (s : State) (x : Queue) (t : TaskDesc) : State :=
  let a := qopenArg (t.args.headD 0)
  let y : Queue :=
    { port := x.port, session := x.session, engine := a.engine, label := a.label, dlog := a.dlog, clog := a.clog,
      bufMib := a.bufMib }
  let z := s.sess x.port x.session
  if 32 ≤ q ∨ a.reservedOk = false ∨ a.queue < 32 ∨ (s.queue a.queue).isSome ∨ a.dlog < 6 ∨ 16 < a.dlog ∨ a.clog < 6
      ∨ 16 < a.clog ∨ 64 < a.bufMib then descEnds s e c Config.BAD_OPERAND
  else if !z.admin && a.label != z.label then descEnds s e c Config.DENIED
  else if 2 ^ 30 < s.poolUsed + y.poolBytes then descEnds s e c Config.BUSY
  else descEnds (openQueue s a.queue y) e c Config.OK

/-- QOPEN (R301). -/
def execQopen (e c q : Nat) (d : BitVec 512) (s : State) : Out :=
  .next (withDesc s e c q d (fun k => k == 3) (qopenRun e c q))

/-- The closings that wait for a queue's tasks go on once none runs (R302). -/
def finishClose (s : State) (q : Nat) : State :=
  match s.queue q with
  | none => s
  | some x =>
    if x.closing && x.busy == 0 then
      (s.waiters (fun w => w == .qclose q)).foldl (fun t k => descEnds t (k / 32) (k % 32) Config.OK) (closeQueue s q)
    else s

/-- QCLOSE of a queue of the same session: it stops fetching and waits for its tasks (R302). -/
def qcloseRun (e c q : Nat) (s : State) (_ : Queue) (t : TaskDesc) : State :=
  let v := (t.args.headD 0).toNat
  if 32 ≤ q ∨ v < 32 ∨ 4096 ≤ v ∨ (s.queue v).isNone then descEnds s e c Config.BAD_OPERAND
  else if !s.sameSession q v then descEnds s e c Config.DENIED
  else finishClose (suspend (s.updQueue v (fun x => { x with closing := true })) e c (.qclose v)) v

/-- QCLOSE (R302). -/
def execQclose (e c q : Nat) (d : BitVec 512) (s : State) : Out :=
  .next (withDesc s e c q d (fun k => k == 4) (qcloseRun e c q))

/-- Whether a context other than one given has its pc or a return address in a range of its engine's table (R303). -/
def State.inTable (s : State) (t lo hi key : Nat) : Bool :=
  s.eng.ctx.any (fun p => p.1 / 32 == t && p.1 != key && p.2.state != 0
    && (p.2.pc :: p.2.stack).any (fun a => decide (lo ≤ a) && decide (a < hi)))

/-- PLOAD: words from a buffer go into an engine's program table (R303). -/
def ploadRun (e c q : Nat) (s : State) (_ : Queue) (t : TaskDesc) : State :=
  let a0 := (t.args.getD 0 0).toNat
  let a1 := (t.args.getD 1 0).toNat
  let n := (t.args.getD 2 0).toNat
  let g := a1 % 16
  let lo := bitsOf a1 28 16
  let a := a0 % 2 ^ 40
  if 32 ≤ q then descEnds s e c Config.BAD_OPERAND
  else if !s.queueAdmin q then descEnds s e c Config.DENIED
  else if bitsOf a0 62 40 ≠ 0 ∨ 8192 < lo + n then descEnds s e c Config.BAD_OPERAND
  else if s.bufCheck q a (8 * n) ≠ Config.OK then descEnds s e c (s.bufCheck q a (8 * n))
  else if s.inTable g lo (lo + n) (ctxKey e c) then descEnds s e c Config.BUSY
  else
    let prog := (List.range n).foldl (fun p i =>
      Tbl.put p (8192 * g + lo + i) (BitVec.ofNat 64 (s.bufNum (a + 8 * i) 8))) s.eng.prog
    descEnds { s with eng := { s.eng with prog := prog } } e c Config.OK

/-- PLOAD (R303). -/
def execPload (e c q : Nat) (d : BitVec 512) (s : State) : Out :=
  .next (withDesc s e c q d (fun k => k == 5) (ploadRun e c q))

/-! ## Completion (R307) -/

/-- The completion entry of a task (Table 10-7). -/
def complEntry (x : Ctx) (phase : Bool) : BitVec 256 :=
  BitVec.ofNat 256 (x.didx % 2 ^ 16 + x.queue % 2 ^ 12 * 2 ^ 16 + flag phase * 2 ^ 28 + x.endCode % 256 * 2 ^ 32
    + x.pc % 2 ^ 13 * 2 ^ 40 + (x.reg 0).toNat * 2 ^ 64 + countOf x.st * 2 ^ 128 + x.tag % 2 ^ 32 * 2 ^ 192)

/-- Unread entries of a completion ring. -/
def Queue.unread (x : Queue) : Nat := (x.ctail + 2 ^ x.clog - x.chead) % 2 ^ x.clog

/-- COMPLETION_WRITE: the entry of an ENDING task is written where the ring has space, QD_CTAIL moves on, the context is
IDLE; NOTIFY sends a COMPLETION record (R303, R307). -/
def completionWrite (s : State) (e c : Nat) : State :=
  let x := s.ctx e c
  if !s.live || x.state != 5 then s
  else
    match s.queue x.queue with
    | none => s
    | some q =>
      if 2 ^ q.clog - 1 ≤ q.unread then s
      else
        let nt := (q.ctail + 1) % 2 ^ q.clog
        let s1 := { s with
          eng := { s.eng with cring := Tbl.put s.eng.cring (65536 * x.queue + q.ctail) (complEntry x q.phase) } }
        let s2 := s1.updQueue x.queue (fun y =>
          { y with ctail := nt, phase := if nt = 0 then !y.phase else y.phase, busy := y.busy - 1 })
        let s3 := s2.putCtx e c {}
        let s4 := if x.notify then notify s3 x.queue 0x01 x.endCode x.didx else s3
        finishClose s4 x.queue

/-- COMPLETION_WRITE (R307). -/
def execCompletionWrite (e c : Nat) (s : State) : Out := .next (completionWrite s e c)

/-- NTF_SEND: the oldest record of a session leaves; at 192 records or fewer one OVERFLOW record carries the count of those
dropped (R308, R309). -/
def ntfSend (s : State) (p n : Nat) : State :=
  let x := s.sess p n
  if !s.running || !(s.port p).up || !x.isOpen then s
  else
    match x.ntfq with
    | [] => s
    | r :: rest =>
      let more : List Ntf := if rest.length ≤ 192 ∧ 0 < x.dropped then
          [⟨0x06, Config.OK, 8 * p + n, false, x.dropped, s.recs.pcc, s.recs.opsec⟩] else []
      sendMsg (s.updSess p n (fun y =>
        { y with ntfq := rest ++ more, dropped := if more.isEmpty then y.dropped else 0 })) p (.ntf n r)

/-- NTF_SEND (R308). -/
def execNtfSend (port session : Nat) (s : State) : Out := .next (ntfSend s port session)

end Sys2Proof.Machine
end

