-- ==== Sys2Proof/Machine/Link.lean ====
section
/-! DEFINITION. The link layer of a port: training, KEEP, credits, replay, DOWN, protocol errors (12). -/

namespace Sys2Proof.Machine

open Sys2Proof

/-- Whether a port of the layout runs a link: from phase 3 of a start until a flush or a reset, with the SerDes rails on (R445,
Tables 16-5, 12-15). -/
def State.linked (s : State) (p : Nat) : Bool :=
  s.serves && decide (p < s.portCount) && (s.rail 9).on && (s.rail 10).on

/-! ## DOWN and retraining (R375, R377, R382) -/

/-- A port leaves the active state: the 100 ms window runs while it could still keep its state (R377). -/
def Port.leave (x : Port) : Port := { x with keepWin := x.keepWin || x.up }

/-- A port sends DOWN with a reason and enters electrical idle (R382). -/
def Port.sendDown (x : Port) (reason : Nat) : Port :=
  { x.leave with state := 0, downTx := reason, elecIdle := true, retryWait := false }

/-- A port starts a training attempt (R375). -/
def Port.train (x : Port) (keep : Bool) : Port :=
  { x.leave with state := 1, phase := 0, elecIdle := false, retryWait := false, keepAsk := keep }

/-- A host request loses its completion: the port it came from has retrained without KEEP (R377). -/
def Req.orphan (p : Nat) (r : Req) : Req :=
  match r.who with
  | .host q _ _ => if q = p then { r with who := .gone p } else r
  | _ => r

/-- Every request of a port loses its completion. -/
def orphanReqs (s : State) (p : Nat) : State :=
  let f := fun (l : List Req) => l.map (Req.orphan p)
  { s with
    cache := { s.cache with
      waiting := f s.cache.waiting, thru := f s.cache.thru
      thruDone := s.cache.thruDone.map (fun q => (Req.orphan p q.1, q.2))
      fills := s.cache.fills.map (fun q => (q.1, { q.2 with reqs := f q.2.reqs })) }
    maps := { s.maps with moves := s.maps.moves.map (fun q => (q.1, { q.2 with thru := f q.2.thru })) }
    pers := { s.pers with lambReads := f s.pers.lambReads, lambWrites := f s.pers.lambWrites }
    regul := { s.regul with held := f s.regul.held, portHeld := f s.regul.portHeld } }

/-- The link-layer state goes: SEQ, ACK and credit counts, replay buffer, unsent messages, tags (R377). -/
def Port.clear (x : Port) : Port :=
  { x with
    txSeq := 0, rxExp := 0, nakOut := false, lastAck := 0, replaySame := 0, replayFrom := 0, replay := [], txq := []
    outTags := [], credit := [0, 0, 0, 0], rem := [0, 0, 0, 0], returned := [0, 0, 0, 0], keepAsk := false,
    keepWin := false }

/-- A port is treated as retrained without KEEP: every session closes, unsent completions and records are discarded (R377). -/
def dropLink (s : State) (p : Nat) : State :=
  (orphanReqs ((List.range 8).foldl (fun t n => closeSession t p n) s) p).updPort p Port.clear

/-! ## Training (Table 12-11) -/

/-- A phase of training ends within its bound; the last one starts the exchange of INIT flits. -/
def trainingPhaseDone (s : State) (p : Nat) : State :=
  let x := s.port p
  if s.linked p && x.state == 1 && decide (x.phase < 4) then
    s.updPort p (fun x =>
      let y := { x with phase := x.phase + 1 }
      if x.phase = 3 then y.control 3 else y)
  else s

/-- TRAINING_PHASE_DONE (R375). -/
def execTrainingPhaseDone (port : Nat) (s : State) : Out := .next (trainingPhaseDone s port)

/-- An attempt overruns a phase: DOWN for 10 ms, recorded; after 8 in a row the port stays in electrical idle (R375). A port
that fails at 56 GBd goes back to 28 GBd, which HS6 learns as a loss of capability (R376). -/
def trainingPhaseTimeout (s : State) (p : Nat) : State :=
  let x := s.port p
  if s.linked p && x.state == 1 then
    let n := min 8 (x.fails + 1)
    let s1 := s.updPort p (fun x =>
      { x with
        state := 0, phase := 0, fails := n, elecIdle := true, retryWait := decide (n < 8), rate56 := false,
        fell := x.fell || x.rate56 })
    let s2 := record s1 (Config.evClass 12 1) p
    if x.rate56 then loseCapability s2 else s2
  else s

/-- TRAINING_PHASE_TIMEOUT (R375). -/
def execTrainingPhaseTimeout (port : Nat) (s : State) : Out := .next (trainingPhaseTimeout s port)

/-- The 10 ms in DOWN after a failed attempt end: a new attempt starts (R375). -/
def trainRetry (s : State) (p : Nat) : State :=
  if s.linked p && (s.port p).retryWait then s.updPort p (fun x => x.train x.keepAsk) else s

/-- TRAIN_RETRY (R375). -/
def execTrainRetry (port : Nat) (s : State) : Out := .next (trainRetry s port)

/-- The partner's TRAIN codewords are detected: a port in DOWN trains, one idle after 8 failures anew (R375). -/
def trainDetected (s : State) (p : Nat) : State :=
  let x := s.port p
  if s.linked p && x.state == 0 && !x.retryWait then
    s.updPort p (fun x => { x.train x.keepAsk with fails := if x.fails = 8 then 0 else x.fails })
  else s

/-- TRAIN_DETECTED (R375). -/
def execTrainDetected (port : Nat) (s : State) : Out := .next (trainDetected s port)

/-- Replay of the flits from a SEQ on: they are sent again in order (R379). -/
def Port.resend (x : Port) (seq : Nat) : Port :=
  let l := x.replay.dropWhile (fun f => f.seq != seq)
  { x with sent := l.reverse ++ x.sent }

/-- Flits up to an acknowledged SEQ leave the replay buffer (R379). -/
def Port.acked (x : Port) (ack : Nat) : Port :=
  if x.replay.any (fun f => f.seq == ack) then
    { x with replay := (x.replay.dropWhile (fun f => f.seq != ack)).drop 1, lastAck := (ack + 1) % 1024 }
  else x

/-- INIT flits have passed in both directions: the port is ACTIVE. With KEEP from both sides the link-layer state stands and
the flits the partner has not acknowledged are replayed; without it the port starts clean with the advertised credits, and
session 0 opens with ADMIN privilege (R368, R372, R377). -/
def linkInit (s : State) (p : Nat) (keep : Bool) (vc2 vc3 ack : Nat) : State :=
  let x := s.port p
  let up := fun (y : Port) =>
    { y with state := 2, phase := 0, fails := 0, keepWin := false, trains := (y.trains + 1) % 2 ^ 32 }
  if s.linked p && x.state == 1 && x.phase == 4 then
    if keep && x.keepAsk then
      s.updPort p (fun y =>
        let z := up (y.acked ack)
        match z.replay.head? with
        | some f => (z.resend f.seq).pump
        | none => z.pump)
    else
      openSession ((dropLink s p).updPort p (fun y => { up y with credit := [0, 0, vc2, vc3] })) p 0 true
  else s

/-- INIT (R377). -/
def execLinkInit (port : Nat) (keep : Bool) (vc2 vc3 ack : Nat) (s : State) : Out :=
  .next (linkInit s port keep vc2 vc3 ack)

/-- The partner sends DOWN: the port goes DOWN; its state stands while the 100 ms window runs (R377, Table 12-16). -/
def downReceived (s : State) (p reason : Nat) : State :=
  if s.linked p then
    s.updPort p (fun x =>
      { x.leave with state := 0, phase := 0, elecIdle := true, downRx := reason % 16, keepAsk := x.keepAsk || x.up })
  else s

/-- DOWN_RECEIVED (R377). -/
def execDownReceived (port reason : Nat) (s : State) : Out := .next (downReceived s port reason)

/-- A port is not ACTIVE with KEEP within 100 ms: it is treated as retrained without KEEP (R377). -/
def keepWindowExpiry (s : State) (p : Nat) : State :=
  let x := s.port p
  if s.linked p && x.keepWin && !x.up then dropLink s p else s

/-- KEEP_WINDOW_EXPIRY (R377). -/
def execKeepWindowExpiry (port : Nat) (s : State) : Out := .next (keepWindowExpiry s port)

/-! ## Credits and SKIP (R358, R368, R369) -/

/-- The host returns credit of a VC: messages that waited for it leave. -/
def creditBack (s : State) (p vc n : Nat) : State :=
  if s.linked p && (s.port p).up then
    s.updPort p (fun x => Port.pump { x with credit := updAt x.credit vc (fun v => v + n) })
  else s

/-- CREDIT (R369). -/
def execCredit (port vc n : Nat) (s : State) : Out := .next (creditBack s port vc n)

/-- A remainder of receive credit that has waited 1 us goes back in a CREDIT flit (R369), none of VC0 while the port withholds it (R28). -/
def creditReturnTimer (s : State) (p vc : Nat) : State :=
  let x := s.port p
  let k := x.rem.getD vc 0
  if s.linked p && x.up && k != 0 && !(x.vc0Held && vc == 0) then
    s.updPort p (fun x =>
      { x.control 1 with rem := updAt x.rem vc (fun _ => 0), returned := updAt x.returned vc (fun v => v + k) })
  else s

/-- CREDIT_RETURN_TIMER (R369). -/
def execCreditReturnTimer (port vc : Nat) (s : State) : Out := .next (creditReturnTimer s port vc)

/-- A SKIP codeword follows 4,096 DATA codewords (R358). -/
def skipSend (s : State) (p : Nat) : State :=
  if s.linked p && (s.port p).up then s.updPort p (fun x => { x with skips := x.skips + 1 }) else s

/-- SKIP_SEND (R358). -/
def execSkipSend (port : Nat) (s : State) : Out := .next (skipSend s port)

/-! ## Replay and errors (R379 to R381) -/

/-- A port starts a replay at a SEQ: counted; the eighth in a row from the same SEQ sends DOWN with reason 5 and retrains with
KEEP (R379, R380). -/
def replayAt (s : State) (p seq : Nat) : State :=
  let x := s.port p
  if x.replay.any (fun f => f.seq == seq) then
    let n := if x.replayFrom = seq ∧ x.replaySame ≠ 0 then x.replaySame + 1 else 1
    (count s 0x17 p none 1).updPort p (fun x =>
      let y := { x.resend seq with
        state := 3, replays := (x.replays + 1) % 2 ^ 32, replayFrom := seq, replaySame := n }
      if n < 8 then y else { y.sendDown 5 with replaySame := 0 }.train true)
  else s

/-- A NAK names the SEQ its sender expects (R379). -/
def nakReceived (s : State) (p seq : Nat) : State := if s.linked p && (s.port p).up then replayAt s p seq else s

/-- NAK (R379). -/
def execNak (port expSeq : Nat) (s : State) : Out := .next (nakReceived s port expSeq)

/-- ACK has not advanced for 4 us while flits are unacknowledged: replay from the oldest (R379). -/
def replayTimeout (s : State) (p : Nat) : State :=
  match (s.port p).replay.head? with
  | some f => if s.linked p && (s.port p).up then replayAt s p f.seq else s
  | none => s

/-- REPLAY_TIMEOUT (R379). -/
def execReplayTimeout (port : Nat) (s : State) : Out := .next (replayTimeout s port)

/-- ACK advances: the acknowledged flits are released, a replay in progress is over, and what waited for room leaves (R379). -/
def ackAdvanced (s : State) (p ack : Nat) : State :=
  let x := s.port p
  if s.linked p && x.up && x.replay.any (fun f => f.seq == ack) then
    s.updPort p (fun x => Port.pump { x.acked ack with state := 2 })
  else s

/-- The symbols corrected in the codewords received since the last such report are counted (R355, R384). -/
def fecCount (s : State) (p n : Nat) : State :=
  if s.linked p && (s.port p).up then s.updPort p (fun x => { x with fecCorr := (x.fecCorr + n) % 2 ^ 32 }) else s

/-- ACK_ADVANCED (R379). -/
def execAckAdvanced (port ack corrected : Nat) (s : State) : Out := .next (ackAdvanced (fecCount s port corrected) port ack)

/-- A flit is discarded: counted by its cause, and a NAK takes the next slot (R360, R379). -/
def badFlit (s : State) (p : Nat) (why : BadFlit) : State :=
  if s.linked p && (s.port p).up then
    s.updPort p (fun x =>
      { x.control 2 with
        nakOut := true
        fecUncorr := if why = .uncorrectable then (x.fecUncorr + 1) % 2 ^ 32 else x.fecUncorr
        crcErr := if why = .crc then (x.crcErr + 1) % 2 ^ 32 else x.crcErr })
  else s

/-- BAD_FLIT (R379). -/
def execBadFlit (port : Nat) (why : BadFlit) (s : State) : Out := .next (badFlit s port why)

/-- The NAK is repeated every 2 us until the flit arrives good (R379). -/
def nakRepeat (s : State) (p : Nat) : State :=
  if s.linked p && (s.port p).up && (s.port p).nakOut then s.updPort p (fun x => x.control 2) else s

/-- NAK_REPEAT (R379). -/
def execNakRepeat (port : Nat) (s : State) : Out := .next (nakRepeat s port)

/-- A protocol error: DOWN with reason 4, a retrain without KEEP, recorded and counted (R381). -/
def protocolError (s : State) (p : Nat) : State :=
  if s.linked p && (s.port p).up then
    record (s.updPort p (fun x => ({ x with proto := (x.proto + 1) % 2 ^ 16 }.sendDown 4).train false))
      (Config.evClass 12 2) p
  else s

/-- PROTOCOL_ERROR (R381). -/
def execProtocolError (port : Nat) (s : State) : Out := .next (protocolError s port)

end Sys2Proof.Machine
end

