-- ==== Sys2Proof/Machine/Move.lean ====
section
/-! DEFINITION. LD and ST, MOVE, COPY and FILL unit by unit, posted instructions, FENCE, and what a mule reports (R20, R334,
R338 to R340, R426, R427, R437). -/

namespace Sys2Proof.Machine

open Sys2Proof

/-! ## LD and ST -/

/-- Address of an LD or ST: A + offset, naturally aligned, with no reserved bit set in either (R334). -/
def memAddr (a : W64) (w : SWord) : Option Place :=
  let v := a + BitVec.ofNat 64 (w.fld 23 0)
  let n := 2 ^ w.fld 27 26
  if (placeOf a).isNone || v.toNat % n != 0 then none else placeOf v

/-- LD (Table 11-6): a buffer load completes at once, a host load waits for its RD64. -/
def ldBody (e c : Nat) (dram : Dram) (s : State) (w : SWord) : State :=
  let x := s.ctx e c
  let n := 2 ^ w.fld 27 26
  match memAddr (x.reg w.a) w with
  | none => complete s e c Config.BAD_OPERAND 0
  | some (.buf a) =>
    let st := s.bufCheck x.queue a n
    if st = Config.OK then completeD s e c w.d (BitVec.ofNat 64 (s.bufNum a n)) Config.OK 0 else complete s e c st 0
  | some (.host a) => engAccess (suspend s e c (.mem (a % 64))) (.eng e c) e c .rd64 (a - a % 64) false false dram

/-- LD (Table 11-6). -/
def execLd (e c : Nat) (dram : Dram) (s : State) : Out := .next (synStep s e c (fun w => w.op == 0x17) (ldBody e c dram))

/-- ST (Table 11-6): a buffer store completes at once, a host store waits for its WRP. -/
def stBody (e c : Nat) (dram : Dram) (s : State) (w : SWord) : State :=
  let x := s.ctx e c
  let n := 2 ^ w.fld 27 26
  let v := (x.reg w.b).toNat % 2 ^ (8 * n)
  match memAddr (x.reg w.a) w with
  | none => complete s e c Config.BAD_OPERAND 0
  | some (.buf a) =>
    let st := s.bufCheck x.queue a n
    if st = Config.OK then complete (s.bufStore a (bytesOf v n)) e c Config.OK 0 else complete s e c st 0
  | some (.host a) =>
    let k := a % 64
    engAccess (suspend s e c (.mem k)) (.eng e c) e c
      (.wrp (BitVec.ofNat 64 ((2 ^ n - 1) * 2 ^ k)) (BitVec.ofNat 512 (v * 2 ^ (8 * k)))) (a - k) false false dram

/-- ST (Table 11-6). -/
def execSt (e c : Nat) (dram : Dram) (s : State) : Out := .next (synStep s e c (fun w => w.op == 0x18) (stBody e c dram))

/-! ## Units of MOVE, COPY and FILL (R338) -/

/-- Whether a range operand is host memory. -/
def isHost (v : Nat) : Bool := decide (v < 2 ^ 63)

/-- Bytes of the unit that stands at `done`: a whole line where the host side covers one, else 64 B; 256 B of a buffer. -/
def Xfer.unit (x : Xfer) : Nat :=
  let left := x.len - x.done
  let line := fun (a : Nat) => if (a + x.done) % 256 = 0 ∧ 256 ≤ left then 256 else 64
  if x.acc then 64
  else if isHost x.dst then line x.dst
  else if x.kind != 2 && isHost x.src then line x.src
  else min 256 left

/-- Whether a unit reads host memory. -/
def Xfer.hostRead (x : Xfer) : Bool := x.kind != 2 && isHost x.src

/-- Who issues the accesses of a transfer. -/
def xferWho (e c : Nat) (posted : Bool) : Who := if posted then .post e c else .eng e c

/-- Put the transfer back where its context keeps it. -/
def putXfer (s : State) (e c : Nat) (posted : Bool) (x : Xfer) : State :=
  s.updCtx e c (fun y =>
    if posted then { y with posted := x :: y.posted.drop 1 } else { y with state := 3, wait := .xfer x })

/-- The pattern of a FILL over a line. -/
def fillLine (p : W64) : Line := (List.range 32).foldl (fun (a : Line) i => a ||| (p.zeroExtend 2048 <<< (64 * i))) 0

/-- Write the data of a unit: to host memory by WR256, WR64 or ACC, to a buffer at once. -/
def writeUnit (s : State) (e c : Nat) (posted : Bool) (x : Xfer) (d : Line) (dram : Dram) : State :=
  let n := x.unit
  let y := { x with rd := some d, out := none }
  if isHost x.dst then
    let op : MemOp := if n = 256 then .wr256 d else if x.acc then .acc (hostLine d 0) else .wr64 (hostLine d 0)
    engAccess (putXfer s e c posted y) (xferWho e c posted) e c op (x.dst + x.done) x.hostRead false dram
  else
    let go := fun (t : State) =>
      putXfer (t.bufStore (x.dst - 2 ^ 63 + x.done) (bytesOf d.toNat n)) e c posted { y with out := some (Config.OK, 0) }
    if x.hostRead then go s
    else
      match takeTokens s (4 + e) (s.ctx e c).label n with
      | some t => go t
      | none =>
        (putXfer s e c posted { x with rd := none, out := none }).updCtx e c (fun z =>
          if posted then z else { z with state := 4 })

/-- Start the unit that stands at `done`. -/
def startUnit (s : State) (e c : Nat) (posted : Bool) (x : Xfer) (dram : Dram) : State :=
  let y := { x with rd := none, out := none }
  let n := x.unit
  if x.hostRead then
    engAccess (putXfer s e c posted y) (xferWho e c posted) e c (if n = 256 then .rd256 else .rd64) (x.src + x.done) false
      false dram
  else writeUnit s e c posted y
    (if x.kind = 2 then fillLine x.pat else BitVec.ofNat 2048 (s.bufNum (x.src - 2 ^ 63 + x.done) n)) dram

/-- The next step of a transfer once its access has an outcome: the state, and the failing unit's code and address, or OK,
where the transfer is over. -/
def stepXfer (s : State) (e c : Nat) (posted : Bool) (x : Xfer) (dram : Dram) : State × Option (Nat × Nat) :=
  match x.out with
  | none => if x.hostRead || isHost x.dst then (s, none) else (startUnit s e c posted x dram, none)
  | some (st, d) =>
    if st ≠ Config.OK then (s, some (st, if x.rd.isNone then x.src + x.done else x.dst + x.done))
    else if x.rd.isNone then (writeUnit s e c posted x d dram, none)
    else
      let done := x.done + x.unit
      if done < x.len then (startUnit s e c posted { x with done := done } dram, none) else (s, some (Config.OK, 0))

/-- Status of the range rules of R338: alignment, length, one region, buffer rules, a monotone region for ACC. -/
def State.rangeCheck (s : State) (q v len align : Nat) (acc : Bool) : Nat :=
  match placeOf (BitVec.ofNat 64 v) with
  | none => Config.BAD_OPERAND
  | some (.host a) =>
    if a % align ≠ 0 ∨ len % align ≠ 0 then Config.BAD_OPERAND
    else
      match s.regionRange a len with
      | none => Config.BAD_OPERAND
      | some (_, r) =>
        if acc && !r.mono then Config.BAD_OPERAND
        else if reaches r (s.queueAdmin q) (s.queueSessLabel q) then Config.OK
        else Config.DENIED
  | some (.buf a) => if a % 8 ≠ 0 ∨ len % 8 ≠ 0 then Config.BAD_OPERAND else s.bufCheck q a len

/-- Issue a transfer that has passed its checks: it waits, or is posted behind the context's earlier ones (R338, R339). -/
def issueXfer (s : State) (e c : Nat) (post : Bool) (x : Xfer) (dram : Dram) : State :=
  let y := s.ctx e c
  if !post then startUnit (count (suspend s e c (.xfer x)) 0x13 e none 1) e c false x dram
  else if 64 ≤ y.posted.length then suspend s e c .post
  else
    let s1 := s.updCtx e c (fun z => { z with posted := z.posted ++ [x] })
    let s2 := count s1 0x13 e none 1
    let s3 := if y.posted.isEmpty then startUnit s2 e c true x dram else s2
    complete s3 e c Config.OK 0

/-- First of two statuses that is not OK. -/
def firstBad (a b : Nat) : Nat := if a = Config.OK then b else a

/-- MOVE: between a buffer and host memory or between two buffers (R338). -/
def moveBody (e c : Nat) (dram : Dram) (s : State) (w : SWord) : State :=
  let x := s.ctx e c
  let d := (x.reg w.a).toNat
  let b := (x.reg w.b).toNat
  let n := (x.reg w.c).toNat
  let acc := w.bit 0
  if n = 0 ∨ 2 ^ 26 < n ∨ (isHost d ∧ isHost b) ∨ (acc ∧ ¬ isHost d) then complete s e c Config.BAD_OPERAND 0
  else
    let st := firstBad (s.rangeCheck x.queue d n 64 acc) (s.rangeCheck x.queue b n 64 false)
    if st ≠ Config.OK then complete s e c st 0
    else issueXfer s e c (w.bit 1) { kind := 0, dst := d, src := b, len := n, done := 0, acc := acc, pat := 0 } dram

/-- MOVE (R338). -/
def execMove (e c : Nat) (dram : Dram) (s : State) : Out := .next (synStep s e c (fun w => w.op == 0x20) (moveBody e c dram))

/-- COPY: host memory to host memory, line by line; the ranges do not overlap (R338). -/
def copyBody (e c : Nat) (dram : Dram) (s : State) (w : SWord) : State :=
  let x := s.ctx e c
  let d := (x.reg w.a).toNat
  let b := (x.reg w.b).toNat
  let n := (x.reg w.c).toNat
  if n = 0 ∨ 2 ^ 26 < n ∨ ¬ isHost d ∨ ¬ isHost b ∨ (d < b + n ∧ b < d + n) then complete s e c Config.BAD_OPERAND 0
  else
    let st := firstBad (s.rangeCheck x.queue d n 256 false) (s.rangeCheck x.queue b n 256 false)
    if st ≠ Config.OK then complete s e c st 0
    else issueXfer s e c (w.bit 1) { kind := 1, dst := d, src := b, len := n, done := 0, acc := false, pat := 0 } dram

/-- COPY (R338). -/
def execCopy (e c : Nat) (dram : Dram) (s : State) : Out := .next (synStep s e c (fun w => w.op == 0x21) (copyBody e c dram))

/-- FILL: the pattern repeated over a range (R338). -/
def fillBody (e c : Nat) (dram : Dram) (s : State) (w : SWord) : State :=
  let x := s.ctx e c
  let d := (x.reg w.a).toNat
  let n := (x.reg w.c).toNat
  if n = 0 ∨ 2 ^ 26 < n then complete s e c Config.BAD_OPERAND 0
  else
    let st := s.rangeCheck x.queue d n 64 false
    if st ≠ Config.OK then complete s e c st 0
    else issueXfer s e c (w.bit 1)
      { kind := 2, dst := d, src := 0, len := n, done := 0, acc := false, pat := x.reg w.b } dram

/-- FILL (R338). -/
def execFill (e c : Nat) (dram : Dram) (s : State) : Out := .next (synStep s e c (fun w => w.op == 0x22) (fillBody e c dram))

/-! ## Posted instructions and FENCE (R339, R340) -/

/-- A FENCE ends: OK, or the first failed unit's code, its address in D, the number of failed units in COUNT. -/
def finishFence (s : State) (e c : Nat) : State :=
  let x := s.ctx e c
  let s1 := s.updCtx e c (fun y => { y with postFail := 0, postCode := 0, postAddr := 0 })
  if x.postFail = 0 then complete s1 e c Config.OK 0
  else completeD s1 e c (s.wordAt e c).d (BitVec.ofNat 64 x.postAddr) x.postCode x.postFail

/-- FENCE (R61, R339). -/
def fenceBody (e c : Nat) (s : State) (_ : SWord) : State :=
  if (s.ctx e c).posted.isEmpty then finishFence s e c else suspend s e c .fence

/-- FENCE (R339). -/
def execFence (e c : Nat) (s : State) : Out := .next (synStep s e c (fun w => w.op == 0x23) (fenceBody e c))

/-- A posted instruction is over: the next one starts, and the context goes on where it waited for this (R339, R340). -/
def popPosted (s : State) (e c code addr : Nat) (dram : Dram) : State :=
  let s1 := s.updCtx e c (fun x =>
    { x with
      posted := x.posted.drop 1
      postCode := if code != Config.OK && x.postFail == 0 then code else x.postCode
      postAddr := if code != Config.OK && x.postFail == 0 then addr else x.postAddr
      postFail := if code != Config.OK then x.postFail + 1 else x.postFail })
  let x := s1.ctx e c
  match x.posted with
  | y :: _ =>
    let s2 := startUnit s1 e c true y dram
    if x.wait = .post ∧ x.state = 3 then s2.updCtx e c (fun z => { z with state := 1, wait := .none }) else s2
  | [] =>
    match x.wait with
    | .fence => finishFence s1 e c
    | .ended st forced => endTask s1 e c st forced
    | .post => s1.updCtx e c (fun z => { z with state := 1, wait := .none })
    | _ => s1

/-- POSTED_UNIT_DONE: a mule reports a unit of the oldest posted instruction (R339). -/
def postedUnitDone (s : State) (e c : Nat) (dram : Dram) : State :=
  match (s.ctx e c).posted with
  | [] => s
  | x :: _ =>
    if !s.live then s
    else
      match stepXfer s e c true x dram with
      | (t, none) => t
      | (t, some (code, addr)) => popPosted t e c code addr dram

/-- POSTED_UNIT_DONE (R339). -/
def execPostedUnitDone (e c : Nat) (dram : Dram) (s : State) : Out := .next (postedUnitDone s e c dram)

/-! ## Cipher faults (R426, R427) -/

/-- A general pipeline faults: counted and recorded; the third fault within a second takes it out of service. -/
def cipherFault (s : State) (pipe : Nat) : State :=
  let s1 := record { s with keys := { s.keys with cfaults := (s.keys.cfaults + 1) % 2 ^ 32 } } (Config.evClass 14 0) pipe
  let n := s1.keys.pipes.getD pipe 3
  let s2 := { s1 with keys := { s1.keys with pipes := updAt s1.keys.pipes pipe (fun v => min 3 (v + 1)) } }
  if n = 2 then record s2 (Config.evClass 14 1) pipe else s2

/-- HS5's own pipeline faults on a flush line: counted and recorded (R426). -/
def flushFault (s : State) : State :=
  record { s with keys := { s.keys with cfaults := (s.keys.cfaults + 1) % 2 ^ 32 } } (Config.evClass 14 0) 8

/-- A write-back meets a cipher fault: it is repeated with the same version; with no pipeline left it is abandoned, its lines
stay dirty and writes written through complete with CIPHER_FAULT (R427). -/
def pageFault (s : State) (page pipe : Nat) : State :=
  match Tbl.find s.maps.moves page with
  | none => s
  | some m =>
    if m.stage ≠ 0 then s
    else
      let s1 := cipherFault s pipe
      if s1.pipesLeft then s1
      else
        let mine := m.thru ++ s1.cache.thru.filter (fun r => r.page == page)
        let s2 := s1.onMaps (fun x => { x with moves := Tbl.put x.moves page { m with thru := [] } })
        let s3 := dropMove (s2.onCache (fun c => { c with thru := c.thru.filter (fun r => r.page != page) })) page
        settle (mine.foldl (fun t r => deliver t r Config.CIPHER_FAULT 0 false) s3)

/-! ## XTS.ENC and XTS.DEC (R437) -/

/-- An XTS instruction takes its chunks from its token bucket (Table 9-1): the bytes taken so far. -/
def xtsCharge : Nat → State → Nat → Nat → Nat → Nat → State × Nat
  | 0, s, _, _, _, done => (s, done)
  | k + 1, s, master, label, len, done =>
    if len ≤ done then (s, done)
    else
      match takeTokens s master label (min 256 (len - done)) with
      | none => (s, done)
      | some t => xtsCharge k t master label len (min len (done + 256))

/-- XTS.ENC or XTS.DEC goes on: with every chunk taken its result is written and it completes (R437). -/
def xtsRun (s : State) (e c dst src len done : Nat) : State :=
  let x := s.ctx e c
  let w := s.wordAt e c
  let (t, k) := xtsCharge (len / 256 + 1) s (4 + e) x.label len done
  if k < len then t.updCtx e c (fun y => { y with state := 4, wait := .xts dst src len k false })
  else
    let ks := (t.keyRec (w.fld 5 0)).keys
    let tweak := (x.reg w.d).toNat + (x.reg (w.d + 1)).toNat * 2 ^ 64
    let input := t.bufBytes src len
    let out := if w.op = 0x53 then Cipher.xtsEnc ks.k1 ks.k2 tweak input else Cipher.xtsDec ks.k1 ks.k2 tweak input
    complete (count (t.bufStore dst out) 0x18 0x3F none 1) e c Config.OK 0

/-- The operands of an XTS instruction: a length of 16 B to 16 MiB, buffers identical or disjoint, a tweak pair in g0 to g31. -/
def xtsArgs (s : State) (e c : Nat) (w : SWord) : Nat × Nat × Nat × Nat :=
  let x := s.ctx e c
  let n := (x.reg w.c).toNat
  let (d, sd) := s.bufArg x.queue (x.reg w.a) n
  let (b, sb) := s.bufArg x.queue (x.reg w.b) n
  let bad := n < 16 ∨ 2 ^ 24 < n ∨ w.d = 31 ∨ (d ≠ b ∧ d < b + n ∧ b < d + n) ∨ (s.keyRec (w.fld 5 0)).state = 0
    ∨ (x.reg (w.d + 1)).toNat / 2 ^ 56 = 0xA5
  (d, b, n, if bad then Config.BAD_OPERAND else firstBad sd sb)

/-- A chunk faults twice: CIPHER_FAULT, COUNT the length of the valid part at the front of the destination, the rest of it
undefined: both are free values (R437, log 1). -/
def xtsCut (s : State) (e c d b n : Nat) (w : SWord) : State :=
  let x := s.ctx e c
  let ks := (s.keyRec (w.fld 5 0)).keys
  let tweak := (x.reg w.d).toNat + (x.reg (w.d + 1)).toNat * 2 ^ 64
  let k := s.freeVal % n
  let out := (Cipher.xtsEnc ks.k1 ks.k2 tweak (s.bufBytes b n)).take k
    ++ (List.range (n - k)).map (fun i => BitVec.ofNat 8 (Config.freeValue (s.free + 1 + i)))
  complete ((s.burn (n + 1)).bufStore d out) e c Config.CIPHER_FAULT k

/-- XTS.ENC: refused under a FATAL key (R424); a chunk that faults is tried once more on another pipeline (R437); with no
pipeline in service the instruction completes with CIPHER_FAULT (R427). -/
def xtsEncBody (e c : Nat) (faults : List Nat) (s : State) (w : SWord) : State :=
  let (d, b, n, st) := xtsArgs s e c w
  if st ≠ Config.OK then complete s e c st 0
  else if (s.keyRec (w.fld 5 0)).state = 2 then complete s e c Config.KEY_FATAL 0
  else if !s.pipesLeft then complete s e c Config.CIPHER_FAULT 0
  else
    let t := (faults.take 2).foldl cipherFault s
    if 2 ≤ faults.length ∨ t.pipesLeft = false then xtsCut t e c d b n w
    else xtsRun (count (suspend t e c (.xts d b n 0 false)) 0x13 e none 1) e c d b n 0

/-- XTS_ENC (R437). -/
def execXtsEnc (e c : Nat) (faults : List Nat) (s : State) : Out :=
  .next (synStep s e c (fun w => w.op == 0x53) (xtsEncBody e c faults))

/-- XTS.DEC: the inverse, under a LOADED or FATAL key. -/
def xtsDecBody (e c : Nat) (s : State) (w : SWord) : State :=
  let (d, b, n, st) := xtsArgs s e c w
  if st ≠ Config.OK then complete s e c st 0
  else if !s.pipesLeft then complete s e c Config.CIPHER_FAULT 0
  else xtsRun (count (suspend s e c (.xts d b n 0 false)) 0x13 e none 1) e c d b n 0

/-- XTS_DEC (R437). -/
def execXtsDec (e c : Nat) (s : State) : Out := .next (synStep s e c (fun w => w.op == 0x54) (xtsDecBody e c))

/-! ## CACHE.ZERO, line by line (R129) -/

/-- Issue the next line of a CACHE.ZERO of a range, or complete it; the range was looked up as a whole (R129). -/
def zeroNext (s : State) (e c lo next hi : Nat) (dram : Dram) : State :=
  if hi ≤ next then complete s e c Config.OK 0
  else
    engAccess (s.updCtx e c (fun x => { x with state := 3, wait := .zero lo next hi none })) (.eng e c) e c .zero next true true dram

/-! ## MULE_REPORT (R20) -/

/-- A transfer is over: the failing unit's code goes to register C with the bytes done (R338). -/
def finishXfer (s : State) (e c : Nat) (x : Xfer) (code : Nat) : State :=
  if code = Config.OK then complete s e c Config.OK 0
  else
    let w := s.wordAt e c
    complete (s.updCtx e c (fun y => y.setReg w.c (BitVec.ofNat 64 (code + x.done * 256)))) e c
      (if 0 < x.done then Config.PARTIAL else code) x.done

/-- A mule reports on a context's descriptor: the context takes its next step. -/
def ctxReport (s : State) (e c : Nat) (dram : Dram) : State :=
  let x := s.ctx e c
  if x.state ≠ 3 ∧ x.state ≠ 4 then s
  else
    match x.wait with
    | .xfer y =>
      match stepXfer s e c false y dram with
      | (t, none) => t
      | (t, some (code, _)) => finishXfer t e c y code
    | .zero lo next hi (some st) => if st = Config.OK then zeroNext s e c lo (next + 256) hi dram else complete s e c st 0
    | .xts d b n k _ => xtsRun s e c d b n k
    | _ => s

/-- MULE_REPORT: the context or the sequencer that issued the descriptor takes its next step; a fault is an
encrypt-then-verify mismatch (R20, R426); XTS.ENC tries a chunk once more (R437). -/
def muleReport (s : State) (m : Mule) (fault : Option Nat) (dram : Dram) : State :=
  match m, fault with
  | .ctx e c, none => if s.live then ctxReport s e c dram else s
  | .ctx e c, some p =>
    match (s.ctx e c).wait with
    | .xts d b n k once =>
      let w := s.wordAt e c
      let t := cipherFault s p
      if !s.live || w.op != 0x53 then s
      else if once || !t.pipesLeft then xtsCut t e c d b n w
      else t.updCtx e c (fun y => { y with wait := .xts d b n k true })
    | _ => s
  | .page p, some k => if s.live then pageFault s p k else s
  | .page _, none => s
  | .flush, some _ => if s.flushing then flushFault s else s
  | .flush, none => s

/-- MULE_REPORT (R20). -/
def execMuleReport (m : Mule) (fault : Option Nat) (dram : Dram) (s : State) : Out := .next (muleReport s m fault dram)

end Sys2Proof.Machine
end

