-- ==== Sys2Proof/Machine/Regions.lean ====
section
/-! DEFINITION. The region and map instructions (Table 11-10; R38 to R52, R342, R343) and the cache instructions (Table 4-7,
Table 11-12; R114 to R116, R127 to R133). -/

namespace Sys2Proof.Machine

open Sys2Proof

/-! ## RGN.DEF and RGN.ATTR -/

/-- Whether a region instruction has its turn: the region change before it is complete (R332). -/
def State.rgnTurn (s : State) : Bool :=
  let m := s.maps
  let busy := fun (r : Option JRec) => ((r.map (fun x => x.region.isSome)).getD false)
  m.jregion.isEmpty && !busy m.jbody && !busy m.jready && !busy m.jseal
    && (s.waiters (fun w => match w with
      | .rgnDrain _ => true
      | _ => false)).isEmpty

/-- A region change joins the journal, and its context waits for the seal (R333, R342). -/
def journalRegion (s : State) (e c idx : Nat) (r : Option Region) : State :=
  suspend (s.onMaps (fun m => { m with jregion := m.jregion ++ [(idx, r)] })) e c (.rgnJournal idx)

/-- Attribute combinations that no region has (R41), and a way mask that names no active way (R47). -/
def State.attrBad (s : State) (r : Region) : Bool :=
  (r.mono && (r.density != 0 || r.integ)) || (r.ways != 0 && r.ways &&& s.cache.activeMask == 0)

/-- Sum of the charges of all regions but one, in 1/32 byte (R44). -/
def State.charges32 (s : State) (but : Nat) : Nat :=
  (s.maps.regions.filter (fun p => p.1 != but)).foldl (fun a p => a + charge p.2) 0

/-- What RGN.DEF answers of a region before it defines it (R38, R39, R41, R42, R44, R47). -/
def State.defCheck (s : State) (idx : Nat) (r : Region) : Nat :=
  let more := s.maps.regions.any (fun p => decide (p.2.base < r.base + r.size) && decide (r.base < p.2.base + p.2.size))
  let k := s.keyRec r.key
  if (s.region idx).isSome || more || decide (r.base % Config.grain ≠ 0) || decide (r.size % Config.grain ≠ 0)
      || decide (r.size = 0) || decide (2 ^ 44 < r.base + r.size) || s.attrBad r || k.state == 0 then Config.BAD_OPERAND
  else if k.state = 2 then Config.KEY_FATAL
  else if 32 * s.maps.hcap < s.charges32 256 + charge r then Config.BAD_OPERAND
  else Config.OK

/-- RGN.DEF of a region record with ACT 0. -/
def rgnDefBody (e c : Nat) (s : State) (w : SWord) : State :=
  let x := s.ctx e c
  let (a, st) := s.bufArg x.queue (x.reg w.a) 32
  if st ≠ Config.OK then complete s e c st 0
  else
    let r := rgnRec (s.bufNum a 32)
    if r.ok = false ∨ r.act ≠ 0 then complete s e c Config.BAD_OPERAND 0
    else
      let st := s.defCheck r.index r.region
      if st ≠ Config.OK then complete s e c st 0 else journalRegion s e c r.index (some r.region)

/-- The region that a region instruction names: RGN.DROP in its register, RGN.DEF and RGN.ATTR in their record. -/
def State.rgnNamed (s : State) (e c : Nat) : Nat :=
  let w := s.wordAt e c
  let x := s.ctx e c
  if w.op = 0x32 then (x.reg w.a).toNat else (rgnRec (s.bufNum (s.bufArg x.queue (x.reg w.a) 32).1 32)).index

/-- Whether a region instruction is executed now: while another region change is under way it waits (R332), but for a word that fails
check 1 of R328, which ends the task, and for one that names a closing region, which is refused (R49). -/
def State.rgnMay (s : State) (e c : Nat) : Bool :=
  s.rgnTurn || !(s.wordAt e c).formOk (s.ctx e c).pc || ((s.region (s.rgnNamed e c)).map (·.closing)).getD false

/-- RGN_DEF (R38). -/
def execRgnDef (e c : Nat) (s : State) : Out :=
  .next (if s.rgnMay e c then synStep s e c (fun w => w.op == 0x30) (rgnDefBody e c) else s)

/-- Whether a page of a region is not unmapped (Table 2-2), in the map or by a change in flight: a poisoned page counts. -/
def State.anyMapped (s : State) (r : Region) : Bool :=
  let inR := fun (page : Nat) => decide (r.base ≤ page * 4096) && decide (page * 4096 < r.base + r.size)
  s.maps.map.any (fun p => inR p.1 && p.2 != Config.unmapped) || s.maps.moves.any (fun p => inR p.1 && p.2.new != Config.unmapped)

/-- What RGN.ATTR answers of a changed region (R39, R41, R44, R47). -/
def State.attrCheck (s : State) (idx : Nat) (o n : Region) : Nat :=
  let loose := !s.anyMapped o
  if o.base ≠ n.base ∨ o.size ≠ n.size ∨ o.mono ≠ n.mono ∨ o.key ≠ n.key then Config.BAD_OPERAND
  else if (o.density = 0) ≠ (n.density = 0) ∧ loose = false then Config.BAD_OPERAND
  else if o.integ ≠ n.integ ∧ loose = false then Config.BAD_OPERAND
  else if s.attrBad n then Config.BAD_OPERAND
  else if charge o < charge n ∧ 32 * s.maps.hcap < s.charges32 idx + charge n then Config.BAD_OPERAND
  else Config.OK

/-- RGN.ATTR of a region record with ACT 1. -/
def rgnAttrBody (e c : Nat) (s : State) (w : SWord) : State :=
  let x := s.ctx e c
  let (a, st) := s.bufArg x.queue (x.reg w.a) 32
  if st ≠ Config.OK then complete s e c st 0
  else
    let r := rgnRec (s.bufNum a 32)
    match (if r.ok && r.act == 1 then s.openRegion r.index else none) with
    | none => complete s e c Config.BAD_OPERAND 0
    | some o =>
      let st := s.attrCheck r.index o r.region
      if st ≠ Config.OK then complete s e c st 0 else journalRegion s e c r.index (some r.region)

/-- RGN_ATTR (R48). -/
def execRgnAttr (e c : Nat) (s : State) : Out :=
  .next (if s.rgnMay e c then synStep s e c (fun w => w.op == 0x31) (rgnAttrBody e c) else s)

/-! ## RGN.DROP -/

/-- RGN.DROP: BUSY while a commitment of LEDG.ADMIT names the region (R343); the region is marked closing and its streams
end (R323). -/
def rgnDropBody (e c : Nat) (s : State) (w : SWord) : State :=
  let idx := ((s.ctx e c).reg w.a).toNat
  match s.openRegion idx with
  | none => complete s e c Config.BAD_OPERAND 0
  | some r =>
    if s.regul.commits.any (fun p => p.2.region == idx && p.2.kind != 3) then complete s e c Config.BUSY 0
    else
      let s1 := s.onMaps (fun m => { m with regions := Tbl.put m.regions idx { r with closing := true } })
      suspend (abortStrms s1 (fun x => x.region == idx)) e c (.rgnDrain idx)

/-- RGN_DROP (R49). -/
def execRgnDrop (e c : Nat) (s : State) : Out :=
  .next (if s.rgnMay e c then synStep s e c (fun w => w.op == 0x32) (rgnDropBody e c) else s)

/-- Requests past their region lookup that have not completed (R48, R49). -/
def State.lookedUp (s : State) : List Req :=
  s.cache.waiting ++ s.cache.thru ++ s.cache.thruDone.map (·.1) ++ s.cache.fills.flatMap (fun p => p.2.reqs)
    ++ s.maps.moves.flatMap (fun p => p.2.thru)

/-- Whether a request past its region lookup, or a CACHE.ZERO that covers it and is past its check, still works on a region (R49, R129). -/
def State.regionBusy (s : State) (r : Region) : Bool :=
  s.lookedUp.any (fun q => decide (r.base ≤ q.addr) && decide (q.addr < r.base + r.size))
    || s.eng.ctx.any (fun p => (p.2.state == 3 || p.2.state == 4)
        && (match p.2.wait with
            | .zero lo _ hi _ => decide (lo < r.base + r.size) && decide (r.base < hi)
            | _ => false))

/-- RGN_DROP_DRAIN_END: the region's lines are discarded, but for those that the disabled cache keeps frozen (R132), a fill in flight
installs nothing more (R125), its pages are unmapped, and the change is journaled (R49). -/
def rgnDropDrainEnd (s : State) (idx : Nat) : State :=
  match s.region idx with
  | none => s
  | some r =>
    let l := s.waiters (fun w => w == .rgnDrain idx)
    if !s.live || !r.closing || l.isEmpty || s.regionBusy r then s
    else
      let inR := fun (page : Nat) => decide (r.base ≤ page * 4096) && decide (page * 4096 < r.base + r.size)
      let lines := (s.cache.lines.filter (fun p => inR (p.1 / 16))).map (·.1)
      let s1 := if s.cache.on then lines.foldl dropLine s else s
      let s2 := s1.onCache (fun c =>
        { c with
          wbb := c.wbb.filter (fun p => !inR (p.1 / 16))
          fills := c.fills.map (fun p => if inR (p.1 / 16) then (p.1, p.2.doom 0 false) else p) })
      let pages := (s2.maps.map.filter (fun p => inR p.1)).map (·.1)
        ++ (s2.maps.moves.filter (fun p => inR p.1 && mapped p.2.new && !Tbl.has s2.maps.map p.1)).map (·.1)
      let s3 := pages.foldl (fun t p => startChange t p .drop) s2
      let s4 := s3.onMaps (fun m => { m with jregion := m.jregion ++ [(idx, none)] })
      l.foldl (fun t k => t.updCtx (k / 32) (k % 32) (fun x => { x with wait := .rgnJournal idx })) s4

/-- RGN_DROP_DRAIN_END (R49). -/
def execRgnDropDrainEnd (region : Nat) (s : State) : Out := .next (rgnDropDrainEnd s region)

/-! ## MAP.TRIM, MAP.QUERY, CKPT -/

/-- Trim or poison the pages of a range: their cached lines are discarded, their map entries change through the journal, and
the context waits for the last of them (R51, R52). -/
def trimRange (s : State) (e c lo len : Nat) (poison : Bool) : State :=
  let pages := (List.range (len / 4096)).map (fun i => lo / 4096 + i)
  let s1 := pages.foldl (fun t p =>
    let t1 := discardPage t p
    if poison then poisonPage t1 p
    else if t1.changing p || t1.mapEntry p != Config.unmapped then startChange t1 p .trim else t1) s
  maintain (suspend s1 e c (.trim lo (lo + len)))

/-- Checks of MAP.TRIM (R45, R51), then the range; the reach of the session first. -/
def trimBody (poison : Bool) (e c : Nat) (s : State) (w : SWord) : State :=
  let x := s.ctx e c
  let len := (x.reg w.b).toNat
  match hostOf (x.reg w.a) with
  | none => complete s e c (if poison && !s.queueAdmin x.queue then Config.DENIED else Config.BAD_OPERAND) 0
  | some lo =>
    let away := s.maps.regions.any (fun p => decide (p.2.base < lo + max 1 len) && decide (lo < p.2.base + p.2.size)
      && !reaches p.2 (s.queueAdmin x.queue) (s.queueSessLabel x.queue))
    if (poison && !s.queueAdmin x.queue) || away then complete s e c Config.DENIED 0
    else if len = 0 ∨ lo % 4096 ≠ 0 ∨ len % 4096 ≠ 0 ∨ (s.regionRange lo len).isNone then
      complete s e c Config.BAD_OPERAND 0
    else trimRange s e c lo len poison

/-- MAP_TRIM (R51). -/
def execMapTrim (e c : Nat) (s : State) : Out :=
  .next (synStep s e c (fun w => w.op == 0x33 && !w.bit 0) (trimBody false e c))

/-- MAP_TRIM_POISON (R52). -/
def execMapTrimPoison (e c : Nat) (s : State) : Out :=
  .next (synStep s e c (fun w => w.op == 0x33 && w.bit 0) (trimBody true e c))

/-- What MAP.QUERY answers of a page (Table 11-10). -/
def State.mapAnswer (s : State) (page : Nat) : W64 :=
  let l := (List.range 16).map (fun j => 16 * page + j)
  let res := l.any (fun k => Tbl.has s.cache.lines k)
  let dirty := l.any (fun k => ((Tbl.find s.cache.lines k).map (·.dirty)).getD false)
  BitVec.ofNat 64 (s.viewEntry page + s.rgnIndex page * 2 ^ 32 + flag res * 2 ^ 40 + flag dirty * 2 ^ 41)

/-- Whether a page's range is rebuilt (R249). -/
def State.rangeBuilt (s : State) (page : Nat) : Bool := decide (11 ≤ s.pers.rebuild) || s.pers.rebuilt.contains (mapPageOf page)

/-- MAP.QUERY: in Lamb service it waits until the page's range is rebuilt (R249, R335). -/
def mapQueryBody (e c : Nat) (s : State) (w : SWord) : State :=
  match hostOf ((s.ctx e c).reg w.a) with
  | none => complete s e c Config.BAD_OPERAND 0
  | some a =>
    let page := a / 4096
    match s.regionAt a with
    | none => complete s e c Config.BAD_OPERAND 0
    | some (_, r) =>
      if r.closing then complete s e c Config.BAD_OPERAND 0
      else if s.rangeBuilt page then completeD s e c w.d (s.mapAnswer page) Config.OK 0
      else
        suspend (s.onPers (fun p => { p with order := mapPageOf page :: p.order.filter (fun m => m != mapPageOf page) })) e c
          (.query page)

/-- MAP_QUERY (R335). -/
def execMapQuery (e c : Nat) (s : State) : Out := .next (synStep s e c (fun w => w.op == 0x34) (mapQueryBody e c))

/-- Contexts that waited for a page's range are answered (R335). -/
def answerQueries (s : State) : State :=
  (s.waiters (fun w => match w with
    | .query p => s.rangeBuilt p
    | _ => false)).foldl (fun t k =>
      match (t.ctx (k / 32) (k % 32)).wait with
      | .query p => completeD t (k / 32) (k % 32) (t.wordAt (k / 32) (k % 32)).d (t.mapAnswer p) Config.OK 0
      | _ => t) s

/-- CKPT: BUSY while another checkpoint is in progress; it completes at its root's seal (R245). -/
def ckptBody (e c : Nat) (s : State) (_ : SWord) : State :=
  if s.pers.ckpt.isSome || !(s.waiters (fun w => w == .ckpt)).isEmpty then complete s e c Config.BUSY 0
  else suspend s e c .ckpt

/-- CKPT (R245). -/
def execCkpt (e c : Nat) (s : State) : Out := .next (synStep s e c (fun w => w.op == 0x35) (ckptBody e c))

/-! ## Cache: on, off, ways -/

/-- Whether the cache may be write-back: the reserve is verified and holds a budget (R243, R252). -/
def State.wbMode (s : State) : Bool := s.pers.reserveOk && s.boot.straps.hold != 0

/-- Caching goes on (R133). -/
def turnOn (s : State) : State := s.onCache (fun c => { c with on := true, wback := s.wbMode })

/-- CACHE.ON without FORCE: only after a CACHE.INVAL of range ALL (R133). -/
def cacheOnBody (e c : Nat) (s : State) (_ : SWord) : State :=
  if s.cache.invalAll then complete (turnOn s) e c Config.OK 0 else complete s e c Config.BAD_OPERAND 0

/-- CACHE_ON (R133). -/
def execCacheOn (e c : Nat) (s : State) : Out :=
  .next (synStep s e c (fun w => w.op == 0x38 && !w.force) (cacheOnBody e c))

/-- CACHE.ON with FORCE: OK, and the event is recorded (R133). -/
def cacheOnForceBody (e c : Nat) (s : State) (_ : SWord) : State :=
  let s1 := record s (Config.evClass 4 4) e
  complete (turnOn (s1.onCache (fun x => { x with stale := x.stale || (!x.on && !x.invalAll) }))) e c Config.OK 0

/-- CACHE_ON_FORCE (R133). -/
def execCacheOnForce (e c : Nat) (s : State) : Out :=
  .next (synStep s e c (fun w => w.op == 0x38 && w.force) (cacheOnForceBody e c))

/-- Caching stops: tags freeze, dirty lines become orphans, fills in flight are doomed (R125, R130, R131); it completes once
they have delivered. The spec excludes orphans from write-back and does not say what becomes of a page write-back that holds such a line in
its snapshot already: the model lets it go on and commit (DESIGN CHOICE, log 87). -/
def turnOff (s : State) (e c : Nat) : State :=
  let s1 := s.onCache (fun x =>
    { x with
      on := false, wback := false, stale := false, invalAll := false
      lines := x.lines.map (fun p => (p.1, { p.2 with frozen := true, orphan := p.2.orphan || p.2.dirty, dirty := false }))
      fills := x.fills.map (fun p => (p.1, p.2.doom (x.delta p.1) (x.deltaBad p.1))) })
  maintain (suspend s1 e c .cacheOff)

/-- CACHE.OFF: DIRTY while the dirty count is not zero or a merge fill is in flight (R130). -/
def cacheOffBody (e c : Nat) (s : State) (_ : SWord) : State :=
  if s.cache.dirty != 0 || s.cache.fills.any (fun p => p.2.merge) then complete s e c Config.DIRTY 0
  else if !s.cache.on then complete s e c Config.OK 0
  else turnOff s e c

/-- CACHE_OFF (R130). -/
def execCacheOff (e c : Nat) (s : State) : Out :=
  .next (synStep s e c (fun w => w.op == 0x39 && !w.force) (cacheOffBody e c))

/-- CACHE.OFF with FORCE orphans the dirty lines; every one is recorded (R131). -/
def cacheOffForceBody (e c : Nat) (s : State) (_ : SWord) : State :=
  let t := record s (Config.evClass 4 3) e
  if !s.cache.on then complete t e c Config.OK 0 else turnOff t e c

/-- CACHE_OFF_FORCE (R131). -/
def execCacheOffForce (e c : Nat) (s : State) : Out :=
  .next (synStep s e c (fun w => w.op == 0x39 && w.force) (cacheOffForceBody e c))

/-- Whether active ways and label masks may stand (R114). -/
def State.waysOk (s : State) (n : Nat) (masks : List (BitVec 16)) : Bool :=
  let act := BitVec.ofNat 16 (2 ^ n - 1)
  decide (2 ≤ n) && decide (n ≤ 16) && masks.all (fun m => m &&& act != 0)
    && s.maps.regions.all (fun p => p.2.ways == 0 || p.2.ways &&& act != 0)

/-- Set the active ways and the masks: ways removed take no allocation at once and are emptied first (R116). -/
def setWays (s : State) (e c n : Nat) (masks : List (BitVec 16)) : State :=
  if s.cache.active ≤ n then complete (s.onCache (fun x => { x with active := n, masks := masks })) e c Config.OK 0
  else maintain (suspend (s.onCache (fun x => { x with active := n })) e c (.ways n masks))

/-- CACHE.WAYS: active ways in A, 128 bytes of masks at B (R114). -/
def cacheWaysBody (e c : Nat) (s : State) (w : SWord) : State :=
  let x := s.ctx e c
  let n := (x.reg w.a).toNat
  let (b, st) := s.bufArg x.queue (x.reg w.b) 128
  if st ≠ Config.OK then complete s e c st 0
  else
    let masks := (List.range 64).map (fun l => BitVec.ofNat 16 (s.bufNum (b + 2 * l) 2))
    if s.waysOk n masks then setWays s e c n masks else complete s e c Config.BAD_OPERAND 0

/-- CACHE_WAYS (R114). -/
def execCacheWays (e c : Nat) (s : State) : Out := .next (synStep s e c (fun w => w.op == 0x3A) (cacheWaysBody e c))

/-! ## Cache: range operations -/

/-- The range of a cache instruction and a status: DENIED on a line of a region out of reach, BAD_OPERAND for a form that
R127 does not give or a region marked closing (R49). -/
def State.cacheRange (s : State) (e c : Nat) (w : SWord) (all : Bool) : Nat × Nat × Nat :=
  let x := s.ctx e c
  let len := (x.reg w.b).toNat
  let lo := if all then 0 else (hostOf (x.reg w.a)).getD (2 ^ 44)
  let hi := if all then 2 ^ 44 else lo + len
  let touched := s.maps.regions.filter (fun p => decide (p.2.base < hi) && decide (lo < p.2.base + p.2.size))
  let st :=
    if touched.any (fun p => !reaches p.2 (s.queueAdmin x.queue) (s.queueSessLabel x.queue)) then Config.DENIED
    else if all then Config.OK
    else if lo % 256 ≠ 0 ∨ len % 256 ≠ 0 ∨ 2 ^ 44 < hi ∨ (hostOf (x.reg w.a)).isNone then Config.BAD_OPERAND
    else if touched.any (fun p => p.2.closing) then Config.BAD_OPERAND
    else Config.OK
  (lo, hi, st)

/-- Write back the dirty lines of a range, and with CACHE.FLUSH invalidate it (R124, R127). -/
def startClean (s : State) (e c lo hi : Nat) (inval : Bool) : State := maintain (suspend s e c (.clean lo hi inval))

/-- CACHE.FLUSH. -/
def cacheFlushBody (e c : Nat) (s : State) (w : SWord) : State :=
  let (lo, hi, st) := s.cacheRange e c w (w.bit 0)
  if st ≠ Config.OK then complete s e c st 0 else startClean s e c lo hi true

/-- CACHE_FLUSH (R127). -/
def execCacheFlush (e c : Nat) (s : State) : Out := .next (synStep s e c (fun w => w.op == 0x3B) (cacheFlushBody e c))

/-- CACHE.CLEAN. -/
def cacheCleanBody (e c : Nat) (s : State) (w : SWord) : State :=
  let (lo, hi, st) := s.cacheRange e c w (w.bit 0)
  if st ≠ Config.OK then complete s e c st 0 else startClean s e c lo hi false

/-- CACHE_CLEAN (R127). -/
def execCacheClean (e c : Nat) (s : State) : Out := .next (synStep s e c (fun w => w.op == 0x3C) (cacheCleanBody e c))

/-- CACHE.INVAL: fills that serve only reads are doomed, others are waited for, then the range goes (R125, R128). -/
def cacheInvalBody (e c : Nat) (s : State) (w : SWord) : State :=
  let (lo, hi, st) := s.cacheRange e c w (w.bit 0)
  if st ≠ Config.OK then complete s e c st 0
  else if !w.force && s.cache.lines.any (fun p => p.2.dirty && inRange p.1 lo hi) then complete s e c Config.DIRTY 0
  else
    let s1 := s.onCache (fun x =>
      { x with fills := x.fills.map (fun p => if inRange p.1 lo hi && !p.2.merge then (p.1, p.2.doom (x.delta p.1) (x.deltaBad p.1)) else p) })
    maintain (suspend s1 e c (.inval lo hi (w.bit 0) w.force))

/-- CACHE_INVAL (R128). -/
def execCacheInval (e c : Nat) (s : State) : Out := .next (synStep s e c (fun w => w.op == 0x3D) (cacheInvalBody e c))

/-- Whether every line of a range lies in a defined region that is not closing (R129): region by region. -/
def State.covered (s : State) : Nat → Nat → Nat → Bool
  | 0, _, _ => false
  | n + 1, lo, hi =>
    if hi ≤ lo then true
    else
      match s.regionAt lo with
      | some (_, r) => !r.closing && s.covered n (r.base + r.size) hi
      | none => false

/-- Whether a range touches a region under a FATAL key (R424). -/
def State.fatalIn (s : State) (lo hi : Nat) : Bool :=
  s.maps.regions.any (fun p => decide (p.2.base < hi) && decide (lo < p.2.base + p.2.size) && (s.keyRec p.2.key).state == 2)

/-- CACHE.ZERO: the check of the whole range, its key included, then line by line in ascending address (R127, R129). -/
def cacheZeroBody (e c : Nat) (dram : Dram) (s : State) (w : SWord) : State :=
  let (lo, hi, st) := s.cacheRange e c w false
  if st ≠ Config.OK then complete s e c st 0
  else if !s.covered 257 lo hi then complete s e c Config.BAD_OPERAND 0
  else if s.fatalIn lo hi then complete s e c Config.KEY_FATAL 0
  else zeroNext s e c lo lo hi dram

/-- CACHE_ZERO (R129). -/
def execCacheZero (e c : Nat) (dram : Dram) (s : State) : Out :=
  .next (synStep s e c (fun w => w.op == 0x3E) (cacheZeroBody e c dram))

/-- H.FLUSH_ALL issues CACHE.FLUSH of range ALL (Table 10-10). -/
def execHFlushAll (e c : Nat) (s : State) : Out :=
  .next (houseStepOf s e c 3 (fun t _ => startClean t e c 0 (2 ^ 44) true))

end Sys2Proof.Machine
end

