-- ==== Sys2Proof/Machine/Format.lean ====
section
/-! DEFINITION. H.INIT and H.FORMAT: the DRAM partition (R107), the flush reserve and the dirty budget (R140, R232, R233),
the frame indexes and the channel table (R136, R139), HCAP (R43), the boot record (R243). -/

namespace Sys2Proof.Machine

open Sys2Proof

/-! ## Capacity and DRAM partition -/

/-- Most frame indexes that a device binds (R136). -/
def fxLimit : Nat := 22369621

/-- Counted frames of a channel (R106). -/
def State.counted (s : State) (c : Nat) : Nat := ((s.chan c).planes.map (fun p => p.2.2)).sum

/-- Counted frames of every enabled channel. -/
def State.countedAll (s : State) : Nat := ((List.range s.chanCount).map s.counted).sum

/-- HCAP that the dies present give: 0.875 of the T-mode user capacity, in whole 2 MiB (R43, R106, R136). -/
def State.dieHcap (s : State) : Nat := min fxLimit s.countedAll * 786432 * 7 / 8 / Config.grain * Config.grain

/-- HCAP of the partition: the fixed one, or before H.FORMAT the one that the dies would give. -/
def State.partHcap (s : State) : Nat := if s.boot.sysFrames then s.maps.hcap else s.dieHcap

/-- DRAM attached, in GiB. -/
def State.dramTotal (s : State) : Nat := s.medium.dramGib.sum

/-- Largest cache data area, in GiB, beside a map area (R107); none where not even 1 GiB fits. -/
def cacheArea (total map : Nat) : Option Nat :=
  ((List.range total).map (fun i => total - i)).find? (fun c => decide (map + (2 + ceilDiv c 16) + c ≤ total))

/-- Map area in GiB (R107). -/
def mapArea (hcap : Nat) : Nat := ceilDiv hcap (2 ^ 40)

/-- DRAM divided into its areas, and the sets of the cache (R107, R108). -/
def partition (s : State) : State :=
  let m := mapArea s.partHcap
  let c := (cacheArea s.dramTotal m).getD 0
  (s.onMedium (fun x => { x with mapGib := m, cacheGib := c })).onCache (fun x => { x with sets := c * 2 ^ 18 })

/-! ## Budget (R121, R232, R233) -/

/-- Dirty budget of Table 4-3 with its cap of C / 2, in units of 64 MiB. -/
def State.budgetCap (s : State) : Nat := min (Config.budgetLines s.boot.straps.hold / 262144) (8 * s.medium.cacheGib)

/-- RESERVE frames that each channel sets aside (Table 5-3). -/
def State.reserveWant (s : State) : Nat := reserveFrames s.boot.straps.hold (262144 * s.budgetCap) s.chanCount

/-- P_c as H.INIT takes it: planes that hold a bound frame index, capped at the RESERVE frames (R232). -/
def State.initPlanes (s : State) (c : Nat) : Nat := min (s.planeCount c) s.reserveWant

/-- P_c as the reserve stands: planes that hold a RESERVE frame (R232). -/
def State.heldPlanes (s : State) (c : Nat) : Nat :=
  (((s.chan c).reserve.map (fun fx => ((s.frame fx).die, (s.frame fx).plane))).eraseDups).length

/-- R_F times T_PROG_S, in bytes (R232). -/
def State.flushRate (s : State) (planes : Nat → Nat) : Nat :=
  ((List.range s.chanCount).map (fun c => min (16 * s.dieMax (·.tProgS)) (288 * planes c))).sum

/-- P_F × 1,207,959,552 B × T_PROG_S, in nJ B: over the flush rate it is the energy of one GiB (R232, R233). -/
def State.flushCost (s : State) : Nat := (13 + s.chanCount) * 1207959552 * s.dieMax (·.tProgS)

/-- Budget that the hold-up energy of the class allows, in units of 64 MiB (R233). -/
def State.budgetEnergy (s : State) (rate : Nat) : Nat :=
  let nj := (Config.holdMj s.boot.straps.hold - 250) * 1000000
  if rate = 0 then 0 else min (16 * nj / 140000000) (16 * nj * rate / s.flushCost)

/-- Energy that a budget needs, in whole mJ (R233); none at HOLD 0. -/
def State.holdNeedOf (s : State) (rate b : Nat) : Nat :=
  if s.boot.straps.hold = 0 then 0
  else 250 + max (140 * b / 16) (s.flushCost * b / (max 1 rate * 16000000))

/-- The budget for a number of planes per channel is set and reported; a budget that the energy lowered is recorded (R233). -/
def setBudget (s : State) (planes : Nat → Nat) : State :=
  let rate := s.flushRate planes
  let b := min s.budgetCap (s.budgetEnergy rate)
  let t := (s.onCache (fun x => { x with budget := 262144 * b })).onPers (fun p => { p with holdNeed := s.holdNeedOf rate b })
  if s.budgetEnergy rate < s.budgetCap then record t (Config.evClass 8 0) 0 else t

/-! ## The flush reserve (R140) -/

/-- First frame index and bound count of every plane of a channel that was given an index. -/
def planeStarts : List (Nat × Nat × Nat) → Nat → Nat → List (Nat × Nat)
  | [], _, _ => []
  | (_, _, k) :: t, first, left =>
    let n := min k left
    if n = 0 then planeStarts t first left else (first, n) :: planeStarts t (first + n) (left - n)

/-- The RESERVE frames of a channel, dealt round robin over its planes, each plane's lowest-indexed FREE frames first (R140). -/
def dealReserve (starts : List (Nat × Nat)) (free : Nat → Bool) (want : Nat) : List Nat :=
  let pools := starts.map (fun p => ((List.range p.2).map (fun i => p.1 + i)).filter free)
  let rounds := ceilDiv want (max 1 starts.length)
  ((List.range rounds).flatMap (fun r => pools.filterMap (fun l => l[r]?))).take want

/-- Whether a frame of a channel may stand in its reserve: it stands there, or is FREE, on an accepted die (R103); a frame due to
retire is no FREE frame. -/
def State.reservable (s : State) (c fx : Nat) : Bool :=
  let f := s.frame fx
  !s.medium.retireDue.contains fx
    && (s.descOf f).isSome && ((s.chan c).reserve.contains fx || (f.bound && f.state == 0 && (s.chan c).clearing.map (·.1) != some fx))

/-- A frame that leaves the reserve is FREE: it takes the channel's next ORDER (Table 5-1) and stands at the tail of the free pool. -/
def freeReserve (s : State) (c fx : Nat) : State :=
  let x := s.chan c
  if fx < x.virgin then
    (s.updFrame fx (fun f => { f with state := 0, order := x.order })).updChan c (fun y =>
      { y with order := (y.order + 1) % 2 ^ 22, free := y.free ++ [fx] })
  else if Tbl.has s.medium.frames fx then
    (s.updFrame fx (fun f => { f with state := 0, order := x.order })).updChan c (fun y => { y with order := (y.order + 1) % 2 ^ 22 })
  else s

/-- The reserve of every channel is dealt afresh where the frames wanted have changed (R140). -/
def redeal (s : State) : State :=
  let want := s.reserveWant
  (List.range s.chanCount).foldl (fun t c =>
    let x := t.chan c
    if x.reserve.length = want ∨ x.count = 0 then t
    else
      let new := dealReserve (planeStarts x.given x.first x.count) (t.reservable c) want
      let out := x.reserve.filter (fun fx => !new.contains fx)
      let t1 := (new.filter (fun fx => Tbl.has t.medium.frames fx)).foldl (fun u fx => u.updFrame fx (fun f => { f with state := 5 })) t
      out.foldl (fun u fx => freeReserve u c fx) (t1.updChan c (fun y =>
        { y with reserve := new, free := y.free.filter (fun fx => !new.contains fx) }))) s

/-- The S-mode clear of a RESERVE frame, counted in its header (R82, R83, R252, Table 5-3); one whose wear it would take past 1 is not
cleared: it is due to retire (R101, R225). A frame of a die that is not accepted is never cleared (R103). -/
def clearReserve (s : State) (fx : Nat) : State :=
  let f := s.frame fx
  if ((s.descOf f).map (fun ds => wearOk ds f 1)).getD false then
    let t := headerClear (s.onMedium (fun m => { m with stampNext := m.stampNext + 1 })) fx 1 s.medium.stampNext
    afterClear t f.ch fx false
  else if (s.descOf f).isNone then s
  else s.onMedium (fun m => { m with retireDue := if m.retireDue.contains fx then m.retireDue else m.retireDue ++ [fx] })

/-- Every RESERVE frame is cleared. -/
def clearReserves (s : State) : State :=
  (List.range s.chanCount).foldl (fun t c => (t.chan c).reserve.foldl clearReserve t) s

/-- Every JOURNAL frame is cleared in S-mode, ready for records (R154). -/
def clearJournals (s : State) : State :=
  (List.range s.chanCount).foldl (fun t c => (t.chan c).journalFrames.foldl clearReserve t) s

/-! ## H.INIT (Table 10-10) -/

/-- The defaults of H.INIT but the spreads (R114, R218, R260, R283, R471). -/
def initDefaults (s : State) : State :=
  let t := partition s
  let t1 := t.onCache (fun x => { x with active := 16, masks := List.replicate 64 0xFFFF })
  let r := t1.regul
  let t2 := { t1 with
    regul := { r with
      buckets := []
      arbs := r.arbs.map (fun (p : Nat × Arb) =>
        (p.1, { p.2 with
          k := 16, w := 64, recs := p.2.recs.map (fun (q : Nat × ArbRec) => (q.1, { q.2 with hipri := false })) })) } }
  let t3 := t2.onMedium (fun m => { m with scrubHours := 24 })
  setBudget t3 t3.initPlanes

/-- Spread limits that g0 gives H.INIT (R218): SPREAD_S in [31:0], SPREAD_T in [63:32]; none where one is out of range. -/
def spreadsOf (v : Nat) : Option (Nat × Nat) :=
  if v = 0 then some (4096, 512)
  else
    let a := v % 2 ^ 32
    let b := v / 2 ^ 32
    if 256 ≤ a ∧ a ≤ 65536 ∧ 32 ≤ b ∧ b ≤ 8192 then some (a, b) else none

/-- H.INIT on demand: the spreads are checked first; it is refused as a whole where SCRUB.RATE 24 would not fit the ledger, or
where the cache is off and CACHE.ON would be refused. -/
def hInit (e c : Nat) (s : State) (_ : Nat) : State :=
  match spreadsOf ((s.ctx e c).reg 0).toNat with
  | none => complete s e c Config.BAD_OPERAND 0
  | some (a, b) =>
    if !s.fullService then complete s e c Config.NOT_READY 0
    else if (List.range s.chanCount).any (fun ch => (s.chanFails s.regul.commits 24 ch).isSome) then
      complete s e c Config.LEDGER_FULL 0
    else if !s.cache.on && !s.cache.invalAll then complete s e c Config.BAD_OPERAND 0
    else
      let t := initDefaults s
      let t1 := t.onMedium (fun m => { m with spreadS := a, spreadT := b })
      let t2 := if s.cache.on then t1 else turnOn t1
      complete (releaseWaiting (hs6Swap t2 ((List.range t2.chanCount).filter (fun c => !t2.progShadow c)))) e c Config.OK 0
where
  /-- Requests held at a bucket that has gone take their way. -/
  releaseWaiting (s : State) : State :=
    s.regul.held.foldl (fun t r => enterTable t r) { s with regul := { s.regul with held := [] } }

/-- H_INIT (R107). -/
def execHInit (e c : Nat) (s : State) : Out := .next (houseStepOf s e c 1 (hInit e c))

/-! ## The boot record (R243) -/

/-- The FSEQ after the highest one issued: a value whose low 8 bits are zero is skipped (R243). -/
def nextFseq (n : Nat) : Nat := (if (n + 1) % 256 = 0 then n + 2 else n + 1) % 2 ^ 32

/-- The reserve is verified: at HOLD 1 to 3 the cache goes write-back and the boot record is written (R243, R252). -/
def enterWriteBack (s : State) : State :=
  let hold := s.boot.straps.hold
  let s1 := s.onPers (fun p => { p with reserveOk := true })
  if hold = 0 then s1
  else
    let n := nextFseq s.pers.bootFseq
    (s1.onCache (fun x => { x with wback := x.on })).onPers (fun p => { p with bootFseq := n, bootHold := hold, fseq := n })

/-! ## H.FORMAT (R136, R139, R140, R43, R472) -/

/-- Entries of the channel table that each channel holds: the whole part of its quota, the rest by largest fraction (R139). -/
def tableShares (k : List Nat) : List Nat :=
  let tot := max 1 k.sum
  let whole := k.map (fun x => 4096 * x / tot)
  let frac := fun (i : Nat) => 4096 * k.getD i 0 % tot
  let order := (List.range k.length).mergeSort (fun a b =>
    decide (frac b < frac a) || (frac a == frac b && decide (a ≤ b)))
  let extra := order.take (4096 - whole.sum)
  whole.mapIdx (fun i n => n + flag (extra.contains i))

/-- The channel table of the counted frames of each enabled channel (R139). -/
def channelTable (k : List Nat) : List Nat :=
  let n := tableShares k
  let keys := (List.range k.length).flatMap (fun c => (List.range (n.getD c 0)).map (fun i => (2 * i + 1, 2 * n.getD c 0, c)))
  (keys.mergeSort (fun a b =>
    decide (a.1 * b.2.1 < b.1 * a.2.1) || (a.1 * b.2.1 == b.1 * a.2.1 && decide (a.2.2 ≤ b.2.2)))).map (fun x => x.2.2)

/-- Spare frames of a channel: the good frames of each plane that no index was bound to (R106, R136). -/
def spareFrames (c : Chan) (left : Nat) : List (Nat × Nat × Nat) :=
  (c.planes.foldl (fun (acc : List (Nat × Nat × Nat) × Nat) p =>
    let (d, pl, k) := p
    let n := min k acc.2
    match (c.dies.getD d {}).desc with
    | none => acc
    | some ds =>
      (acc.1 ++ (List.range (goodFrames ds pl - n)).map (fun i => (d, pl, nthGood ds pl (n + i))), acc.2 - n)) ([], left)).1

/-- The frame indexes, set-asides and spares of every enabled channel (R136, R140). -/
def bindFrames (s : State) : State :=
  let want := s.reserveWant
  ((List.range s.chanCount).foldl (fun (acc : State × Nat) c =>
    let t := acc.1
    let left := fxLimit - acc.2
    let n := min (t.counted c) left
    (t.updChan c (fun x =>
      let spare := spareFrames x left
      { x with
        first := acc.2, count := n, layout := x.planes, inService := n, virgin := acc.2
        reserve := dealReserve (planeStarts x.planes acc.2 n) (fun _ => true) want
        journal := ceilDiv 4096 s.chanCount, system := ceilDiv 256 s.chanCount, spareList := spare
        spares := spare.length }), acc.2 + n)) (s, 0)).1

/-- The first H.FORMAT of a device: the frames of the reserve and of the journal are cleared as they are set aside. -/
def formatDevice (s : State) : State :=
  let t := bindFrames s
  let t1 := t.onMedium (fun m => { m with chanTable := channelTable ((List.range s.chanCount).map s.counted) })
  let t2 := t1.onMaps (fun m => { m with hcap := s.dieHcap })
  let t3 := { t2 with
    boot := { t2.boot with
      formatted := true, sysFrames := true, recMch := s.boot.straps.mch, recMapGib := mapArea s.dieHcap } }
  enterWriteBack (recompute (clearJournals (clearReserves t3)))

/-- Region 0 as H.FORMAT defines it (Table 10-10). -/
def formatRegion (hcap key : Nat) : Region :=
  { base := 0, size := hcap, density := 2, mono := false, integ := false, key := key, label := 0, access := 0, ways := 0 }

/-- H.FORMAT: the key first, then the device where it is not formatted, then region 0 as RGN.DEF would define it (R42). -/
def hFormat (e c : Nat) (s : State) (_ : Nat) : State :=
  let k := ((s.ctx e c).reg 0).toNat
  let r := s.keyRec k
  if !s.fullService then complete s e c Config.NOT_READY 0
  else if 64 ≤ k ∨ r.state = 0 then complete s e c Config.BAD_OPERAND 0
  else if r.state = 2 then complete s e c Config.KEY_FATAL 0
  else if s.boot.sysFrames then
    let st := s.defCheck 0 (formatRegion s.maps.hcap k)
    if st ≠ Config.OK then complete s e c st 0 else journalRegion s e c 0 (some (formatRegion s.maps.hcap k))
  else if s.dieHcap = 0 then complete s e c Config.BAD_OPERAND 0
  else journalRegion (formatDevice s) e c 0 (some (formatRegion s.dieHcap k))

/-- H_FORMAT (R136): while another region change waits for its record it has not its turn (R332). -/
def execHFormat (e c : Nat) (s : State) : Out :=
  .next (if s.rgnTurn then houseStepOf s e c 2 (hFormat e c) else s)

end Sys2Proof.Machine
end

