-- ==== Sys2Proof/Machine/Reset.lean ====
section
/-! DEFINITION. What a device reset clears and keeps (R474, Table 1-5), what becomes of the programs in flight (R93, R95, R160),
and the start of a flush (R236 to R238). -/

namespace Sys2Proof.Machine

open Sys2Proof

/-! ## Programs in flight -/

/-- In-place programs of monotone pairs that a sudden reset meets (R88, R93): a line whose step 2 or 3 has ended stands within the next
step; of one before that it is free whether step 2 was reached. How far a step came is free (log 1). -/
def tearLine (m : Move) (s : State) (q : Snap) : State :=
  match m.img.lines[q.line % 16]? with
  | none => s
  | some i =>
    let k := m.step q.line + 1
    let t := s.burn 2
    if k ≤ 2 ∧ s.freeVal % 2 = 0 then t
    else updStored t m.new q.line (fun x => x.within i.plain k (Config.freeValue (s.free + 1)))

/-- Every line of the in-place programs of monotone pairs in flight. -/
def tearPrograms (s : State) : State :=
  (s.maps.moves.filter (fun p => p.2.stage == 0 && p.2.old == p.2.new)).foldl (fun t p => p.2.snap.foldl (tearLine p.2) t) s

/-- The journal slots that a sudden reset meets: the bits of a seal's COMMIT that stand are free, and with them whether its record is
committed (R89, R156, log 1). -/
def tearSeal (s : State) : State :=
  match s.maps.jseal with
  | none => s
  | some r => putJournal (s.burn 1) r true (some (BitVec.ofNat 16 s.freeVal))

/-- A line of an in-place program that has begun step 2 is finished (R95): whether one whose step 2 has not ended had begun is free
(log 1); a line that had not stays dirty. -/
def finishLine (m : Move) (s : State) (q : Snap) : State :=
  match m.img.lines[q.line % 16]? with
  | none => s
  | some i =>
    let t := s.burn 1
    if m.step q.line ≤ 1 ∧ s.freeVal % 2 = 0 then t
    else
      leavePoisonSet (cleanLine (updStored t m.new q.line (fun x => x.after i.plain 4)) q i.plain false m.buf) (q.line / 16)
        (fun l => l == q.line)

/-- Seals and monotone programs already started finish before a flush (R95, R160). -/
def finishPrograms (s : State) : State :=
  let s1 := match s.maps.jseal with
    | some r => commitRecord s r
    | none => s
  (s1.maps.moves.filter (fun p => p.2.stage == 0 && p.2.old == p.2.new)).foldl (fun t p => p.2.snap.foldl (finishLine p.2) t) s1

/-- The page positions into which copies were being programmed hold nothing that the spec gives (R398). -/
def cutCopies (s : State) : State :=
  (s.maps.moves.filter (fun p => p.2.stage == 0 && mapped p.2.new && p.2.old != p.2.new)).foldl (fun t p =>
    t.updFrame (fxOf p.2.new) (fun f => { f with hurt := f.hurt ++ [posOf p.2.new] })) s

/-- Every other move is abandoned (R160). -/
def abandonMoves (s : State) : State :=
  ((cutCopies s).onMaps (fun m =>
    { m with moves := [], waitMoves := [], jpend := [], jregion := [], jbody := none, jready := none, jseal := none })).onPers
    (fun p => { p with ckpt := none })

/-! ## Device reset (R474) -/

/-- A die after its RST_N has fallen (R412): its descriptor is what the medium of it still holds. -/
def Die.afterReset (d : Die) : Die := { desc := d.desc }

/-- A channel after a reset: what stands on its medium stays, everything in DRAM and SRAM goes. ORDER and the channel's counter have no
source that outlives the DRAM (R161): the model keeps them (DESIGN CHOICE, log 93). -/
def Chan.afterReset (c : Chan) : Chan :=
  { dies := c.dies.map Die.afterReset, first := c.first, count := c.count, layout := c.layout, inService := c.inService,
    reserve := c.reserve, journal := c.journal, system := c.system, virgin := c.virgin, free := c.free, cleared := c.cleared,
    opens := c.opens, retired := c.retired, spares := c.spares, spareList := c.spareList, order := c.order,
    scratch := c.scratch, scratchHead := c.scratchHead, calFill := c.calFill, calHead := c.calHead }

/-- A port after a reset: it keeps the reason of its last DOWN. -/
def Port.afterReset (p : Port) : Port := { Port.reset with downTx := p.downTx, downRx := p.downRx }

/-- The recorder after a device reset keeps its SRAM; counters, sampling and ring go (R474, Table 1-5). -/
def Records.afterReset (r : Records) : Records :=
  { pcc := r.pcc, opsec := r.opsec, classes := r.classes, heads := r.heads, hdrHead := r.hdrHead, hists := r.hists,
    saved := r.saved, saveCut := r.saveCut, frozen := r.frozen, changedClasses := r.changedClasses, nv := r.nv,
    nvState := r.nvState, nvSeq := r.nvSeq, nvFill0 := r.nvFill0, nvFill1 := r.nvFill1, nvHead0 := r.nvHead0,
    nvHead1 := r.nvHead1, erased0 := r.erased0, erased1 := r.erased1, nvBase := r.nvBase, tallySect := r.tallySect,
    tallyCells := r.tallyCells }

/-- The Goose island through a device reset: its retained state stays; the settings of RAIL.CFG and THERM.CFG and the rails
that stay off until a device reset go back (R333, R440, R445). -/
def Goose.afterReset (g : Goose) : Goose :=
  { g with
    rails := g.rails.mapIdx (fun i x =>
      { x with
        policy := (Config.railDefault i).1, group := (Config.railDefault i).2, alert := false
        on := x.on || (x.stayOff && g.upStep == 8), ramp := x.ramp || (x.stayOff && g.upStep == 8), stayOff := false
        retries := 0, retryOff := false, incident := false })
    faultStart := 0, wedge := false, alive := false, stopping := false, hold10 := false, tmax := 0, tmaxSite := 0
    warn := false, warnLevel := 0, warnNtf := false, warnTrig := none, warnAlert := false }

/-- What a device reset leaves of the whole device: fuses, the Goose island's retained state, the recorder's SRAM, NOR and
medium stay; every other state is as after power-up (R474, Table 1-5). -/
def coreReset (s0 : State) : State :=
  let s := cutCopies (tearSeal (tearPrograms s0))
  let b := s.boot
  let m := s.medium
  { boot :=
      { straps := b.straps, strapFault := b.strapFault, resetN := b.resetN, inReset := b.inReset, stage := 1,
        okhSet := b.okhSet, okh := b.okh, idOkh := b.okh, norA := b.norA, norB := b.norB, recMch := b.recMch,
        recMapGib := b.recMapGib, sysFrames := b.sysFrames, cold := b.cold, tapIr := b.tapIr }
    goose := s.goose.afterReset
    ports := s.ports.map Port.afterReset
    cache := { masks := List.replicate 64 0xFFFF }
    maps :=
      { regions := s.maps.regions.map (fun p => (p.1, { p.2 with closing := false })), hcap := s.maps.hcap }
    medium :=
      { chans := m.chans.map Chan.afterReset, frames := m.frames, pages := m.pages, sysPages := m.sysPages, chanTable := m.chanTable,
        stampNext := m.stampNext, stamps := m.stamps, jslots := m.jslots, patterns := m.patterns }
    pers :=
      { s.pers with
        reserveOk := false, flush := none, flushDone := false, ckpt := none, rebuild := 0, rebuilt := [], order := []
        toRestore := [], restoredLines := [], lambReads := [], lambWrites := [] }
    regul :=
      { commits := s.regul.commits.map (fun (p : Nat × Commit) => (p.1, { p.2 with owner := none })), gens := s.regul.gens
        slots := s.regul.slots.map (fun x => { Slots.reset with live := x.live }), refTicks := s.regul.refTicks }
    eng := { timers := List.replicate 8 {}, trig := [0, 0, 0, 0] }
    keys :=
      { log := s.keys.log, drk := s.keys.drk, tk := s.keys.tk
        pipes := List.replicate 8 0 }
    recs := s.recs.afterReset, free := s.free, pending := s.pending }

/-- Whether VDD_IO is out of range, which takes RESET_N to be low (R473). -/
def State.ioBad (s : State) : Bool := !(s.rail 2).on || (s.rail 2).inFault

/-- The device resets and starts at phase 1 with its rails up; the strap window follows unless RESET_N holds it (R465, R474). -/
def deviceReset (s : State) : State :=
  let t := coreReset s
  let held := !s.boot.resetN || s.ioBad
  { t with
    boot := { t.boot with strapWindow := !held, inReset := held }
    goose := { t.goose with phase := 1, lastCause := 6, downCause := 0, downStep := 0, thermalStop := false } }

/-- A reset with the effect of FORCE: the event recorded, DOWN with reason 2, no flush (R255, R473, R474). -/
def forcedReset (s : State) : State :=
  let t := if s.running then { record s (Config.evClass 8 2) 0 with ports := s.ports.map (fun p => p.sendDown 2) } else s
  deviceReset t

/-! ## Power -/

/-- All rails go and with them everything volatile, the recorder's SRAM included; phase 0 or lockout (R445, R451, R482). What STATUS says of the
time since the last start stands until the next one (Table 15-9). -/
def powerLoss (s : State) (cause : Nat) : State :=
  let t := coreReset s
  let g := t.goose
  { t with
    boot := { t.boot with stage := 0, strapWindow := false, inReset := false, cold := 2 }
    goose := { g with
      rails := g.rails.mapIdx (fun i x => { Rail.reset i with sense := x.sense, pg := x.pg }), upStep := 0, downStep := 0
      downCause := 0, lastCause := cause, phase := if g.lockout then 7 else 0, norBusy := false, alive := false
      faultStart := s.goose.faultStart, wedge := s.goose.wedge }
    ports := t.ports.map (fun _ => Port.reset) }

/-! ## Flush start -/

/-- Whether a flush writes an image: the boot record of this start is written (R243). -/
def State.mayFlush (s : State) : Bool := s.pers.reserveOk && s.boot.straps.hold != 0

/-- HS5 stands at every DRAM and media arbiter with a transfer, where it goes ahead of every other requester (R21, Table 8-2). -/
def hs5Want (s : State) : State :=
  ((List.range s.dramCount).map (fun i => 0x20 + i) ++ (List.range s.chanCount).map (fun i => 0x40 + i)).foldl (fun t a =>
    arbWant t a (hs5At a)) s

/-- The transfers of HS5 that still stood at the arbiters have been granted: the step that made them is done (R239). -/
def hs5Granted (s : State) : State :=
  { s with
    regul := { s.regul with
      arbs := s.regul.arbs.map (fun p =>
        (p.1, { p.2 with
          recs := Tbl.upd p.2.recs (hs5At p.1) (fun r =>
            { r with grants := (r.grants + r.pend.length + r.late) % 2 ^ 48, pend := [], late := 0 }) })) } }

/-- The flush starts (R236): HS5 takes every arbiter; each port sends what is built, then DOWN with reason 1, and goes idle (R238); ALIVE
falls (R459). -/
def startFlush (s : State) (cause : Nat) : State :=
  if s.flushing then s
  else
    hs5Want { s with
      pers := { s.pers with flush := some ⟨1, cause, s.regul.refTicks⟩, flushDone := false }
      ports := s.ports.map (fun p => if p.up then p.pump.sendDown 1 else { p with elecIdle := true, state := 0 })
      goose := { s.goose with phase := 4, alive := false } }

/-- Power-down begins (R450, R451). -/
def beginPowerDown (s : State) (cause : Nat) : State :=
  if s.goose.downStep != 0 then s
  else
    { s with
      goose := { s.goose with phase := 6, alive := false, stopping := false, hold10 := false, downStep := 1, downCause := cause }
      ports := s.ports.map (fun p => if p.up then p.sendDown 2 else { p with elecIdle := true, state := 0 }) }

end Sys2Proof.Machine
end

