-- ==== Sys2Proof/Machine/Flush.lean ====
section
/-! DEFINITION. The steps of the power-fail flush (R239 to R243): the image, the map state, the manifest. -/

namespace Sys2Proof.Machine

open Sys2Proof

/-- Tweak of a flush line slot (R420, Table 14-3). -/
def flushTweak (line key fseq : Nat) : Tweak := ⟨line, 0, key, 1, fseq⟩

/-- One flush line slot (R240): under the key of the line's region; a line whose cipher faults is written as poison (R427). -/
def State.flushSlot (s : State) (faulted : List Nat) (line : Nat) (d : Line) (delta mono poison wbb : Bool) : FSlot :=
  let key := ((s.regionAt (line * 256)).map (fun p => p.2.key)).getD 0
  let bad := faulted.contains line
  { line := line, delta := delta && !bad, mono := mono, wbb := wbb, fseq := s.pers.bootFseq
    img :=
      { plain := if bad then 0 else d, keys := (s.keyRec key).keys, tweak := flushTweak line key s.pers.bootFseq
        poison := poison || bad } }

/-- Every dirty line and every line of the write-back buffer, no clean line and no orphan (R240). -/
def State.flushImage (s : State) (faulted : List Nat) : List FSlot :=
  (s.cache.wbb.map (fun p => s.flushSlot faulted p.1 p.2.data p.2.delta p.2.mono p.2.poison true))
    ++ ((s.cache.lines.filter (fun p => p.2.dirty)).map (fun p =>
        s.flushSlot faulted p.1 p.2.data p.2.delta p.2.mono p.2.poison false))

/-- Step 3: clears on dies that hold RESERVE frames are aborted. -/
def abortClears (s : State) : State :=
  (List.range s.chanCount).foldl (fun t c =>
    t.updChan c (fun x =>
      match x.clearing with
      | some (fx, _) =>
        if x.reserve.any (fun r => (s.frame r).die == (s.frame fx).die) then { x with clearing := none } else x
      | none => x)) s

/-- Dirty lines that HS5 cannot read correctly go with POISON, recorded as at a write-back (R113, R446). -/
def flushUnread (s : State) (unread : List Nat) : State :=
  (unread.filter (fun l => (Tbl.find s.cache.lines l).any (·.dirty))).foldl (fun t l =>
    record (t.onCache (fun c => { c with lines := Tbl.upd c.lines l (fun x => { x with poison := true }) })) (Config.evClass 4 1)
      (l / 16 % 2 ^ 32)) s

/-- Step 5: the image; each line whose cipher faulted is counted and recorded (R426, R427). -/
def writeImage (s0 : State) (faulted unread : List Nat) : State :=
  let s := flushUnread s0 unread
  if s.mayFlush then
    let img := s.flushImage faulted
    (img.filter (fun x => faulted.contains x.line)).foldl (fun t _ => flushFault t)
      (s.onPers (fun p => { p with image := img, mapImage := [], manifest := none, manifestB := none }))
  else s

/-- Step 7: the poison sets and line patch tables (R241). -/
def writeMapState (s : State) : State :=
  if s.mayFlush then
    s.onPers (fun p =>
      { p with
        mapImage := (List.range s.chanCount).map (fun c => ((s.chan c).poisonSet ++ (s.chan c).poisonWait, (s.chan c).patches)) })
  else s

/-- The manifest body of a flush (Table 8-4); its count of map-state slots is not given: a free value (log 1). DURATION runs from the trigger
to step 8, and the spec does not say to which end of it: the model takes the time when the step ends (DESIGN CHOICE, log 96). -/
def State.manifestBody (s : State) (f : FlushRun) : Manifest :=
  { fseq := s.pers.bootFseq, jF := s.committedJseq, lines := s.pers.image.length, mslots := s.freeVal % 2 ^ 16, cause := f.cause
    hold := s.boot.straps.hold, duration := usOf (s.regul.refTicks - f.start) }

/-- Step 8: the manifest is written twice, with the DURATION that stands as the step ends (R242; DESIGN CHOICE, log 96). -/
def writeManifest (s : State) (f : FlushRun) : State :=
  if s.mayFlush then
    let m := s.manifestBody f
    sample ((s.burn 1).onPers (fun p => { p with manifest := some m, manifestB := some m })) 12 m.duration
  else s

/-- A flush in progress is cut off and leaves what it has written; one that writes no image leaves an earlier image as it is
(R236, R243, R445, R459). Which line slots stand of step 5, and which copies of the manifest of step 8, is free (log 1). -/
def cutFlush (s : State) : State :=
  match s.pers.flush with
  | none => s
  | some f =>
    if !s.mayFlush then s.onPers (fun p => { p with flush := none })
    else if f.step = 5 then
      let l := s.flushImage []
      (s.burn l.length).onPers (fun p =>
        { p with
          flush := none
          image := (l.mapIdx (fun i x => (Config.freeValue (s.free + i) % 2 == 1, x))).filterMap (fun y =>
            if y.1 then some y.2 else none) })
    else if f.step = 8 then
      let m := s.manifestBody f
      let n := Config.freeValue (s.free + 1) % 3
      (s.burn 2).onPers (fun p =>
        { p with flush := none, manifest := if n = 0 then none else some m, manifestB := if n = 2 then some m else none })
    else s.onPers (fun p => { p with flush := none })

/-- Step 9: dies parked, completion reported to the Goose island (R411). -/
def parkChannels (s : State) : State :=
  (s.onMedium (fun m => { m with chans := m.chans.map (fun c => { c with rstN := false, csHigh := true, ck := false, state := 0 }) })).onPers
    (fun p => { p with flushDone := true })

/-- The next step of a flush begins: from step 4 to step 8 HS5 moves data through its arbiter ports (R21). -/
def flushStepBegin (s : State) (step : Nat) : State := if 4 ≤ step ∧ step ≤ 8 then hs5Want s else s

/-- FLUSH_STEP_DONE: the present step of Table 8-2 has been programmed and verified on every channel. -/
def flushStepDone (s : State) (faulted unread : List Nat) : State :=
  match s.pers.flush with
  | none => s
  | some f =>
    if s.pers.flushDone then s
    else
      let t :=
        match f.step with
        | 2 => abandonMoves (finishPrograms s)
        | 3 => abortClears s
        | 5 => writeImage s faulted unread
        | 7 => writeMapState s
        | 8 => writeManifest s f
        | 9 => parkChannels s
        | _ => s
      flushStepBegin ((hs5Granted t).onPers (fun p => { p with flush := some { f with step := f.step + 1 } })) (f.step + 1)

/-- FLUSH_STEP_DONE (R239). -/
def execFlushStepDone (faulted unread : List Nat) (s : State) : Out := .next (flushStepDone s faulted unread)

end Sys2Proof.Machine
end

