-- ==== Sys2Proof/Machine/System.lean ====
section
/-! DEFINITION. The system instructions CLAIM, FREE, RAIL.CFG, THERM.CFG and RESET of a port or an engine (Table 11-20, R315
to R317, R350, R445). -/

namespace Sys2Proof.Machine

open Sys2Proof

/-! ## Shared resources (R315 to R317) -/

/-- Whether a number is one of Table 10-11. -/
def resourceOk (r : Nat) : Bool := decide (r < 4) || (decide (8 ≤ r) && decide (r ≤ 0x11))

/-- Whether a TENANT queue may name a resource: the timers alone (Table 10-9). -/
def State.mayClaim (s : State) (q r : Nat) : Bool := s.queueAdmin q || (decide (8 ≤ r) && decide (r < 16))

/-- Contexts that wait on a resource resume with ABORTED (R317). -/
def abortWaiters (s : State) (r : Nat) : State :=
  if 8 ≤ r ∧ r < 16 then resumeAll s (fun w => w.onTimer (r - 8)) Config.ABORTED 0 else s

/-- CLAIM of a resource (R315, R316). -/
def claimBody (e c : Nat) (s : State) (w : SWord) : State :=
  let q := (s.ctx e c).queue
  let r := w.fld 7 0
  if !s.mayClaim q r then complete s e c Config.DENIED 0
  else if !resourceOk r then complete s e c Config.BAD_OPERAND 0
  else if !s.claimOk q r then complete s e c Config.CONFLICT 0
  else complete (takeRes s q r) e c Config.OK 0

/-- CLAIM (R315). -/
def execClaim (e c : Nat) (s : State) : Out := .next (synStep s e c (fun w => w.op == 0x58 && !w.force) (claimBody e c))

/-- A resource is taken from its holder at its safe point (R317): a timer stops, a TRIG ball goes to high impedance, the ring
belongs to the new holder, the SMBus alert is deasserted; the holder is told, the event recorded. -/
def preempt (s : State) (e q r holder : Nat) : State :=
  let s1 := freeClaim (abortWaiters s r) r
  let s2 := if r = 0x10 then s1.onRecs (fun x => { x with ringQ := none }) else s1
  let s3 := if r = 0x11 then s2.onGoose (fun g => { g with smbAlert := false }) else s2
  record (notify (claimFor s3 q r) holder 0x02 Config.ABORTED r) (Config.evClass 10 0) e

/-- CLAIM with EXPERT and FORCE (R317). -/
def claimForceBody (e c : Nat) (s : State) (w : SWord) : State :=
  let q := (s.ctx e c).queue
  let r := w.fld 7 0
  if !resourceOk r then complete s e c Config.BAD_OPERAND 0
  else
    match Tbl.find s.eng.claims r with
    | none => complete (takeRes s q r) e c Config.OK 0
    | some h => if h = q then complete s e c Config.OK 0 else complete (preempt s e q r h) e c Config.OK 0

/-- CLAIM_FORCE (R317). -/
def execClaimForce (e c : Nat) (s : State) : Out :=
  .next (synStep s e c (fun w => w.op == 0x58 && w.force) (claimForceBody e c))

/-- FREE of a resource (R316): a context that still waits on a freed timer resumes with ABORTED (log 27). -/
def freeBody (e c : Nat) (s : State) (w : SWord) : State :=
  let q := (s.ctx e c).queue
  let r := w.fld 7 0
  if !s.mayClaim q r then complete s e c Config.DENIED 0
  else if !resourceOk r then complete s e c Config.BAD_OPERAND 0
  else
    match Tbl.find s.eng.claims r with
    | none => complete s e c Config.OK 0
    | some h =>
      if h = q then complete (freeClaim (abortWaiters s r) r) e c Config.OK 0
      else complete s e c Config.CONFLICT 0

/-- FREE (R316). -/
def execFree (e c : Nat) (s : State) : Out := .next (synStep s e c (fun w => w.op == 0x59) (freeBody e c))

/-! ## RAIL.CFG, THERM.CFG -/

/-- RAIL.CFG: policy and group of an ordinary or flush-path rail; ALERT claims the SMBus alert (R445, R463). -/
def railCfgBody (e c : Nat) (s : State) (w : SWord) : State :=
  let q := (s.ctx e c).queue
  let n := w.fld 3 0
  let p := w.fld 5 4
  if 11 < n ∨ Config.railAllows n p = false then complete s e c Config.BAD_OPERAND 0
  else if w.bit 12 && !s.claimOk q 0x11 then complete s e c Config.CONFLICT 0
  else
    let s1 := if w.bit 12 then takeRes s q 0x11 else s
    complete (s1.onGoose (fun g =>
      { g with
        rails := updAt g.rails n (fun x => { x with policy := p, group := w.fld 11 8, alert := w.bit 12 }) })) e c Config.OK 0

/-- RAIL_CFG (R445). -/
def execRailCfg (e c : Nat) (s : State) : Out := .next (synStep s e c (fun w => w.op == 0x5A) (railCfgBody e c))

/-- THERM.CFG: the warning level and what it does; TRIG_EN claims the ball, ALERT the SMBus alert (R335, R458). -/
def thermCfgBody (e c : Nat) (s : State) (w : SWord) : State :=
  let q := (s.ctx e c).queue
  let lvl := w.fld 7 0
  let trig := if w.bit 9 then some (w.fld 11 10) else none
  let want := trig.toList ++ (if w.bit 12 then [0x11] else [])
  if lvl ≠ 0 ∧ (lvl < 60 ∨ 110 < lvl) then complete s e c Config.BAD_OPERAND 0
  else if want.any (fun r => !s.claimOk q r) then complete s e c Config.CONFLICT 0
  else
    let s1 := want.foldl (fun t r => takeRes t q r) s
    complete (s1.onGoose (fun g =>
      { g with warnLevel := lvl, warnNtf := w.bit 8, warnTrig := trig, warnAlert := w.bit 12, warn := false })) e c Config.OK 0

/-- THERM_CFG (R335). -/
def execThermCfg (e c : Nat) (s : State) : Out := .next (synStep s e c (fun w => w.op == 0x5B) (thermCfgBody e c))

/-! ## RESET of a port and of an engine (R350) -/

/-- RESET of KIND 1: every session of the port closes, DOWN with reason 3 goes out and the link trains without KEEP. A task of a
closed session ends with ABORTED; any other completes, the link having left the active state (R350, R382). -/
def resetPortBody (e c : Nat) (s : State) (w : SWord) : State :=
  let p := w.fld 5 4
  let q := (s.ctx e c).queue
  if s.portCount ≤ p then complete s e c Config.BAD_OPERAND 0
  else
    let own := ((s.queue q).map (fun x => x.port == p)).getD false
    let s1 := (List.range 8).foldl (fun t n => closeSession t p n) s
    let s2 := s1.updPort p (fun x => (x.sendDown 3).train false)
    if own then s2 else complete s2 e c Config.OK 0

/-- RESET_KIND_1 (R350). -/
def execResetKind1 (e c : Nat) (s : State) : Out :=
  .next (synStep s e c (fun w => w.op == 0x61 && w.fld 1 0 == 1) (resetPortBody e c))

/-- A task ends with ABORTED and leaves its completion entry (R350): what it waits for no longer reaches it. -/
def abortCtx (s : State) (e c : Nat) : State :=
  (dropReqs s e c).updCtx e c (fun x =>
    if x.state = 0 ∨ x.state = 5 then x
    else { x with state := 5, wait := .none, house := 0, houseStep := 0, endCode := Config.ABORTED })

/-- RESET of KIND 2: every task of another engine ends; BUSY while it holds posted units, BAD_OPERAND for the issuer's own
(R350). -/
def resetEngineBody (e c : Nat) (s : State) (w : SWord) : State :=
  let t := w.fld 11 8
  if t = e then complete s e c Config.BAD_OPERAND 0
  else if s.eng.ctx.any (fun p => p.1 / 32 == t && !p.2.posted.isEmpty) then complete s e c Config.BUSY 0
  else complete ((List.range 32).foldl (fun u k => abortCtx u t k) s) e c Config.OK 0

/-- RESET_KIND_2 (R350). -/
def execResetKind2 (e c : Nat) (s : State) : Out :=
  .next (synStep s e c (fun w => w.op == 0x61 && w.fld 1 0 == 2) (resetEngineBody e c))

end Sys2Proof.Machine
end

