-- ==== Sys2Proof/Machine/Power.lean ====
section
/-! DEFINITION. The Goose island: rails and their faults, power-up, power-down, the inputs that start a flush, device resets,
temperature, wedges, SMBus (15; R254, R255, R473 to R475). -/

namespace Sys2Proof.Machine

open Sys2Proof

/-! ## Rails (R442 to R446) -/

/-- Change rail n. -/
def State.updRail (s : State) (n : Nat) (f : Rail → Rail) : State :=
  s.onGoose (fun g => { g with rails := updAt g.rails n f })

/-- Whether a rail is good: enabled, its PG debounced good, its sense inside the window. -/
def Rail.good (x : Rail) : Bool := x.on && x.pg && x.inWin

/-- Enable or disable a rail; an enabled rail has 2 ms to become good (R443). -/
def Rail.switch (x : Rail) (on : Bool) : Rail := { x with on := on, ramp := on, inFault := false, bad := 0, chat := 0 }

/-- A rail fault is recorded with the rail as DETAIL (R445); while the recorder is not loaded the Goose island keeps it (R452). -/
def recordRail (s : State) (n : Nat) : State :=
  if s.recs.frozen || s.boot.cold == 2 then
    s.onGoose (fun g => { g with held := g.held ++ [⟨Config.evClass 15 0, n⟩] })
  else record s (Config.evClass 15 0) n

/-- Cut all: every rail off within 1 us; the device stays off until a RESTART or the end of a VAUX collapse (R445, R463). -/
def cutAllRails (s : State) (cause : Nat) : State :=
  (powerLoss (cutFlush s) cause).onGoose (fun g => { g with cutAll := g.cutAll || cause == 4, smbAlert := true })

/-- A SerDes rail goes off and takes every port down (R445). -/
def serdesDown (s : State) : State :=
  { s with ports := s.ports.map (fun p => { p.leave with state := 0, phase := 0, elecIdle := true }) }

/-- A rail is switched off with the ports it carries. -/
def railOff (s : State) (n : Nat) : State :=
  let t := s.updRail n (fun x => x.switch false)
  if n = 9 ∨ n = 10 then serdesDown t else t

/-- A rail stays off: a loss of capability (R445). -/
def railLost (s : State) (n : Nat) : State :=
  if (s.rail n).stayOff then s else loseCapability ((railOff s n).updRail n (fun x => { x with stayOff := true }))

/-- A reset without FORCE is requested (R254, R475): with dirty lines the flush runs first, which before
the boot record writes no image (R243); it takes effect when that completes, else at once with DOWN reason 2. -/
def requestReset (s : State) : State :=
  if s.flushing || s.goose.downStep != 0 then s
  else if 0 < s.cache.dirty then
    let t := startFlush s 4
    { t with boot := { t.boot with resetWait := 1 } }
  else deviceReset { s with ports := s.ports.map (fun p => if p.up then p.sendDown 2 else p) }

/-- SYS_RESET: a reset without FORCE and, once it takes effect, power-down and power-up (R445). -/
def sysReset (s : State) : State :=
  if s.flushing || s.goose.downStep != 0 then s
  else if 0 < s.cache.dirty then
    let t := startFlush s 4
    { t with boot := { t.boot with resetWait := 1 }, goose := { t.goose with downCause := 5 } }
  else beginPowerDown s 5

/-- RETRY of a rail: off for 1 ms and on again, three times in an incident; then it stays off. -/
def retryRail (s : State) (n : Nat) : State :=
  let x := s.rail n
  if x.retries < 3 then
    (railOff s n).updRail n (fun x => { x with retryOff := true, retries := x.retries + 1, incident := true })
  else railLost s n

/-- GROUP_OFF of a rail: every rail of its group that may take GROUP_OFF goes off until the next device reset. -/
def groupOff (s : State) (n : Nat) : State :=
  (indices 12 (fun i => Config.railClass i == 2 && (s.rail i).group == (s.rail n).group)).foldl railLost s

/-- Policy of a faulting rail by strength: cut all, SYS_RESET, GROUP_OFF, RETRY, IGNORE (R446). -/
def State.railStrength (s : State) (n : Nat) : Nat :=
  if Config.railClass n = 0 then 4 else (s.rail n).policy

/-- VDD_IO out of range takes RESET_N to be low (R473). -/
def ioReset (s : State) : State :=
  if s.ioBad && !s.boot.inReset && s.goose.upStep == 8 && s.goose.downStep == 0 && !s.flushing then
    forcedReset s
  else s

/-- A rail is noted as in fault: recorded, its FAULT bit set, SMB_ALERT_N where RAIL.CFG asks for it (R445, R463, R464). -/
def noteFault (s : State) (n : Nat) : State :=
  (recordRail (s.updRail n (fun x => { x with inFault := true, ramp := false })) n).onGoose (fun g =>
    { g with
      fault := g.fault ||| BitVec.ofNat 12 (2 ^ n), faultStart := g.faultStart ||| BitVec.ofNat 12 (2 ^ n)
      smbAlert := g.smbAlert || (s.rail n).alert })

/-- Rails found in fault at one sample: each recorded; the strongest of their policies is applied, but while a flush or a
power-down runs only a privileged rail's (R445, R446). -/
def railFaults (s : State) (l : List Nat) : State :=
  let new := l.filter (fun n => !(s.rail n).inFault)
  if new.isEmpty then s
  else
    let s1 := new.foldl noteFault s
    let top := new.foldl (fun m n => max m (s.railStrength n)) 0
    let mine := new.filter (fun n => s.railStrength n == top)
    if top = 4 then cutAllRails s1 4
    else if s.flushing || s.goose.downStep != 0 then s1
    else if top = 3 then sysReset s1
    else if top = 2 then ioReset (mine.foldl groupOff s1)
    else if top = 1 then ioReset (mine.foldl retryRail s1)
    else ioReset s1

/-- A rail that is good again leaves its fault; with VDD_IO back in range a RESET_N that is high rises (R465, R473). -/
def railClear (s : State) (n : Nat) : State :=
  let x := s.rail n
  if x.good then
    let t := s.updRail n (fun x => { x with ramp := false, inFault := false })
    if n = 2 ∧ x.inFault = true ∧ s.boot.inReset = true ∧ s.boot.resetN = true ∧ s.goose.upStep = 8 then
      { t with boot := { t.boot with inReset := false, strapWindow := true } }
    else t
  else s

/-- RAIL_PG_CHANGE: a debounced change of a rail's PG, the chatter-th within the last 1 ms (R444); PG of a rail that power-down has switched off
comes back: noted, and nothing else (R452). -/
def railPgChange (s : State) (n : Nat) (level : Bool) (chatter : Nat) : State :=
  if !s.goose.vaux || decide (12 ≤ n) then s
  else
    let t := s.updRail n (fun x => { x with pg := level, chat := chatter })
    let x := t.rail n
    let up := s.goose.upStep != 0 && s.goose.upStep != 8
    if !x.on && level && t.goose.downStep != 0 then (if x.inFault then t else noteFault t n)
    else if x.on && ((!level && !x.ramp) || (up && decide (8 < chatter))) then railFaults t [n] else railClear t n

/-- RAIL_PG_CHANGE (R444). -/
def execRailPgChange (rail : Nat) (level : Bool) (chatter : Nat) (s : State) : Out := .next (railPgChange s rail level chatter)

/-- A rail after one sample of its sense input. -/
def Rail.sampleSense (x : Rail) (n mv : Nat) : Rail :=
  let (lo, hi) := Config.railWindow n
  let ok := decide (lo ≤ 10 * mv) && decide (10 * mv ≤ hi)
  { x with sense := mv, inWin := ok, bad := if ok || !x.on then 0 else x.bad + 1 }

/-- RAIL_SENSE_SAMPLE: one sample of every sense input and of the supplies (R444). -/
def railSenseSample (s : State) (mvs : List Nat) (vin vaux : Nat) : State :=
  if !s.goose.vaux then s
  else
    let t := s.onGoose (fun g =>
      { g with rails := g.rails.mapIdx (fun i x => x.sampleSense i (mvs.getD i 0)), vinMv := vin, vauxMv := vaux })
    let bad := indices 12 (fun n => (t.rail n).on && !(t.rail n).ramp && decide (3 ≤ (t.rail n).bad))
    railFaults ((List.range 12).foldl railClear t) bad

/-- RAIL_SENSE_SAMPLE (R444). -/
def execRailSenseSample (mvs : List Nat) (vin vaux : Nat) (s : State) : Out := .next (railSenseSample s mvs vin vaux)

/-- RAIL_ENABLE_TIMEOUT: a rail is not good within 2 ms of its enable (R443). -/
def railEnableTimeout (s : State) (n : Nat) : State :=
  if (s.rail n).on && (s.rail n).ramp && !(s.rail n).good then railFaults s [n] else s

/-- RAIL_ENABLE_TIMEOUT (R443). -/
def execRailEnableTimeout (rail : Nat) (s : State) : Out := .next (railEnableTimeout s rail)

/-- RAIL_RETRY_EXPIRY: the 1 ms of a RETRY end and the rail is enabled again (R445). -/
def railRetryExpiry (s : State) (n : Nat) : State :=
  if (s.rail n).retryOff then s.updRail n (fun x => { x.switch true with retryOff := false }) else s

/-- RAIL_RETRY_EXPIRY (R445). -/
def execRailRetryExpiry (rail : Nat) (s : State) : Out := .next (railRetryExpiry s rail)

/-- RAIL_INCIDENT_END: the rail has stayed good for 1 s (R445). -/
def railIncidentEnd (s : State) (n : Nat) : State :=
  if (s.rail n).incident && (s.rail n).good then s.updRail n (fun x => { x with incident := false, retries := 0 }) else s

/-- RAIL_INCIDENT_END (R445). -/
def execRailIncidentEnd (rail : Nat) (s : State) : Out := .next (railIncidentEnd s rail)

/-! ## Power-up (R443, R449) -/

/-- The rails of an up step. -/
def stepRails (k : Nat) : List Nat := indices 12 (fun n => Config.railStep n == k)

/-- Drive the enables of an up step together. -/
def enableStep (s : State) (k : Nat) : State := (stepRails k).foldl (fun t n => t.updRail n (fun x => x.switch true)) s

/-- POWER_UP_START: the conditions of R449 have held for 100 ms; VIN_SNS reads mv. -/
def powerUpStart (s : State) (mv : Nat) : State :=
  let g := s.goose
  if g.vaux && g.upStep == 0 && g.downStep == 0 && !g.lockout && !g.cutAll && !g.thermalStop && decide (900 ≤ mv) then
    enableStep (s.onGoose (fun g =>
      { g with
        upStep := 1, phase := 1, pfailN := true, vinGood := true, vinMv := mv, wedge := false, faultStart := 0
        rails := g.rails.mapIdx (fun i x =>
          { x with policy := (Config.railDefault i).1, group := (Config.railDefault i).2 }) })) 1
  else s

/-- POWER_UP_START (R449). -/
def execPowerUpStart (mv : Nat) (s : State) : Out := .next (powerUpStart s mv)

/-- POWER_UP_STEP: 0.5 ms after every rail of the step is good the next step starts; after the last one the core is powered and
the strap window follows a RESET_N that is high (R443, R465). -/
def powerUpStep (s : State) : State :=
  let k := s.goose.upStep
  if k = 0 ∨ 7 < k ∨ s.goose.downStep ≠ 0 then s
  else if (stepRails k).all (fun n => (s.rail n).good || (s.rail n).stayOff) then
    if k < 7 then enableStep (s.onGoose (fun g => { g with upStep := k + 1 })) (k + 1)
    else
      let held := !s.boot.resetN
      { s with
        goose := { s.goose with upStep := 8 }
        boot := { s.boot with stage := 1, inReset := held, strapWindow := !held } }
  else s

/-- POWER_UP_STEP (R443). -/
def execPowerUpStep (s : State) : Out := .next (powerUpStep s)

/-! ## Inputs that start a flush (R236, R448, R475) -/

/-- The input fails: in phases 0 to 2 power-up is abandoned, else the flush starts (R475). -/
def inputFail (s : State) (cause : Nat) : State :=
  if s.goose.upStep = 0 ∨ s.goose.downStep ≠ 0 ∨ s.flushing then s
  else if s.running then startFlush s cause
  else beginPowerDown s 1

/-- PFAIL_N_FALL: PFAIL_N low for 100 ns (R236). -/
def execPfailNFall (s : State) : Out :=
  .next (if s.goose.vaux then inputFail (s.onGoose (fun g => { g with pfailN := false })) 1 else s)

/-- VIN_SNS_LOW: below 0.80 V for 1 us while any main rail is on (R448). -/
def execVinSnsLow (mv : Nat) (s : State) : Out :=
  .next (if s.goose.vaux && decide (mv < 800) then
    inputFail (s.onGoose (fun g => { g with vinGood := false, vinMv := mv })) 2 else s)

/-- VAUX_COLLAPSE: VAUX below 2.90 V: every rail off, the Goose island's retained state lost (R440). -/
def vauxCollapse (s : State) (mv : Nat) : State :=
  if s.goose.vaux && decide (mv < 2900) then
    let on := s.goose.upStep != 0
    let t := powerLoss (cutFlush s) 7
    { t with
      goose :=
        { vaux := false, vauxMv := mv, rails := (List.range 12).map Rail.reset, sites := List.replicate 8 {}
          pfailN := s.goose.pfailN, vinGood := s.goose.vinGood, lastCause := if on then 7 else 0 } }
  else s

/-- VAUX_COLLAPSE (R440). -/
def execVauxCollapse (mv : Nat) (s : State) : Out := .next (vauxCollapse s mv)

/-- VAUX_RISE: above 3.00 V the Goose island starts from reset (R440). -/
def vauxRise (s : State) (mv : Nat) : State :=
  if !s.goose.vaux && decide (3000 < mv) then s.onGoose (fun g => { g with vaux := true, vauxMv := mv }) else s

/-- VAUX_RISE (R440). -/
def execVauxRise (mv : Nat) (s : State) : Out := .next (vauxRise s mv)

/-! ## Reset (R254, R255, R473) -/

/-- RESET_N_LOW: low for 1 us. During a flush or a power-down the pin alone changes: a flush runs to completion (R237). -/
def resetNLow (s : State) : State :=
  let t := { s with boot := { s.boot with resetN := false } }
  if s.goose.upStep ≠ 8 ∨ s.flushing ∨ s.goose.downStep ≠ 0 then t else forcedReset t

/-- RESET_N_LOW (R473). -/
def execResetNLow (s : State) : Out := .next (resetNLow s)

/-- RESET_N_RISE: the strap window opens where the core is powered (R465). -/
def resetNRise (s : State) : State :=
  let t := { s with boot := { s.boot with resetN := true } }
  if s.goose.upStep = 8 ∧ s.boot.inReset ∧ s.ioBad = false then
    { t with boot := { t.boot with inReset := false, strapWindow := true } }
  else t

/-- RESET_N_RISE (R465). -/
def execResetNRise (s : State) : Out := .next (resetNRise s)

/-- RESET of KIND 0 or of a KIND that is reserved: with FORCE at once and recorded, else after the flush of dirty lines (R254,
R255, R350). -/
def resetDeviceBody (e c : Nat) (s : State) (w : SWord) : State :=
  if w.fld 1 0 = 3 then complete s e c Config.BAD_OPERAND 0
  else if w.force then forcedReset s
  else requestReset s

/-- RESET_KIND_0 (R350). -/
def execResetKind0 (e c : Nat) (s : State) : Out :=
  .next (synStep s e c (fun w => w.op == 0x61 && (w.fld 1 0 == 0 || w.fld 1 0 == 3)) (resetDeviceBody e c))

/-- RESET_FLUSH_TIMEOUT: 40 ms after the request every block but the flush domain is reset (R254). -/
def resetFlushTimeout (s : State) : State :=
  if s.flushing && s.boot.resetWait == 1 then
    { s with
      boot := { s.boot with resetWait := 2, full := false, irqCause := 0, irqEn := 0, patch := false }
      eng := { timers := List.replicate 8 {}, trig := [0, 0, 0, 0] }
      ports := s.ports.map Port.afterReset
      regul := { s.regul with buckets := [], held := [], portHeld := [], arbs := [] }
      recs := s.recs.afterReset }
  else s

/-- RESET_FLUSH_TIMEOUT (R254). -/
def execResetFlushTimeout (s : State) : Out := .next (resetFlushTimeout s)

/-! ## After a flush (R237, R450) -/

/-- FLUSH_COMPLETE: HS5 has reported completion; PFAIL_N and VIN_SNS are checked after an input loss, a requested reset takes
effect, every other cause runs power-down (R237, R254, R450). -/
def flushComplete (s : State) (pfailN : Bool) (mv : Nat) : State :=
  match s.pers.flush with
  | none => s
  | some f =>
    if !s.pers.flushDone || s.goose.downStep != 0 || s.goose.hold10 then s
    else
      let t := s.onGoose (fun g => { g with pfailN := pfailN, vinMv := mv, vinGood := decide (900 ≤ mv) })
      if t.goose.downCause ≠ 0 then beginPowerDown t t.goose.downCause
      else if f.cause = 4 then deviceReset t
      else if f.cause = 3 then beginPowerDown t 2
      else if pfailN && decide (900 ≤ mv) then t.onGoose (fun g => { g with hold10 := true })
      else beginPowerDown t 1

/-- FLUSH_COMPLETE (R450). -/
def execFlushComplete (pfailN : Bool) (mv : Nat) (s : State) : Out := .next (flushComplete s pfailN mv)

/-- FLUSH_RESTART_DELAY: 10 ms later the device resets where the input still holds and every rail is good, else it powers down
(R237, R450). -/
def flushRestartDelay (s : State) (pfailN : Bool) (mv : Nat) : State :=
  if s.goose.hold10 && s.goose.downStep == 0 then
    let t := s.onGoose (fun g => { g with pfailN := pfailN, vinMv := mv, vinGood := decide (900 ≤ mv), hold10 := false })
    if t.goose.downCause ≠ 0 then beginPowerDown t t.goose.downCause
    else if pfailN && decide (900 ≤ mv) && (List.range 12).all (fun n => (s.rail n).good || (s.rail n).stayOff) then deviceReset t
    else beginPowerDown t 1
  else s

/-- FLUSH_RESTART_DELAY (R237). -/
def execFlushRestartDelay (pfailN : Bool) (mv : Nat) (s : State) : Out := .next (flushRestartDelay s pfailN mv)

/-- FLUSH_STALL: HS5 completes no step for 20 ms: the flush ends without a manifest and power-down runs (R460). -/
def flushStall (s : State) : State :=
  match s.pers.flush with
  | none => s
  | some f =>
    if s.pers.flushDone || s.goose.downStep != 0 then s
    else
      let t := cutFlush s
      let cause := if s.goose.downCause ≠ 0 then s.goose.downCause
        else if f.cause = 3 then 2 else if f.cause = 4 then 6 else 1
      beginPowerDown { t with boot := { t.boot with resetWait := 0 } } cause

/-- FLUSH_STALL (R460). -/
def execFlushStall (s : State) : Out := .next (flushStall s)

/-! ## Power-down (R451 to R453) -/

/-- The rails of an up step are disabled. -/
def disableStep (s : State) (k : Nat) : State := (stepRails k).foldl (fun t n => railOff t n) s

/-- POWER_DOWN: the rails of step 7 go off. -/
def powerDown (s : State) : State :=
  if s.goose.downStep = 1 then disableStep (s.onGoose (fun g => { g with downStep := 2 })) 7 else s

/-- POWER_DOWN (R451). -/
def execPowerDown (s : State) : Out := .next (powerDown s)

/-- The rails switched off by the last step of a power-down that has now passed 1 ms without falling below 10 % of nominal are noted (R452). -/
def railsStuck (s : State) : State :=
  let k := s.goose.downStep
  let last := if 2 ≤ k ∧ k ≤ 6 then 9 - k else if k = 8 then 2 else 0
  ((stepRails last).filter (fun n => decide (Config.railNominal n ≤ 10 * (s.rail n).sense) && !(s.rail n).inFault)).foldl noteFault s

/-- POWER_DOWN_STEP: steps 6 to 3 go off one by one; the save of the recorder starts where VAUX and rails 0 to 2 allow it, HS3
appending a stamp pair (R215), and commits its records; rail 2 goes off, then rails 0 and 1 (R451). -/
def powerDownStep (s0 : State) (vauxOk : Bool) (records : Nat) : State :=
  let s := railsStuck s0
  let k := s.goose.downStep
  let next := fun (t : State) => t.onGoose (fun g => { g with downStep := k + 1 })
  if k < 2 then s
  else if k ≤ 5 then next (disableStep s (8 - k))
  else if k = 6 then
    if vauxOk && (List.range 3).all (fun n => (s.rail n).on && (s.rail n).inWin) && s.boot.cold != 2 then
      (appendStamp (next s)).onGoose (fun g => { g with norBusy := true }) |>.onRecs (fun r => { r with frozen := true })
    else next s
  else if k = 7 then
    let t := if s.goose.norBusy then saveRecords s records else s
    disableStep ((next t).onGoose (fun g => { g with norBusy := false })) 2
  else powerLoss s s.goose.downCause

/-- POWER_DOWN_STEP (R451). -/
def execPowerDownStep (vauxOk : Bool) (records : Nat) (s : State) : Out := .next (powerDownStep s vauxOk records)

/-- NOR_WRITE_ABANDON: a supply leaves its range during the save, which ends after a number of records that the spec does not
give (R453, log 1). -/
def norWriteAbandon (s : State) : State :=
  if s.goose.norBusy then
    (saveRecords (s.burn 1) (s.freeVal % (s.saveList.length + 1))).onGoose (fun g => { g with norBusy := false })
  else s

/-- NOR_WRITE_ABANDON (R453). -/
def execNorWriteAbandon (s : State) : Out := .next (norWriteAbandon s)

/-! ## Temperature (R454 to R458) -/

/-- Automatic restarts within the last 3,600 s (R458). -/
def Goose.recent (g : Goose) : Nat := (g.restarts.filter (fun t => decide (g.uptime < t + 3600))).length

/-- A trip or an orderly stop: counted, SMB_ALERT_N asserted, lockout where three automatic restarts are recent (R458, R463). -/
def Goose.stop (g : Goose) : Goose :=
  { g with trips := (g.trips + 1) % 2 ^ 16, thermalStop := true, smbAlert := true, lockout := g.lockout || decide (3 ≤ g.recent) }

/-- A trip (R456): the flush, then power-down; it takes over from whatever runs. -/
def trip (s : State) : State :=
  let t := s.onGoose (fun g => { g.stop with stopping := false })
  if s.goose.downStep ≠ 0 ∨ s.flushing then t.onGoose (fun g => { g with downCause := 2 })
  else if s.running then (startFlush t 3).onGoose (fun g => { g with downCause := 2 })
  else beginPowerDown t 2

/-- An orderly stop starts (R457): ALIVE low, DOWN with reason 6 on every port. -/
def orderlyStop (s : State) : State :=
  { s with
    goose := { s.goose.stop with stopping := true, phase := 5, alive := false, downCause := 3 }
    ports := s.ports.map (fun p => if p.up then p.sendDown 6 else { p with elecIdle := true, state := 0 }) }

/-- A site after one sample. -/
def Site.take (x : Site) (temp : Int) (speed : Nat) : Site :=
  { temp := temp, speed := speed, over115 := if 1840 ≤ temp then x.over115 + 1 else 0,
    over110 := if 1760 ≤ temp then x.over110 + 1 else 0 }

/-- The temperatures and speeds of one sample enter the registers; a second of samples counts in UPTIME (R454). -/
def Goose.takeTemps (g : Goose) (temps : List Int) (speeds : List Nat) (core : Bool) : Goose :=
  let sites := g.sites.mapIdx (fun i x => x.take (temps.getD i 0) (if core then speeds.getD i 0 else 0))
  let hot := (List.range 8).foldl (fun (b : Int × Nat) i =>
    if b.1 < (sites.getD i {}).temp then ((sites.getD i {}).temp, i) else b) (g.tmax, g.tmaxSite)
  { g with
    sites := sites, tmax := hot.1, tmaxSite := hot.2, ms := (g.ms + 1) % 1000
    uptime := if g.ms = 999 then (g.uptime + 1) % 2 ^ 32 else g.uptime }

/-- The warning level of THERM.CFG is exceeded: a record whose status, one of Table 0-5 (R12), and subject the spec
does not give, a TRIG ball, the SMBus alert (R335, R458, R463, log 1). -/
def warnRaise (s : State) : State :=
  let g := s.goose
  let s1 := irq (s.onGoose (fun g => { g with warn := true, smbAlert := g.smbAlert || g.warnAlert })) 6
  let s2 := if g.warnNtf then
      notifyDevice (s1.burn 2) (s1.freeVal % 19) (Config.freeValue (s1.free + 1) % 2 ^ 32) false else s1
  match g.warnTrig with
  | some b => trigHigh s2 b
  | none => s2

/-- The warning ends: its TRIG ball goes back to its idle level. -/
def warnClear (s : State) : State :=
  let t := s.onGoose (fun g => { g with warn := false })
  match s.goose.warnTrig with
  | some b => trigIdle t b
  | none => t

/-- TEMP_SAMPLE: one temperature of each site, and one speed while VDD_CORE is good (R454); trip, orderly stop, warning. -/
def tempSample (s : State) (temps : List Int) (speeds : List Nat) : State :=
  if !s.goose.vaux then s
  else
    let core := (s.rail 0).good
    let t := s.onGoose (fun g => g.takeTemps temps speeds core)
    let g := t.goose
    let hot := g.sites.any (fun x => decide (2 ≤ x.over115))
    let warm := g.sites.any (fun x => decide (2 ≤ x.over110))
    let level := g.warnLevel != 0 && g.sites.any (fun x => decide (16 * (g.warnLevel : Int) < x.temp))
    let t1 := if !t.serves || level == g.warn then t else if level then warnRaise t else warnClear t
    if g.upStep = 0 then t1
    else if hot && g.downCause != 2 then trip t1
    else if warm && !g.stopping && g.downCause == 0 && !t.flushing && g.downStep == 0 && (!t.boot.full || decide (1 < t.boot.tapIr)) then orderlyStop t1
    else t1

/-- TEMP_SAMPLE (R454). -/
def execTempSample (temps : List Int) (speeds : List Nat) (s : State) : Out := .next (tempSample s temps speeds)

/-- ORDERLY_STOP_DRAIN_END: the seal already started has finished; clears and programs still running are suspended; then the flush
where lines are dirty and an image may be written, and power-down (R457). -/
def orderlyStopDrainEnd (s : State) : State :=
  if s.goose.stopping && !s.flushing && s.goose.downStep == 0 then
    let t := match s.maps.jseal with
      | some r => commitRecord s r
      | none => s
    if t.mayFlush && decide (0 < t.cache.dirty) then startFlush t 3 else beginPowerDown t 3
  else s

/-- ORDERLY_STOP_DRAIN_END (R457). -/
def execOrderlyStopDrainEnd (s : State) : Out := .next (orderlyStopDrainEnd s)

/-- THERMAL_RESTART: every site below 95.0 °C for 10 s after a thermal stop: an automatic restart may follow (R458). -/
def thermalRestart (s : State) : State :=
  let g := s.goose
  if g.vaux && g.thermalStop && g.upStep == 0 && !g.lockout && g.sites.all (fun x => decide (x.temp < 1520)) then
    s.onGoose (fun g => { g with thermalStop := false, restarts := g.restarts ++ [g.uptime] })
  else s

/-- THERMAL_RESTART (R458). -/
def execThermalRestart (s : State) : Out := .next (thermalRestart s)

/-! ## Wedge (R460) -/

/-- A wedge is declared: ALIVE low, SMB_ALERT_N asserted, the event recorded; the device goes on. -/
def wedged (s : State) (detail : Nat) : State :=
  if s.goose.upStep == 8 && s.goose.downStep == 0 then
    irq (record (s.onGoose (fun g => { g with wedge := true, alive := false, smbAlert := true })) (Config.evClass 15 1) detail) 5
  else s

/-- KEEPALIVE_MISSING: for 1 us (R460). -/
def execKeepaliveMissing (s : State) : Out := .next (wedged s 0)

/-- HS_STEP_TIMEOUT: a house sequencer's table step stays open for 20 ms (R460). -/
def execHsStepTimeout (hs : Nat) (s : State) : Out := .next (wedged s hs)

/-! ## SMBus (R462, R463) -/

/-- The STATUS block (Table 15-9) as a number. -/
def State.smbStatusNum (s : State) : Nat :=
  let g := s.goose
  let hot := g.sites.foldl (fun (m : Int) x => max m x.temp) ((g.sites.head?.map (·.temp)).getD 0)
  g.phase + flag g.wedge * 2 ^ 4 + flag g.lockout * 2 ^ 5 + g.lastCause % 256 * 2 ^ 8
    + bitsNum 12 (fun n => (s.rail n).pg) * 2 ^ 16 + g.faultStart.toNat * 2 ^ 28
    + (BitVec.ofInt 16 hot).toNat * 2 ^ 40 + min 3 g.recent * 2 ^ 56 + g.uptime % 2 ^ 32 * 2 ^ 64

/-- A block read answers. -/
def smbAnswer (s : State) (l : List Byte) : State :=
  if s.goose.vaux then s.onGoose (fun g => { g with smbOut := l, smbNack := false }) else s

/-- SMB_STATUS (R462). -/
def execSmbStatus (s : State) : Out := .next (smbAnswer s (bytesOf s.smbStatusNum 16))

/-- SMB_TEMPS: TEMP of sites 0 to 7, 16 bits each (Table 15-8). -/
def execSmbTemps (s : State) : Out :=
  .next (smbAnswer s (s.goose.sites.flatMap (fun x => bytesOf (BitVec.ofInt 16 x.temp).toNat 2)))

/-- SMB_ALERT_N is released. -/
def alertRelease (s : State) : State :=
  if s.goose.vaux then s.onGoose (fun g => { g with smbAlert := false, smbNack := false }) else s

/-- SMB_ALERT_CLR (R463). -/
def execSmbAlertClr (s : State) : Out := .next (alertRelease s)

/-- SMB_ALERT_RESPONSE: an alert-response read releases it too (R463). -/
def execSmbAlertResponse (s : State) : Out := .next (if s.goose.smbAlert then alertRelease s else s)

/-- A command is refused with a NACK (R462). -/
def smbRefuse (s : State) : State := if s.goose.vaux then s.onGoose (fun g => { g with smbNack := true }) else s

/-- SMB_RESTART: the byte 0x5A clears lockout and a cut-all stop (Table 15-8); any other byte is refused. -/
def smbRestart (s : State) (v : Byte) : State :=
  if v ≠ 0x5A then smbRefuse s
  else if s.goose.vaux then
    s.onGoose (fun g =>
      { g with
        lockout := false, cutAll := false, smbNack := false, phase := if g.phase = 7 then 0 else g.phase })
  else s

/-- SMB_RESTART (R462). -/
def execSmbRestart (v : Byte) (s : State) : Out := .next (smbRestart s v)

/-- SMB_NACK: every command but those of Table 15-8 is refused (R462). -/
def smbNackCmd (s : State) (cmd : Byte) : State :=
  if decide (1 ≤ cmd.toNat) && decide (cmd.toNat ≤ 4) then s else smbRefuse s

/-- SMB_NACK (R462). -/
def execSmbNack (cmd : Byte) (s : State) : Out := .next (smbNackCmd s cmd)

end Sys2Proof.Machine
end

