-- ==== Sys2Proof/Machine/Start.lean ====
section
/-! DEFINITION. A start: the strap window, the start phases, the boot image, the map rebuild and the restore of a flush image (08,
16). -/

namespace Sys2Proof.Machine

open Sys2Proof

/-! ## Straps (R465 to R468) -/

/-- The straps that a sample spells, laid out as ID_STRAP (Table 16-2). -/
def strapsOf (w : BitVec 13) : Straps :=
  let n := w.toNat
  { link := bitsOf n 2 0, boot := bitsOf n 4 3, mch := bitsOf n 6 5, dram := bitsOf n 8 7, hold := bitsOf n 10 9,
    sec := bitOf n 11, test := bitOf n 12 }

/-- Whether no strap holds a reserved value and STRAP_TEST is low (Table 16-1). -/
def Straps.ok (x : Straps) : Bool := decide (x.link ≤ 2) && x.boot != 3 && !x.test

/-- A strap fault: the device stays in reset and asserts SMB_ALERT_N (R468). -/
def strapFail (s : State) : State :=
  { s with
    boot := { s.boot with strapFault := true, stage := 1 }
    goose := { s.goose with smbAlert := true } }

/-- STRAP_WINDOW_END: eight samples of every strap; all must agree and be valid (R465, R467). -/
def strapWindowEnd (s : State) (samples : List (BitVec 13)) : State :=
  if !s.boot.strapWindow then s
  else
    let t := { s with boot := { s.boot with strapWindow := false } }
    match samples with
    | [] => strapFail t
    | w :: rest =>
      if !rest.all (· == w) then strapFail t
      else
        let x := strapsOf w
        let t1 := { t with boot := { t.boot with straps := x } }
        if x.ok then { t1 with boot := { t1.boot with strapFault := false, stage := 2 } } else strapFail t1

/-- STRAP_WINDOW_END (R465). -/
def execStrapWindowEnd (samples : List (BitVec 13)) (s : State) : Out := .next (strapWindowEnd s samples)

/-! ## Boot image (R476 to R480) -/

/-- A boot image header (Table 16-5a). -/
def imgMagic : Nat := 0x49425859

/-- Whether the header of an image is valid: MAGIC, FORMAT, HCRC (R476, R478). -/
def headerOk (img : List Byte) : Bool :=
  let h := numOf (img.take 64)
  decide (64 ≤ img.length) && bitsOf h 31 0 == imgMagic && bitsOf h 39 32 == 1 && bitsOf h 479 448 == crc32c (img.take 56)

/-- ISEQ of a header. -/
def imgSeq (img : List Byte) : Nat := bitsOf (numOf (img.take 64)) 127 96

/-- The sections from an offset on, up to a limit; none where one does not fit. -/
def sectionsFrom (img : List Byte) (limit : Nat) : Nat → Nat → Option (List BootSection)
  | 0, _ => some []
  | n + 1, off =>
    let h := numOf ((img.drop off).take 16)
    let len := bitsOf h 63 32
    if limit < off + 16 + len then none
    else
      (sectionsFrom img limit n (ceilDiv (off + 16 + len) 8 * 8)).map (fun l =>
        ⟨bitsOf h 7 0, bitsOf h 11 8, bitsOf h 28 16, (img.drop (off + 16)).take len⟩ :: l)

/-- Whether a section is well formed: a defined KIND, an engine program of whole words that fits (R478). -/
def BootSection.ok (x : BootSection) : Bool :=
  x.kind == 1 || (x.kind == 2 && x.data.length % 8 == 0 && decide (x.addr + x.data.length / 8 ≤ 8192))

/-- Whether two programs of one engine overlap. -/
def BootSection.clash (x y : BootSection) : Bool :=
  x.kind == 2 && y.kind == 2 && x.engine == y.engine && decide (x.addr < y.addr + y.data.length / 8)
    && decide (y.addr < x.addr + x.data.length / 8)

/-- Whether no two sections clash. -/
def sectionsApart : List BootSection → Bool
  | [] => true
  | x :: t => !t.any (fun y => x.clash y) && sectionsApart t

/-- The sections of an image that the device accepts; none where a check of R478 fails. -/
def acceptImage (img : List Byte) (sec okhSet : Bool) (okh : BitVec 384) : Option (List BootSection) :=
  let h := numOf (img.take 64)
  let len := bitsOf h 95 64
  let signed := bitOf h 48
  let limit := if signed then len - 196 else len
  let key := (img.drop (len - 196)).take 97
  if !headerOk img || decide (len < 64) || decide (1572864 < len) || decide (img.length < len)
      || bitsOf h 159 128 != crc32c ((img.take len).drop 64) || decide (32 < bitsOf h 47 40) then none
  else if sec && !(signed && okhSet && Config.sha384 key == okh && Config.ownerSigOk (img.take len)) then none
  else
    match sectionsFrom img limit (bitsOf h 47 40) 64 with
    | none => none
    | some l => if l.all BootSection.ok && sectionsApart l then some l else none

/-- Install one section: an engine program, or a house-table patch whose Lannimon signature verifies: the patch RAM takes it, and the house
sequencers run it in place of their ROM tables (R19); what a patch makes them do differently the spec does not say (log 94). A patch that
fails is recorded (R19, R478). -/
def installSection (s : State) (x : BootSection) : State :=
  if x.kind = 1 then
    (if Config.patchSigOk x.data then { s with boot := { s.boot with patch := true, patchRam := x.data } }
     else record s (Config.evClass 1 0) 0)
  else
    { s with
      eng := { s.eng with
        prog := (List.range (x.data.length / 8)).foldl (fun t i =>
          Tbl.put t (8192 * x.engine + x.addr + i) (BitVec.ofNat 64 (numOf ((x.data.drop (8 * i)).take 8)))) s.eng.prog } }

/-- Install an image from a source: 0 slot A, 1 slot B, 2 link-load. -/
def installImage (s : State) (l : List BootSection) (source : Nat) : State :=
  let t := l.foldl installSection s
  { t with boot := { t.boot with bootUsed := source, signed := s.boot.straps.sec } }

/-- The slots of the NOR in the order they are tried: valid headers, the higher ISEQ first (R476). -/
def State.norOrder (s : State) : List (Nat × List Byte) :=
  let a := (0, s.boot.norA)
  let b := (1, s.boot.norB)
  ((if imgSeq b.2 ≤ imgSeq a.2 then [a, b] else [b, a])).filter (fun x => headerOk x.2)

/-- No acceptable image: BOOT_FAIL, its cause bit, the event (R479, R527). -/
def bootFailed (s : State) (rec : Bool) : State :=
  let t := irq { s with boot := { s.boot with bootFail := true } } 7
  if rec then record t (Config.evClass 16 1) 0 else t

/-- The boot image of a start (R476, R479, R480). -/
def bootImage (s : State) : State :=
  if s.boot.straps.boot = 0 then
    match s.norOrder.findSome? (fun x =>
        (acceptImage x.2 s.boot.straps.sec s.boot.okhSet s.boot.okh).map (fun l => (x.1, l))) with
    | some (k, l) => installImage s l k
    | none => bootFailed s true
  else { s with boot := { s.boot with bootUsed := if s.boot.straps.boot = 2 then 3 else 2 } }

/-! ## Phase 2 (R406, R469, R471, R472) -/

/-- The bytes of a descriptor page. -/
def pageBytes (p : BitVec 2048) : List Byte := bytesOf p.toNat 256

/-- Whether the CRC-32C of bytes 0 to 251 of a descriptor page stands in its bytes 252 to 255 (R102, Table 3-8). -/
def pageCrcOk (p : BitVec 2048) : Bool := crc32c ((pageBytes p).take 252) == bitsOf p.toNat 2047 2016

/-- The bad frames that list pages name, 63 entries of 4 bytes to a page: plane and frame (R102). -/
def badFrames (lists : List (BitVec 2048)) (n : Nat) : List (Nat × Nat) :=
  (List.range n).map (fun i =>
    let e := (lists.getD (i / 63) 0).toNat / 2 ^ (32 * (i % 63)) % 2 ^ 32
    (bitsOf e 31 30, bitsOf e 15 0))

/-- The descriptor of a die from its page 0 and its list pages (Table 3-8). -/
def dieDesc (x : DieInfo) : Desc :=
  let d := x.page0.toNat
  { sig := bitsOf d 15 0, dver := bitsOf d 23 16, planes := bitsOf d 31 24, framesPhys := bitsOf d 63 32
    framesNom := bitsOf d 95 64, slotsS := bitsOf d 111 96, slotsT := bitsOf d 127 112, endS := bitsOf d 159 128
    endT := bitsOf d 191 160, retT := bitsOf d 207 192, retS := bitsOf d 223 208, tRdS := bitsOf d 239 224
    tRdT := bitsOf d 255 240, tRef := bitsOf d 271 256, tSusp := bitsOf d 287 272, tRes := bitsOf d 303 288
    tProgS := bitsOf d 319 304, tProgT := bitsOf d 335 320, tMprog := bitsOf d 351 336, tRprog := bitsOf d 367 352
    tClrS := bitsOf d 383 368, tClrT := bitsOf d 399 384, ckMax := bitsOf d 407 400, capT := bitOf d 408, capMono := bitOf d 409
    badCount := bitsOf d 431 416, mfr := bitsOf d 479 448, bad := badFrames x.lists (bitsOf d 431 416) }

/-- Whether a descriptor meets every limit of Table 3-9. -/
def Desc.fits (x : Desc) : Bool :=
  x.sig == 0xB157 && x.dver == 1 && decide (1 ≤ x.planes) && decide (x.planes ≤ 4) && x.slotsS == 1024
    && x.slotsT == 3072 && x.capT && x.capMono && decide (x.framesNom ≤ x.framesPhys) && decide (x.tRdS ≤ 100)
    && decide (x.tRdT ≤ 380) && decide (x.tRef ≤ 200) && decide (x.tSusp ≤ 250) && decide (x.tMprog ≤ 600)
    && decide (x.tRprog ≤ 300) && decide (20 ≤ x.ckMax) && decide (91 ≤ x.retT)

/-- Whether a die is accepted: its descriptor and its ⌈BAD_COUNT / 63⌉ list pages pass their CRC, and it meets every limit (R103). -/
def dieAccepted (x : DieInfo) : Bool :=
  let d := dieDesc x
  let n := ceilDiv d.badCount 63
  pageCrcOk x.page0 && decide (n ≤ x.lists.length) && (x.lists.take n).all pageCrcOk && d.fits

/-- A die that does not answer at this bring-up is not there: its descriptor goes with it. -/
def diesGone (s : State) : State :=
  s.onMedium (fun m =>
    { m with chans := m.chans.map (fun c => { c with dies := c.dies.map (fun d => { d with present := false, accepted := false, desc := none }) }) })

/-- A die comes up: accepted, or deselected and recorded (R103, R407). -/
def dieUp (s : State) (x : DieInfo) : State :=
  if s.chanCount ≤ x.ch then s
  else
    let ok := dieAccepted x && x.trains
    let t := s.updChan x.ch (fun c =>
      { c with
        dies := updAt c.dies x.die (fun d => { d with present := true, accepted := ok, desc := some (dieDesc x), initing := false }) })
    if ok then t
    else if dieAccepted x then record t (Config.evClass 13 2) x.ch
    else record t (Config.evClass 3 0) x.ch

/-- The enabled channels run, the others are disabled; each draws its scramble key; one on which no die trains has no calibration
(R406, R407, R410, R411). -/
def channelsUp (s : State) : State :=
  (List.range 16).foldl (fun t c =>
    if c < s.chanCount then
      (t.burn 1).updChan c (fun x =>
        { x with
          state := 2, rate := true, rstN := true, csHigh := false, ck := true, scrKey := t.freeVal % 2 ^ 32
          calNone := !x.dies.any (·.accepted) })
    else t.updChan c (fun x => { x with state := 3 })) s

/-- Dies that held frame indexes and are no longer accepted: a loss of capability each (R407). -/
def lostDies (s : State) : State :=
  (List.range s.chanCount).foldl (fun t c =>
    ((s.chan c).layout.map (fun p => p.1)).eraseDups.foldl (fun t d =>
      if ((s.chan c).dies.getD d {}).accepted then t else loseCapability t) t) s

/-- Whether the DRAM sizes read fit the straps (R469). -/
def State.dramOk (s : State) (l : List Nat) : Bool :=
  let g := l.headD 0
  let (lo, hi) := if s.boot.straps.dram / 2 = 1 then (4, 8) else (2, 4)
  l.length == s.dramCount && l.all (· == g) && decide (lo ≤ g) && decide (g ≤ hi) && decide (24 ≤ l.sum) && decide (l.sum ≤ 96)

/-- The keys drawn at every start (R108, R410, R438, log 1). -/
def drawKeys (s : State) : State :=
  let n := s.dramCount
  let t := s.burn (n + 1)
  (t.onCache (fun c => { c with hashKey := s.freeVal })).onMedium (fun m =>
    { m with kd := (List.range n).map (fun i => Config.freeValue (s.free + 1 + i) % 2 ^ 64) })

/-- The key records of a start: for each key ID the committed one with the highest KSEQ whose KCRC verifies (R417), HIGH at its CEIL (R422);
the re-key that one of them names goes on (R434). `bad` names the key IDs whose newest record does not verify; DRK is drawn at the first start
(R415, log 1). -/
def loadKeys (s : State) (bad : List Nat) : State :=
  let pick := fun (p : Nat × List KeyRec) =>
    ((if bad.contains p.1 then p.2.drop 1 else p.2).head?).map (fun (r : KeyRec) => (p.1, { r with high := r.ceil }))
  let recs := s.keys.log.filterMap pick
  let walk := (recs.findSome? (fun p => p.2.walk)).map (fun k => { k with pages := 0 })
  let t := if s.keys.drk.isSome then s else s.burn 1
  { t with keys := { s.keys with recs := recs, rekey := walk, drk := some (s.keys.drk.getD (s.freeVal % 2 ^ 256)) } }

/-- At a power-up the NV store is scanned, and the clock, the power-cycle count and the recorder come back, in that order
(R487, R488, R493, R508). -/
def recorderUp (s : State) (env : StartEnv) : State :=
  if s.boot.cold = 2 then
    let t := reloadRecorder (countPower (loadClock (norScan s env.norUsable env.norLost env.norDiffer)) env.tallyFail)
    { t with boot := { t.boot with cold := 1 } }
  else s

/-- Stream commitments have ended with their streams (R333); the ledger image is restored, and HS6 revalidates it (R286). -/
def restoreLedger (s : State) : State :=
  let t := ((s.regul.commits.filter (fun p => p.2.kind == 3)).map (·.1)).foldl (fun t n => (dropCommit t n).1) s
  { t with regul := { t.regul with losses := if t.boot.sysFrames then t.regul.losses + 1 else t.regul.losses } }

/-- Whether the straps or the DRAM no longer fit what H.FORMAT recorded (R472). -/
def State.mismatched (s : State) : Bool :=
  s.boot.sysFrames && (s.boot.recMch != s.boot.straps.mch || (cacheArea s.dramTotal s.boot.recMapGib).isNone)

/-- The enabled ports start to train at 28 GBd. -/
def portsTrain (s : State) : State :=
  { s with ports := s.ports.mapIdx (fun p x => if p < s.portCount then { x.train false with rate56 := false } else x) }

/-- Phase 2 ends: what the device met is taken in, the defaults of H.INIT stand, and Lamb service begins (Table 16-5). -/
def bringUp (s : State) (env : StartEnv) : State :=
  if !s.dramOk env.dramGib then strapFail s
  else
    let s1 := recorderUp (s.onMedium (fun m => { m with dramGib := env.dramGib, dramRate := env.dramRate })) env
    let s2 := lostDies (channelsUp (env.dies.foldl dieUp (diesGone s1)))
    let s3 := initDefaults (drawKeys (loadKeys { s2 with boot := { s2.boot with formatted := s2.boot.sysFrames } } env.badKeys))
    let s4 := bootImage (restoreLedger (redeal (s3.onCache (fun c => { c with on := true, wback := false }))))
    let bad := s4.mismatched
    let s5 := if bad then record { s4 with boot := { s4.boot with mismatch := true } } (Config.evClass 16 0) 0 else s4
    portsTrain { s5 with
      boot := { s5.boot with stage := 3 }
      goose := { s5.goose with phase := 2, alive := !s5.goose.wedge }
      pers := { s5.pers with rebuild := if bad || s5.awaitsGo then 0 else 1 } }

/-- START_PHASE_DONE: the present phase of Table 16-5 has done its work (R482, R485). -/
def startPhaseDone (s : State) (env : StartEnv) : State :=
  let go := fun (k : Nat) => { s with boot := { s.boot with stage := k } }
  if s.flushing || s.goose.downStep != 0 || s.goose.stopping || s.goose.upStep != 8 then s
  else
    match s.boot.stage with
    | 2 => if s.boot.strapFault then s else bringUp s env
    | 3 => if s.boot.mismatch || s.pers.rebuild == 0 then s else go 4
    | 4 => if s.pers.rebuild = 11 then go 5 else s
    | 5 =>
      if s.pers.reserveOk || !s.boot.sysFrames then
        let t := go 6
        { t with ports := t.ports.map (fun x => if x.up && !x.fell then { x.train true with rate56 := true } else x) }
      else s
    | 6 =>
      let t := go 7
      irq (notifyDevice { t with boot := { t.boot with full := true }, goose := { t.goose with phase := 3 } } Config.OK 1 true) 0
    | _ => s

/-- START_PHASE_DONE (R482). -/
def execStartPhaseDone (env : StartEnv) (s : State) : Out := .next (startPhaseDone s env)

/-! ## Map rebuild (R248 to R253) -/

/-- Map entries of a map page that the newest root and the journal after it give (R156, R245). -/
def State.replay (s : State) (p : Nat → Bool) : Tbl Nat :=
  let base := match s.pers.roots with
    | r :: _ => (s.rootMap r).filter (fun e => p e.1)
    | [] => []
  let start := (s.pers.roots.head?.map (fun r => r.jseqC)).getD 0
  (s.maps.jlog.filter (fun (r : JRec) => decide (start < r.jseq))).foldl (fun (t : Tbl Nat) (r : JRec) =>
    r.entries.foldl (fun t e =>
      if p e.page then (if e.new = Config.unmapped then Tbl.del t e.page else Tbl.put t e.page e.new) else t) t) base

/-- The flush image that a recovery looks at: its FSEQ, J_F, and whether the recovery is unclean (R242, R250, R253). -/
def State.imageOf (s : State) : Nat × Nat × Bool :=
  match s.tail with
  | some m =>
    if s.pers.bootHold ≠ 0 ∧ m.fseq ≠ s.pers.bootFseq then (s.pers.bootFseq, s.committedJseq, true) else (m.fseq, m.jF, false)
  | none => (s.pers.bootFseq, s.committedJseq, s.pers.bootHold != 0)

/-- Whether recovery restores the i-th line slot of the image (R250). -/
def State.restores (s : State) (lost : List Nat) (i : Nat) (x : FSlot) : Bool :=
  let (f, jF, _) := s.imageOf
  let root := s.pers.roots.head?
  x.fseq % 256 == f % 256 && !lost.contains i && decide (s.pers.retiredFseq < f)
    && !s.maps.jlog.any (fun r => decide (jF < r.jseq) && r.entries.any (fun e => e.page == x.line / 16))
    && !(match root with
         | some r => r.doneFseq == f && r.done.contains i
         | none => false)

/-- Step 2 of Table 8-6: boot record, retire records, roots and manifests are read into the registers; operating seconds are
raised (R256, R488). `lost` says which of them do not verify: 0 the newest root, whose predecessor then serves (R247), 1 and 2 the copies of
the manifest (R242). -/
def rebuildRecords (s0 : State) (lost : List Nat) : State :=
  let s := s0.onPers (fun p =>
    { p with
      roots := if lost.contains 0 then p.roots.drop 1 else p.roots, manifest := if lost.contains 1 then none else p.manifest
      manifestB := if lost.contains 2 then none else p.manifestB })
  let s1 := if s.boot.cold = 1 then
      let t := raiseClock s
      { t with boot := { t.boot with cold := 0 } }
    else s
  s1.onPers (fun p =>
    { p with
      fseq := p.bootFseq, cseq := (p.roots.head?.map (·.cseq)).getD 0
      lastCause := (s.tail.map (·.cause)).getD p.lastCause, flushLines := (s.tail.map (·.lines)).getD p.flushLines
      flushUs := (s.tail.map (fun m => sat32 m.duration)).getD p.flushUs
      imageLive := decide (p.retiredFseq < s.imageOf.1) && (s.tail.isSome || !p.image.isEmpty) })

/-- Step 3: the directory pages of the newest root give the DRAM directory (R247). -/
def rebuildDirectory (s : State) : State :=
  s.onMaps (fun m => { m with mapDir := match s.pers.roots with
    | r :: _ => (s.rootTree r).foldl (fun t p => Tbl.put t p.1 p.2) []
    | [] => [] })

/-- Step 5: the restore set; the poison sets and patch tables come back; an unclean recovery is reported and gives HS3 the check
slots first (R250, R253). -/
def rebuildImage (s : State) (lost : List Nat) : State :=
  let set := (s.pers.image.mapIdx (fun i x => (i, x))).filter (fun p => s.restores lost p.1 p.2)
  let n := (set.map (fun p => p.2.line)).eraseDups.length
  let unclean := s.imageOf.2.2
  let s1 := (List.range s.chanCount).foldl (fun t c =>
    match s.pers.mapImage[c]? with
    | some (ps, pt) =>
      t.updChan c (fun x =>
        { x with
          poisonSet := ps.take Config.poisonSetLen, poisonWait := ps.drop Config.poisonSetLen
          patches := pt.map (fun q => { q with moving := false })
          scrubPairsFirst := x.scrubPairsFirst || unclean })
    | none => t.updChan c (fun x => { x with scrubPairsFirst := x.scrubPairsFirst || unclean })) s
  let s2 := s1.onPers (fun p =>
    { p with
      toRestore := set.map (·.2), restored := n, unclean := unclean, order := List.range (s.maps.hcap / 4194304 + flag (s.maps.hcap % 4194304 != 0)) })
  if unclean then record s2 (Config.evClass 8 1) n else s2

/-- Content of a line slot, deciphered under its region's key (R420); none where no region holds the line any longer. -/
def State.slotPlain (s : State) (x : FSlot) : Option (Line × Region × Nat) :=
  (s.regionAt (x.line * 256)).map (fun p =>
    (x.img.decipher (s.keyRec p.2.key).keys (flushTweak x.line p.2.key x.fseq), p.2, p.1))

/-- Put a restored line in the write-back buffer, whose page is rewritten; none where the buffer is full (R119, R250). -/
def restoreBuffer (s : State) (line : Nat) (x : CLine) : Option State :=
  if Tbl.has s.cache.wbb line || decide (s.cache.wbb.length < Config.wbbLines) then some (s.onCache (fun c => c.buffer line x)) else none

/-- Put a restored line in the cache, over a part of it that stands there; none where no way of its set is free. HS5's install carries the
region's label (R46, R115; DEDUCED, log 95). -/
def restoreWay (s : State) (line : Nat) (x : CLine) : Option State :=
  let put := fun (y : CLine) => s.onCache (fun c0 =>
    let c := c0.useSet y.set
    { c with lines := Tbl.put c.lines line { y with used := c.clock }, clock := c.clock + 1 })
  match Tbl.find s.cache.lines line with
  | some o =>
    if o.dirty && x.delta then some (put { x with data := o.data ||| x.data, delta := o.delta, poison := o.poison || x.poison, way := o.way })
    else some (put { x with way := o.way })
  | none =>
    match s.cache.place x.set (s.cache.mask (((s.regionAt (line * 256)).map (·.2.ways)).getD 0) x.label) with
    | some (w, none) => some (put { x with way := w })
    | _ => none

/-- Install a restored line dirty, over the budget if need be, as an OR delta where DELTA is set (R250): a copy of the write-back buffer
goes there, any other line into a way; one that finds no place of its kind takes the other. Where neither is left it waits in the restore
set. A flush slot stores no label: the way mask is the one its region has now (DEDUCED, log 95). -/
def restoreLine (s : State) (x : FSlot) : State :=
  match s.slotPlain x with
  | none => s.onPers (fun p => { p with toRestore := p.toRestore.erase x })
  | some (d, r, idx) =>
    let y : CLine :=
      { data := d, dirty := true, delta := x.delta, orphan := false, mono := r.mono, poison := x.img.poison, region := idx
        label := r.label, set := s.cache.setOf x.line, way := 0, used := 0, frozen := false, restored := true }
    let go := if x.wbb then restoreBuffer s x.line y <|> restoreWay s x.line y else restoreWay s x.line y <|> restoreBuffer s x.line y
    match go with
    | none => s
    | some t =>
      t.onPers (fun p =>
        { p with
          toRestore := p.toRestore.erase x
          restoredLines := if p.restoredLines.contains x.line then p.restoredLines else p.restoredLines ++ [x.line] })

/-- Requests that waited for a range go on once it is rebuilt (R249). -/
def serveReads (s : State) (f : Nat → Bool) : State :=
  let mine := s.pers.lambReads.filter (fun r => f (mapPageOf r.page))
  answerQueries (mine.foldl (fun t r => access t r)
    (s.onPers (fun p => { p with lambReads := p.lambReads.filter (fun r => !f (mapPageOf r.page)) })))

/-- Steps 6 to 8 for one map page: loaded, its journal entries applied, its restored lines installed. Its range is served once every one
of them has found a place (R248, R250). -/
def rebuildPage (s : State) (m : Nat) : State :=
  let mine := fun (page : Nat) => mapPageOf page == m
  let s1 := s.onMaps (fun x => { x with map := (s.replay mine).foldl (fun t e => Tbl.put t e.1 e.2) x.map })
  let s2 := ((s.pers.toRestore.filter (fun x => mine (x.line / 16))).foldl restoreLine s1).onPers (fun p =>
    { p with order := p.order.filter (fun k => k != m) })
  if s2.pers.toRestore.any (fun x => mine (x.line / 16)) then s2
  else serveReads (s2.onPers (fun p => { p with rebuilt := p.rebuilt ++ [m] })) (fun k => k == m)

/-- Restored lines that found no place take one that a write-back has freed since, page by page; a range whose lines all stand is served
(R250). -/
def restoreLate (s : State) : State :=
  ((s.pers.toRestore.map (fun x => mapPageOf (x.line / 16))).eraseDups).foldl (fun t m =>
    let mine := fun (x : FSlot) => mapPageOf (x.line / 16) == m
    let u := (t.pers.toRestore.filter mine).foldl restoreLine t
    if u.pers.toRestore.any mine then u
    else serveReads (u.onPers (fun p => { p with rebuilt := p.rebuilt ++ [m] })) (fun k => k == m)) s

/-- Frame record of R161: FREE without a page that the map points to or a live map page (R247), else FULL; a read's pin stays (R185).
No source of the rebuild holds ORDER: the frame keeps the number it had, and its channel the counter (DESIGN CHOICE, log 93). -/
def rebuiltFrame (f : Frame) (live : Nat) : Frame :=
  if f.state = 5 ∨ f.state = 6 ∨ f.state = 7 then f
  else
    { f with
      state := if live = 0 then 0 else 3, live := live, staged := f.staged && live != 0, next := positions f.mode f.integ }

/-- Step 9: frame records and LIVE counts are rebuilt (R161); every FREE frame that holds no slot of the patch table joins its
channel's free pool by index (R208). The order in which staged pages sealed is lost: they stand by page number. -/
def rebuildFrames (s : State) : State :=
  let sys := s.sysNamed
  let live := fun (fx : Nat) => (s.maps.map.filter (fun e => mapped e.2 && fxOf e.2 == fx)).length + (sys.filter (fun p => fxOf p == fx)).length
  let s1 := s.onMedium (fun m => { m with frames := m.frames.map (fun p => (p.1, rebuiltFrame p.2 (live p.1))) })
  let s2 := (List.range s.chanCount).foldl (fun t c =>
    t.updChan c (fun x =>
      { x with
        cleared := [], opens := [], clearing := none
        free := (s1.medium.frames.filter (fun p => p.2.ch == c && p.2.bound && p.2.state == 0 && decide (p.1 < x.virgin)
          && !x.patches.any (fun q => fxOf q.ppn == p.1))).map (·.1) })) s1
  let jseqC := (s.pers.roots.head?.map (·.jseqC)).getD 0
  let s3 := s2.onMaps (fun m =>
    { m with
      staged := (m.map.filter (fun e => mapped e.2 && (s1.frame (fxOf e.2)).staged)).map (·.1)
      changed := ((m.jlog.filter (fun r => decide (jseqC < r.jseq))).flatMap (fun r =>
        r.entries.map (fun e => mapPageOf e.page))).eraseDups })
  (List.range s.chanCount).foldl treeBuild (recompute s3)

/-- Writes of every range are accepted from the end of step 9 on (R249). -/
def serveWrites (s : State) : State :=
  s.pers.lambWrites.foldl (fun t r => access t r) (s.onPers (fun p => { p with lambWrites := [] }))

/-- REBUILD_STEP_DONE: the present step of Table 8-6 ends; `lost` names what the reads of the step could not verify: frame indexes whose
headers fail HCRC (step 1, R223), the root and manifest copies (step 2), places of journal records (step 4), line slots of the image
(step 5); `ms` is the time the rebuild has taken (log 4). -/
def rebuildStepDone (s : State) (lost : List Nat) (ms : Nat) : State :=
  let k := s.pers.rebuild
  let at' := fun (n : Nat) (t : State) => t.onPers (fun p => { p with rebuild := n })
  if !s.live || k = 0 || decide (11 ≤ k) then s
  else if k = 1 then
    at' 2 ((List.range s.chanCount).foldl (fun t c =>
      treeBuild (groupRepair (groupsBuild (t.updChan c (fun x => { x with treeValid := decide (0 < x.count) })) c) c [] lost) c) s)
  else if k = 2 then at' 3 (rebuildRecords s lost)
  else if k = 3 then at' 4 (rebuildDirectory s)
  else if k = 4 then at' 5 (recoverRecords s lost)
  else if k = 5 then at' 6 (rebuildImage s lost)
  else if k ≤ 8 then
    match s.pers.order with
    | m :: _ => rebuildPage s m
    | [] => at' 9 s
  else if k = 9 then serveWrites (at' 10 (rebuildFrames s))
  else
    let u := restoreLate s
    if u.pers.toRestore.isEmpty then
      let t := at' 11 (u.onPers (fun p => { p with rebuildMs := min ms 0xFFFF }))
      roEnter (serveWrites (serveReads (sample t 13 ms) (fun _ => true)))
    else u

/-- REBUILD_STEP_DONE (R248). -/
def execRebuildStepDone (lost : List Nat) (ms : Nat) (s : State) : Out := .next (rebuildStepDone s lost ms)

/-! ## The image retired, the reserve verified (R252) -/

/-- FREE frames of a plane of a channel that may replace a RESERVE frame, lowest index first. -/
def State.spareReserve (s : State) (c die plane : Nat) : Option Nat :=
  let x := s.chan c
  ((planeStarts x.given x.first x.count).flatMap (fun p => (List.range p.2).map (fun i => p.1 + i))).find? (fun fx =>
    s.reservable c fx && !x.reserve.contains fx && (s.frame fx).die == die && (s.frame fx).plane == plane)

/-- RESERVE frames of a plane. -/
def State.reserveOn (s : State) (c die plane : Nat) : Nat :=
  ((s.chan c).reserve.filter (fun fx => (s.frame fx).die == die && (s.frame fx).plane == plane)).length

/-- A RESERVE frame that fails its verify is replaced from its plane, else from the plane with the fewest RESERVE frames that has
a FREE one, is cleared (R140, R141), and is due to retire (R225). A plane that so loses its last RESERVE frame has the budget
computed again (R232). -/
def replaceReserve (s : State) (fx : Nat) : State :=
  let f := s.frame fx
  let c := f.ch
  if !(s.chan c).reserve.contains fx then s
  else
    let planes := ((s.chan c).given.map (fun p => (p.1, p.2.1))).filter (fun p => (s.spareReserve c p.1 p.2).isSome)
    let best := planes.foldl (fun (b : Option (Nat × Nat)) p => match b with
      | none => some p
      | some q => if s.reserveOn c p.1 p.2 < s.reserveOn c q.1 q.2 then some p else some q) none
    let new := match s.spareReserve c f.die f.plane with
      | some k => some k
      | none => best.bind (fun p => s.spareReserve c p.1 p.2)
    let s1 := (s.putFrame fx { f with state := 0 }).onMedium (fun m =>
      { m with retireDue := if m.retireDue.contains fx then m.retireDue else m.retireDue ++ [fx] })
    let s2 := s1.updChan c (fun x =>
      { x with reserve := x.reserve.filter (fun k => k != fx) ++ new.toList, free := x.free.filter (fun k => some k != new) })
    let s3 : State := match new with
      | some k => clearReserve (s2.updFrame k (fun f => { f with state := 5 })) k
      | none => s2
    if s3.reserveOn c f.die f.plane = 0 then setBudget s3 s3.heldPlanes else s3

/-- RESTORED_LINES_SEALED: the retire record, the reserve cleared and verified, the cache write-back, the boot record (R252). -/
def restoredLinesSealed (s : State) (badReserve : List Nat) : State :=
  if s.live && s.boot.stage == 5 && s.pers.restoredLines.isEmpty && s.pers.toRestore.isEmpty && !s.pers.reserveOk && s.boot.sysFrames then
    let f := s.imageOf.1
    let s1 := s.onPers (fun p =>
      { p with
        retiredFseq := if p.imageLive then max p.retiredFseq f else p.retiredFseq, image := [], manifest := none, manifestB := none
        mapImage := []
        imageLive := false })
    enterWriteBack (badReserve.foldl replaceReserve (clearReserves s1))
  else s

/-- RESTORED_LINES_SEALED (R252). -/
def execRestoredLinesSealed (badReserve : List Nat) (s : State) : Out := .next (restoredLinesSealed s badReserve)

/-- H.REBUILD: the map is read again from the newest root and the journal; PW_REBUILD_MS takes a duration that the spec does not
give (log 1). -/
def rebuildOnDemand (e c : Nat) (s : State) (_ : Nat) : State :=
  if !s.fullService then complete s e c Config.NOT_READY 0
  else
    let ms := s.freeVal % 2 ^ 16
    let t := ((s.burn 1).onMaps (fun m => { m with map := s.replay (fun _ => true) })).onPers (fun p => { p with rebuildMs := ms })
    complete (sample t 13 ms) e c Config.OK 0

/-- H_REBUILD (R248). -/
def execHRebuild (e c : Nat) (s : State) : Out := .next (houseStepOf s e c 9 (rebuildOnDemand e c))

end Sys2Proof.Machine
end

