-- ==== Sys2Proof/Machine/Csr.lean ====
section
/-! DEFINITION. The CSR window and the management transactions that reach it: reads, writes, OPEN, CLOSE, doorbells and the
link-load path (00, 01, 12, 16; R10, R25, R26, R306, R372, R373, R480, R481, R499). -/

namespace Sys2Proof.Machine

open Sys2Proof

/-! ## Read values, window by window (Table 1-4) -/

/-- ID_STRAP (Table 16-2). -/
def Straps.num (x : Straps) : Nat :=
  x.link % 8 + x.boot % 4 * 2 ^ 3 + x.mch % 4 * 2 ^ 5 + x.dram % 4 * 2 ^ 7 + x.hold % 4 * 2 ^ 9 + flag x.sec * 2 ^ 11
    + flag x.test * 2 ^ 12

/-- ID_STATE (Table 16-5b). -/
def Boot.stateNum (b : Boot) : Nat :=
  b.stage % 16 + flag b.full * 2 ^ 4 + flag b.formatted * 2 ^ 5 + flag b.mismatch * 2 ^ 6 + b.bootUsed % 4 * 2 ^ 7
    + flag b.bootFail * 2 ^ 9 + flag b.signed * 2 ^ 10 + flag b.patch * 2 ^ 11 + flag b.okhSet * 2 ^ 12

/-- The ID_ window (Tables 0-4, 16-2, 16-5b, 18-12). ID_BOOT is write-only and reads zero (R10). -/
def idRead (s : State) (o : Nat) : Nat :=
  let b := s.boot
  match o with
  | 0x00 => Config.idPart
  | 0x04 => b.straps.num
  | 0x08 => b.stateNum
  | 0x10 => b.irqCause.toNat + b.irqEn.toNat * 2 ^ 16
  | o => if 0x40 ≤ o ∧ o < 0x70 then bitsOf b.idOkh.toNat (8 * (o - 0x40) + 31) (8 * (o - 0x40)) else 0

/-- GS_RAIL[n] (Table 15-10). -/
def Rail.num (x : Rail) (n : Nat) : Nat :=
  x.sense % 2 ^ 16 + x.policy % 4 * 2 ^ 16 + x.group % 16 * 2 ^ 18 + flag (Config.railClass n == 0) * 2 ^ 22
    + flag x.on * 2 ^ 23 + x.retries % 4 * 2 ^ 24

/-- The GS_ window (Table 15-10). -/
def gsRead (s : State) (o : Nat) : Nat :=
  let g := s.goose
  match o with
  | 0x00 => g.phase % 16 + flag g.wedge * 2 ^ 4 + flag g.lockout * 2 ^ 5 + g.lastCause % 256 * 2 ^ 8
      + min 3 g.recent * 2 ^ 16
  | 0x04 => bitsNum 12 (fun n => (s.rail n).pg) + bitsNum 12 (fun n => (s.rail n).on) * 2 ^ 16
  | 0x08 => g.fault.toNat
  | 0x0C => g.vinMv % 2 ^ 16 + g.vauxMv % 2 ^ 16 * 2 ^ 16
  | o => if 0x100 ≤ o ∧ o < 0x130 then (s.rail ((o - 0x100) / 4)).num ((o - 0x100) / 4) else 0

/-- A temperature as 16 bits, signed (Table 15-5). -/
def temp16 (t : Int) : Nat := (BitVec.ofInt 16 t).toNat

/-- The TH_ window (Table 15-5). -/
def thRead (s : State) (o : Nat) : Nat :=
  let g := s.goose
  match o with
  | 0x20 => temp16 g.tmax + g.tmaxSite % 8 * 2 ^ 16 + flag g.warn * 2 ^ 19 + flag g.stopping * 2 ^ 20
  | 0x24 => g.trips % 2 ^ 16
  | o =>
    if o < 0x20 then
      let x := g.sites.getD (o / 4) {}
      temp16 x.temp + x.speed % 2 ^ 16 * 2 ^ 16
    else 0

/-- The PW_ window (Table 8-11). -/
def pwRead (s : State) (o : Nat) : Nat :=
  let p := s.pers
  match o with
  | 0x400 => flag p.imageLive + flag p.unclean * 2 + flag p.reserveOk * 4 + p.lastCause % 256 * 2 ^ 8
  | 0x404 => p.fseq % 2 ^ 32
  | 0x408 => p.flushLines % 2 ^ 32
  | 0x40C => p.flushUs % 2 ^ 32
  | 0x410 => p.restored % 2 ^ 32
  | 0x414 => p.holdNeed % 2 ^ 16
  | 0x418 => p.rebuildMs % 2 ^ 16
  | 0x41C => p.cseq % 2 ^ 32
  | _ => 0

/-- WIDTH of Table 12-17: 0 of four lanes, 1 of eight, 2 of sixteen. -/
def State.widthCode (s : State) : Nat := if s.lanes = 16 then 2 else if s.lanes = 8 then 1 else 0

/-- The registers of a port (Table 12-17). -/
def lkRead (s : State) (p o : Nat) : Nat :=
  let x := s.port p
  match o with
  | 0x00 => x.state % 4 + flag x.rate56 * 2 ^ 2 + s.widthCode * 2 ^ 3 + flag x.calLoaded * 2 ^ 5 + flag x.calNone * 2 ^ 6
      + x.fails % 16 * 2 ^ 8 + bitsNum 8 (fun n => (s.sess p n).isOpen) * 2 ^ 16
      + bitsNum 8 (fun n => (s.sess p n).admin) * 2 ^ 24
  | 0x04 => x.fecCorr % 2 ^ 32
  | 0x08 => x.fecUncorr % 2 ^ 32
  | 0x0C => x.crcErr % 2 ^ 32
  | 0x10 => x.replays % 2 ^ 32
  | 0x14 => x.proto % 2 ^ 16 + x.tagDup % 2 ^ 16 * 2 ^ 16
  | 0x18 => x.crWait % 2 ^ 16 + x.maxCrWait % 2 ^ 16 * 2 ^ 16
  | 0x1C => x.downRx % 16 + x.downTx % 16 * 2 ^ 4
  | 0x20 => x.trains % 2 ^ 32
  | _ => 0

/-- The bus registers of a channel (Table 13-11). -/
def busRead (x : Chan) (o : Nat) : Nat :=
  match o with
  | 0x00 => x.state % 4 + flag x.rate * 2 ^ 2 + bitsNum 8 (fun d => (x.dies.getD d {}).present) * 2 ^ 8
      + bitsNum 8 (fun d => (x.dies.getD d {}).accepted) * 2 ^ 16
  | 0x04 => x.alerts % 2 ^ 32
  | 0x08 => x.illegal % 2 ^ 16 + x.autoerr % 2 ^ 16 * 2 ^ 16
  | 0x0C => x.pfail % 2 ^ 16 + x.cfail % 2 ^ 16 * 2 ^ 16
  | 0x10 => x.suspends % 2 ^ 32
  | 0x14 => x.aborts % 2 ^ 32
  | _ => 0

/-- The wear and scrub registers of a channel (Table 7-8). -/
def wearRead (x : Chan) (o : Nat) : Nat :=
  let root := x.node 1
  match o with
  | 0x00 => root.iminS % 2 ^ 32
  | 0x04 => root.imaxS % 2 ^ 32
  | 0x08 => root.iminT % 2 ^ 32
  | 0x0C => root.imaxT % 2 ^ 32
  | 0x10 => x.spares % 2 ^ 16 + x.patches.length % 2 ^ 7 * 2 ^ 16 + flag x.treeValid * 2 ^ 23 + flag x.behind * 2 ^ 24
      + flag x.static.isSome * 2 ^ 25
  | 0x14 => x.passes % 2 ^ 32
  | 0x18 => x.relocations % 2 ^ 32
  | 0x1C => x.retired.length % 2 ^ 32
  | _ => 0

/-- The lane and calibration registers of a channel (Table 6-9). -/
def laneRead (x : Chan) (o : Nat) : Nat :=
  match o with
  | 0x00 => x.laneGrants % 2 ^ 32
  | 0x04 => x.laneMisses % 2 ^ 32
  | 0x08 => x.laneMax % 2 ^ 16
  | 0x0C => x.rrCount % 2 ^ 16
  | 0x10 => flag x.calLoaded + flag x.calNone * 2 + x.calAge % 2 ^ 16 * 2 ^ 16
  | _ => 0

/-- The MB_ window (Tables 6-9, 7-8, 13-11). -/
def mbRead (s : State) (o : Nat) : Nat :=
  if o < 0x1000 then busRead (s.chan (o / 0x100)) (o % 0x100)
  else if 0x3E000 ≤ o ∧ o < 0x3E200 then wearRead (s.chan ((o - 0x3E000) / 0x20)) (o % 0x20)
  else if 0x3F000 ≤ o ∧ o < 0x3F200 then laneRead (s.chan ((o - 0x3F000) / 0x20)) (o % 0x20)
  else 0

/-- The doorbells of a queue (Table 10-6); those of a queue that is not open read zero. -/
def qdRead (s : State) (o : Nat) : Nat :=
  match s.queue (o / 8) with
  | none => 0
  | some q => if o % 8 = 0 then q.tail % 2 ^ 16 + q.head % 2 ^ 16 * 2 ^ 16 else q.chead % 2 ^ 16 + q.ctail % 2 ^ 16 * 2 ^ 16

/-- The PC_ window above the counters (R503). -/
def pcRead (s : State) (o : Nat) : Nat :=
  match o with
  | 0x800 => s.recs.prod % 2 ^ 32
  | 0x804 => s.recs.cons % 2 ^ 32
  | 0x808 => s.recs.drops % 2 ^ 32
  | _ => 0

/-- A word of a recorder block. -/
def blockWord (s : State) (b o : Nat) : Nat := numOf (((s.block b).drop o).take 4)

/-- The EV_ window (R496). -/
def evRead (s : State) (o : Nat) : Nat :=
  if o < 0x40 then blockWord s 0 o
  else if 0x100 ≤ o ∧ o < 0x900 then blockWord s (1 + (o - 0x100) / 0x80) ((o - 0x100) % 0x80)
  else if 0x1000 ≤ o ∧ o < 0x1000 + 0x400 * 19 then blockWord s (17 + (o - 0x1000) / 0x400) ((o - 0x1000) % 0x400)
  else 0

/-- The CA_ window (Table 4-9). -/
def caRead (s : State) (o : Nat) : Nat :=
  let c := s.cache
  match o with
  | 0x00 => flag c.on + flag c.wback * 2 + flag (c.stale && c.lines.any (fun p => p.2.frozen)) * 4 + c.active % 32 * 8
  | 0x04 => c.dirty % 2 ^ 32
  | 0x08 => c.budget % 2 ^ 32
  | 0x0C => (c.lines.filter (fun p => p.2.orphan)).length % 2 ^ 32
  | 0x10 => c.discards % 2 ^ 32
  | 0x14 => c.wbb.length % 2 ^ 15
  | 0x18 => c.sets % 2 ^ 32
  | _ => 0

/-- Whether a key ID is in one of two states. -/
def State.keyIn (s : State) (k a b : Nat) : Bool :=
  let x := (Tbl.getD s.keys.recs k {}).state
  x == a || x == b

/-- The CY_ window (Table 14-5). -/
def cyRead (s : State) (o : Nat) : Nat :=
  let k := s.keys
  match o with
  | 0x00 => flag k.tk.isSome + flag k.rekey.isSome * 2 + (k.pipes.filter (fun n => decide (n < 3))).length % 16 * 2 ^ 8
      + 2 ^ 12
  | 0x04 => bitsNum 32 (fun i => s.keyIn i 1 2)
  | 0x08 => bitsNum 32 (fun i => s.keyIn (32 + i) 1 2)
  | 0x0C => bitsNum 32 (fun i => s.keyIn i 2 2)
  | 0x10 => bitsNum 32 (fun i => s.keyIn (32 + i) 2 2)
  | 0x14 => k.cfaults % 2 ^ 32
  | 0x18 => k.macfails % 2 ^ 32
  | 0x1C =>
    match k.rekey with
    | none => 0
    | some r => r.region % 256 + r.old % 64 * 2 ^ 8 + r.new % 64 * 2 ^ 16
  | 0x20 =>
    match k.rekey with
    | none => 0
    | some r => r.pages % 2 ^ 32
  | _ => 0

/-- The NV_ window (Table 17-11); NV_STATE reads zero until the store has been scanned. -/
def nvRead (s : State) (o : Nat) : Nat :=
  let r := s.recs
  match o with
  | 0x00 =>
    if r.nvState = 0 then 0
    else r.nvState % 4 + flag r.tallySect * 2 ^ 2 + min 255 r.erased0 * 2 ^ 8 + min 255 r.erased1 * 2 ^ 16
  | 0x04 => r.nvSeq % 2 ^ 32
  | 0x08 => r.nvBase % 2 ^ 32
  | 0x0C => r.nvDups % 2 ^ 16
  | _ => 0

/-- The AB_ window: the records of Table 9-7, at offsets that the spec does not give (R285, log 31). -/
def abRead (s : State) (o : Nat) : Nat :=
  match Config.arbAt o with
  | some (a, q, w) => if serves a q then s.arbRecord a q / 2 ^ (32 * w) % 2 ^ 32 else 0
  | none => 0

/-- Value of the CSR word at an offset (Table 1-4), but for a counter, whose read has an effect; an offset without a register
reads zero (R26). -/
def csrValue (s : State) (off : Nat) : Nat :=
  if off < 0x010000 then idRead s off
  else if off < 0x020000 then gsRead s (off - 0x010000)
  else if off < 0x030000 then thRead s (off - 0x020000)
  else if off < 0x040000 then pwRead s (off - 0x030000)
  else if off < 0x080000 then
    (if off < 0x044000 then lkRead s ((off - 0x040000) / 0x1000) (off % 0x1000) else 0)
  else if off < 0x0C0000 then mbRead s (off - 0x080000)
  else if off < 0x100000 then 0
  else if off < 0x110000 then qdRead s (off - 0x100000)
  else if off < 0x140000 then 0
  else if off < 0x150000 then pcRead s (off - 0x140000)
  else if off < 0x160000 then evRead s (off - 0x150000)
  else if off < 0x170000 then abRead s (off - 0x160000)
  else if off < 0x180000 then caRead s (off - 0x170000)
  else if off < 0x190000 then cyRead s (off - 0x180000)
  else if off < 0x1A0000 then nvRead s (off - 0x190000)
  else 0

/-- Read a CSR word for session n of port p. The low word of a counter latches its high bits for the session, and the high word
returns what is latched (R499). -/
def csrRead (s : State) (p n off : Nat) : State × Nat :=
  if 0x140000 ≤ off ∧ off < 0x140800 then
    if off % 8 = 0 then
      let v := Tbl.getD s.recs.ctr ((off - 0x140000) / 8) 0
      (s.updSess p n (fun x => { x with perfLatch := v / 2 ^ 32 % 2 ^ 16 }), v % 2 ^ 32)
    else (s, (s.sess p n).perfLatch)
  else (s, csrValue s off)

/-- Read a number of CSR words upward. -/
def csrReads (s : State) (p n off : Nat) : Nat → State × List Nat
  | 0 => (s, [])
  | k + 1 =>
    let (t, v) := csrRead s p n off
    let (u, l) := csrReads t p n (off + 4) k
    (u, v :: l)

/-! ## Write effects -/

/-- The image in Q0's buffer is committed (R480): a checked image is installed and the buffer goes, LEN zero commits none; either
lets the map rebuild begin. A failure sets BOOT_FAIL, and another image may follow. GO has no effect where none is awaited. -/
def bootGo (s : State) (len : Nat) : State :=
  let go := fun (t : State) =>
    { t with
      boot := { t.boot with linkGo := true }
      pers := { t.pers with rebuild := if t.boot.mismatch then 0 else 1 }
      eng := { t.eng with
        queues := Tbl.upd t.eng.queues 0 (fun q => { q with bufMib := 0 })
        buf := t.eng.buf.filter (fun p => p.1 / 2 ^ 28 != 0) } }
  if !s.awaitsGo then s
  else if len = 0 then go { s with boot := { s.boot with bootUsed := 3 } }
  else
    match acceptImage (s.bufBytes (bufAddr 0 0) len) s.boot.straps.sec s.boot.okhSet s.boot.okh with
    | none => bootFailed s false
    | some l =>
      let t := installImage s l 2
      go { t with boot := { t.boot with bootFail := false } }

/-- FUSE: ID_OKH is burned into the OKH fuses and the event recorded; ignored once OKH_SET is 1 (R481). -/
def bootFuse (s : State) : State :=
  if s.boot.okhSet then s
  else record { s with boot := { s.boot with okh := s.boot.idOkh, okhSet := true } } (Config.evClass 16 2) 0

/-- A word of ID_OKH is written (RWL: ignored while OKH_SET is 1). -/
def okhWrite (s : State) (i v : Nat) : State :=
  if s.boot.okhSet then s
  else
    let n := s.boot.idOkh.toNat
    { s with
      boot := { s.boot with
        idOkh := BitVec.ofNat 384 (n % 2 ^ (32 * i) + v * 2 ^ (32 * i) + n / 2 ^ (32 * i + 32) * 2 ^ (32 * i + 32)) } }

/-- A write of a CSR word that the session may write, from port p, by the access codes of its fields (R10): the doorbells store,
GS_FAULT and the causes of ID_IRQ clear, ID_BOOT acts, read-only fields ignore it; a write outside every range is recorded (R26). -/
def csrPut (s : State) (p off : Nat) (v : W32) : State :=
  let n := v.toNat
  if off = 0x00000C then
    let s1 := if bitOf n 30 then bootFuse s else s
    if bitOf n 31 then bootGo s1 (bitsOf n 20 0) else s1
  else if off = 0x000010 then
    { s with
      boot := { s.boot with
        irqCause := s.boot.irqCause &&& ~~~(BitVec.ofNat 8 n), irqEn := BitVec.ofNat 8 (bitsOf n 23 16) } }
  else if 0x40 ≤ off ∧ off < 0x70 then okhWrite s ((off - 0x40) / 4) n
  else if off = 0x010008 then s.onGoose (fun g => { g with fault := g.fault &&& ~~~(BitVec.ofNat 12 n) })
  else if 0x100000 ≤ off ∧ off < 0x108000 then
    s.updQueue ((off - 0x100000) / 8) (fun q =>
      if off % 8 = 0 then { q with tail := n % 2 ^ 16 } else { q with chead := n % 2 ^ 16 })
  else if off = 0x140804 then s.onRecs (fun r => { r with cons := n })
  else if 0x1A0000 ≤ off then record s (Config.evClass 1 1) p
  else s

/-- Write words from an offset upward. -/
def csrPuts (s : State) (p off : Nat) : List W32 → State
  | [] => s
  | v :: t => csrPuts (csrPut s p off v) p (off + 4) t

/-! ## Management transactions (R363, R370, R372, R373) -/

/-- Whether a session owns a queue (R299). -/
def State.owns (s : State) (p n q : Nat) : Bool :=
  match s.queue q with
  | none => false
  | some x => x.port == p && x.session == n

/-- Whether a session may read a CSR word (Table 12-10). -/
def State.csrMay (s : State) (p n off : Nat) : Bool :=
  (s.sess p n).admin || decide (off < 0x010000)
    || (decide (0x100000 ≤ off) && decide (off < 0x108000) && s.owns p n ((off - 0x100000) / 8))

/-- Status of a write of one CSR word: DENIED where Table 12-10 or R306 refuses it, BAD_OPERAND for a TAIL or CHEAD value not
below its ring's length (R306; log 29). -/
def State.putStatus (s : State) (p n off : Nat) (v : W32) : Nat :=
  let admin := (s.sess p n).admin
  if 0x100000 ≤ off ∧ off < 0x108000 then
    let q := (off - 0x100000) / 8
    match s.queue q with
    | none => Config.DENIED
    | some x =>
      if !admin && !s.owns p n q then Config.DENIED
      else if v.toNat % 2 ^ 16 < (if off % 8 = 0 then 2 ^ x.dlog else 2 ^ x.clog) then Config.OK
      else Config.BAD_OPERAND
  else if admin then Config.OK
  else Config.DENIED

/-- Status of an access to a buffer range (Table 12-10, R373). -/
def State.bufStatus (s : State) (p n a len : Nat) : Nat :=
  if !(s.sess p n).admin && !s.owns p n (a / 2 ^ 28) then Config.DENIED
  else if s.bufRange a len then Config.OK
  else Config.BAD_OPERAND

/-- Statuses of the words of a CSR write. -/
def State.putStatuses (s : State) (p n off : Nat) (ws : List W32) : List Nat :=
  ws.mapIdx (fun i v => s.putStatus p n (off + 4 * i) v)

/-- The status of a transaction from those of its words: DENIED before BAD_OPERAND. -/
def worst (l : List Nat) : Nat :=
  if l.contains Config.DENIED then Config.DENIED
  else if l.contains Config.BAD_OPERAND then Config.BAD_OPERAND
  else Config.OK

/-- Words as the data of a completion, the first at the bottom. -/
def wordsLine (l : List Nat) : Line := BitVec.ofNat 2048 (l.foldr (fun v a => v % 2 ^ 32 + 2 ^ 32 * a) 0)

/-- What a management transaction answers: the state, its status, and its data words. -/
structure MgtAns where
  state : State
  status : Nat
  words : List Nat := []
  deriving DecidableEq, Repr

/-- A management transaction arrives: a duplicate tag is discarded, a session that is not open is refused, and the completion
goes back on VC3 (R363, R370, R372). -/
def mgt (s0 : State) (p n tag words : Nat) (go : State → MgtAns) : State :=
  let k := ceilDiv (3 + words) 30
  let s := freeCredit (rxFlits s0 p k) p 3 k
  if s0.serves && decide (p < s0.portCount) && (s0.port p).up then
    if (s.port p).outTags.contains tag then
      record (s.updPort p (fun x => { x with tagDup := (x.tagDup + 1) % 2 ^ 16 })) (Config.evClass 12 0) p
    else
      let s1 := s.updPort p (fun x => { x with outTags := x.outTags ++ [tag] })
      let a := if (s.sess p n).isOpen then go s1 else { state := s1, status := Config.DENIED }
      sendCpl a.state p n tag 3 a.status a.words.length (wordsLine a.words)
  else s0

/-- A read of words of the CSR window or of a buffer (R373). -/
def mgtReadGo (p n : Nat) (buffer : Bool) (addr words : Nat) (s : State) : MgtAns :=
  if 16 < words ∨ addr % 4 ≠ 0 then { state := s, status := Config.BAD_OPERAND }
  else if buffer then
    let st := s.bufStatus p n addr (4 * words)
    { state := s, status := st, words := if st = Config.OK then (List.range words).map (fun i => s.bufNum (addr + 4 * i) 4) else [] }
  else if (List.range words).all (fun i => s.csrMay p n (addr + 4 * i)) then
    let (t, l) := csrReads s p n addr words
    { state := t, status := Config.OK, words := l }
  else { state := s, status := Config.DENIED }

/-- A write of words to the CSR window or to a buffer: refused whole, or done in ascending order (R373). -/
def mgtWriteGo (p n : Nat) (buffer : Bool) (addr : Nat) (ws : List W32) (s : State) : MgtAns :=
  if 16 < ws.length ∨ addr % 4 ≠ 0 then { state := s, status := Config.BAD_OPERAND }
  else if buffer then
    let st := s.bufStatus p n addr (4 * ws.length)
    { state := if st = Config.OK then s.bufStore addr (ws.flatMap (fun v => bytesOf v.toNat 4)) else s, status := st }
  else
    let st := worst (s.putStatuses p n addr ws)
    { state := if st = Config.OK then csrPuts s p addr ws else s, status := st }

/-- OPEN of a session of the receiving port (R372): an ADMIN session opens one that is not open. -/
def mgtOpenGo (p n target : Nat) (admin : Bool) (s : State) : MgtAns :=
  if !(s.sess p n).admin then { state := s, status := Config.DENIED }
  else if (s.sess p target).isOpen then { state := s, status := Config.BAD_OPERAND }
  else { state := openSession s p target admin, status := Config.OK }

/-- CLOSE of a session of the receiving port: any but session 0 for ADMIN, its own for TENANT (R372, Table 12-10). -/
def mgtCloseGo (p n target : Nat) (s : State) : MgtAns :=
  if !(s.sess p n).admin && n != target then { state := s, status := Config.DENIED }
  else if target = 0 ∨ !(s.sess p target).isOpen then { state := s, status := Config.BAD_OPERAND }
  else { state := closeSession s p target, status := Config.OK }

/-- MGT_READ (R373). -/
def execMgtRead (port session tag : Nat) (buffer : Bool) (addr words : Nat) (s : State) : Out :=
  .next (mgt s port session tag 0 (mgtReadGo port session buffer addr words))

/-- MGT_WRITE (R373). -/
def execMgtWrite (port session tag : Nat) (buffer : Bool) (addr : Nat) (ws : List W32) (s : State) : Out :=
  .next (mgt s port session tag ws.length (mgtWriteGo port session buffer addr ws))

/-- MGT_OPEN (R372). -/
def execMgtOpen (port session tag target : Nat) (admin : Bool) (s : State) : Out :=
  .next (mgt s port session tag 0 (mgtOpenGo port session target admin))

/-- MGT_CLOSE (R372). -/
def execMgtClose (port session tag target : Nat) (s : State) : Out :=
  .next (mgt s port session tag 0 (mgtCloseGo port session target))

/-- QD_TAIL: an MGT write of a queue's TAIL (R306). -/
def execQdTail (port session tag q v : Nat) (s : State) : Out :=
  .next (mgt s port session tag 1 (mgtWriteGo port session false (0x100000 + 8 * q) [BitVec.ofNat 32 v]))

/-- QD_CHEAD: an MGT write of a queue's CHEAD (R306). -/
def execQdChead (port session tag q v : Nat) (s : State) : Out :=
  .next (mgt s port session tag 1 (mgtWriteGo port session false (0x100004 + 8 * q) [BitVec.ofNat 32 v]))

/-- ID_BOOT_GO: an MGT write of LEN and GO to ID_BOOT (R480). -/
def execIdBootGo (port session tag len : Nat) (s : State) : Out :=
  .next (mgt s port session tag 1 (mgtWriteGo port session false 0x00000C [BitVec.ofNat 32 (2 ^ 31 + len % 2 ^ 21)]))

/-- ID_BOOT_FUSE: an MGT write of FUSE to ID_BOOT (R481). -/
def execIdBootFuse (port session tag : Nat) (s : State) : Out :=
  .next (mgt s port session tag 1 (mgtWriteGo port session false 0x00000C [BitVec.ofNat 32 (2 ^ 30)]))

/-- PERF_COUNTER_READ: an MGT read of the low word of counter i (R499). -/
def execPerfCounterRead (port session tag i : Nat) (s : State) : Out :=
  .next (mgt s port session tag 0 (mgtReadGo port session false (0x140000 + 8 * i) 1))

/-- CSR_WRITE: an MGT write of one CSR word (R10, R26). -/
def execCsrWrite (port session tag off : Nat) (v : W32) (s : State) : Out :=
  .next (mgt s port session tag 1 (mgtWriteGo port session false off [v]))

end Sys2Proof.Machine
end

