-- ==== Sys2Proof/Machine/Media.lean ====
section
/-! DEFINITION. The checker instructions and the raw images of slots (R226 to R230, Tables 3-3 to 3-5), SCRUB.RANGE (R216)
and loaded calibration (R192 to R196). -/

namespace Sys2Proof.Machine

open Sys2Proof

/-! ## Tag slots and raw slots -/

/-- The MACs of a page for a tag slot; zero where no page stands. -/
def pageMacs : Option PageImg → List Nat
  | none => List.replicate 128 0
  | some p => p.lines.flatMap Cipher.macOf

/-- The image of tag slot g of an integrity frame (R429, R430): zero bytes until it is programmed. PAGE_TAG of a slot whose first page is
absent is not given: a free value (log 1). -/
def State.tagSlot (s : State) (fx g : Nat) (f : Frame) : List Nat :=
  let a := Tbl.find s.medium.pages (fx * 192 + 2 * g)
  let b := Tbl.find s.medium.pages (fx * 192 + 2 * g + 1)
  if (a.isSome || b.isSome) && f.tags.contains g then
    codedSlot (pageMacs a ++ pageMacs b) (slotMeta ((a.map (·.page)).getD (s.freeVal % 2 ^ 32)) 0 0 false false true)
  else List.replicate 288 0

/-- The 32 bytes of a region record (Table 11-11); of a drop INDEX and ACT alone (R342). -/
def rgnBytes (idx act : Nat) (r : Option Region) : List Nat :=
  let n := match r with
    | none => idx + act * 2 ^ 192
    | some r => idx + r.density % 4 * 2 ^ 8 + flag r.mono * 2 ^ 10 + flag r.integ * 2 ^ 11 + r.key % 64 * 2 ^ 12 + r.label % 64 * 2 ^ 18
        + r.access % 4 * 2 ^ 24 + r.ways.toNat * 2 ^ 32 + r.base % 2 ^ 44 * 2 ^ 64 + r.size % 2 ^ 44 * 2 ^ 128 + act * 2 ^ 192
  (List.range 32).map (byteAt n)

/-- The body slot of a journal record (Tables 5-8 and 5-10), without its BCRC. A record of a region change uses no entry: its COUNT is taken
to be 0 (DEDUCED, log 89). -/
def JRec.bodyBytes (r : JRec) : List Nat :=
  let head := r.jseq % 2 ^ 48 + r.entries.length * 2 ^ 48 + flag r.region.isSome * 2 ^ 53
  let rest := match r.region with
    | some (i, x) => rgnBytes i r.act x
    | none => r.entries.flatMap (fun e => (List.range 12).map (byteAt (e.page % 2 ^ 32 + e.new % 2 ^ 32 * 2 ^ 32 + e.old % 2 ^ 32 * 2 ^ 64)))
  padTo ((List.range 8).map (byteAt head) ++ rest) 252

/-- BCRC of a journal record: the CRC-32C of bytes 0 to 251 of its body. -/
def JRec.bcrc (r : JRec) : Nat := crc32c (toBytes r.bodyBytes)

/-- The body slot of a journal record (Table 5-8). -/
def JRec.bodySlot (r : JRec) : List Nat := codedSlot (r.bodyBytes ++ (List.range 4).map (byteAt r.bcrc)) (sysMeta 1 0)

/-- The seal slot of a journal record (Table 5-9). -/
def JRec.sealSlot (r : JRec) (commit : BitVec 16) : List Nat :=
  codedSlot ((List.range 30).map (byteAt (r.jseq % 2 ^ 48 + r.bcrc * 2 ^ 64)) ++ (List.range 2).map (byteAt commit.toNat)) (sysMeta 1 0)

/-- The bytes of a slot of a JOURNAL frame (R154, R155): none while a program of it is under way or has failed. -/
def State.journalSlot (s : State) (fx slot : Nat) : Option (List Nat) :=
  match Tbl.find s.medium.jslots (512 * fx + slot / 2) with
  | none => some (List.replicate 288 0)
  | some x =>
    if slot % 2 = 0 then (if x.body then some x.rcd.bodySlot else none)
    else
      match x.commit with
      | some c => some (x.rcd.sealSlot c)
      | none => if s.maps.jseal = some x.rcd then none else some (List.replicate 288 0)

/-- Bytes 0 to 255 of the body slot of a manifest (Table 8-4). -/
def Manifest.body (m : Manifest) : List Nat :=
  let l := padTo ((List.range 23).map (byteAt (m.fseq % 2 ^ 32 + m.jF % 2 ^ 48 * 2 ^ 32 + m.lines % 2 ^ 32 * 2 ^ 80 + m.mslots % 2 ^ 16 * 2 ^ 112
    + m.cause % 2 ^ 8 * 2 ^ 128 + m.hold % 4 * 2 ^ 136 + m.duration % 2 ^ 40 * 2 ^ 144))) 252
  l ++ (List.range 4).map (byteAt (crc32c (toBytes l)))

/-- The seal slot of a manifest: laid out as Table 5-9, with FSEQ for JSEQ and the body's BCRC for SCRC (R242). -/
def Manifest.seal (m : Manifest) : List Nat :=
  (List.range 30).map (byteAt (m.fseq % 2 ^ 32 + numB (m.body.drop 252) * 2 ^ 64)) ++ [0xFF, 0xFF]

/-- The copy of the manifest that a RESERVE frame holds in its slots 0 and 1: that of the lowest-indexed one of each of the two lowest-numbered
enabled channels (R242). -/
def State.manifestIn (s : State) (fx : Nat) : Option Manifest :=
  let least := fun (ch : Nat) => (s.chan ch).reserve.foldl (fun (b : Option Nat) x => some (min (b.getD x) x)) none
  if least 0 = some fx then s.pers.manifest else if least 1 = some fx then s.pers.manifestB else none

/-- The bytes of a slot of a RESERVE frame: zero where no flush has written since its clear (R80, R252); the slots of a committed manifest
(R242), whose PAGE_TAG and FTAG the spec does not give: free values (log 1). Which slot holds which line or which part of the map state of an
image it does not say (log 37). -/
def State.reserveSlot (s : State) (fx slot : Nat) : Option (List Nat) :=
  if s.pers.image.isEmpty && s.pers.mapImage.isEmpty && s.pers.manifest.isNone && s.pers.manifestB.isNone then some (List.replicate 288 0)
  else if 2 ≤ slot then none
  else
    (s.manifestIn fx).map (fun m =>
      codedSlot (if slot = 0 then m.body else m.seal)
        (spareBytes (s.freeVal % 2 ^ 32) (Config.freeValue (s.free + 1) % 2 ^ 8) 0 false false true false))

/-- The bytes of a slot of a frame of the pools: programmed, or cleared and not programmed since (R80). A slot that a repair check
programmed holds its pattern (R208), with its parity. -/
def State.poolSlot (s : State) (fx slot : Nat) (f : Frame) : Option (List Nat) :=
  let zero := List.replicate 288 0
  let at' := fun (q : Nat) (img : PageImg → Option (List Nat)) =>
    match Tbl.find s.medium.pages (fx * 192 + q) with
    | some p => img p
    | none => if f.hurt.contains q || s.programming (fx * 192 + q) then none else some zero
  if ((Tbl.find s.medium.patterns fx).getD []).contains slot then
    some (let m := (List.range 132).flatMap (fun _ => [0x55, 0xAA])
          m ++ parityBytes m)
  else if f.mode = 3 then
    at' (slot / 32) (fun p => if slot % 32 < 16 then dataSlot p (slot % 16) else checkSlot p (slot % 16))
  else
    let tag0 := if f.mode = 2 then 2976 else 992
    if f.integ ∧ tag0 ≤ slot then
      (if slot - tag0 < (if f.mode = 2 then 93 else 31) then some (s.tagSlot fx (slot - tag0) f) else some zero)
    else
      match Tbl.find s.medium.sysPages (fx * 192 + slot / 16) with
      | some x => some (sysSlot x (slot % 16))
      | none => at' (slot / 16) (fun p => dataSlot p (slot % 16))

/-- The bytes stored in a slot of a bound frame, as far as the spec gives them: none for a frame never cleared or under a clear, for the
device's records in a SYSTEM frame, whose layouts it does not give (log 37), and for a slot whose program failed. -/
def State.slotImage (s : State) (fx slot : Nat) : Option (List Nat) :=
  let f := s.frame fx
  if f.mode = 0 ∨ f.state = 7 then none
  else if f.state = 6 then (if f.hurt.isEmpty then s.journalSlot fx slot else none)
  else if f.state = 5 then (if f.hurt.isEmpty then s.reserveSlot fx slot else none)
  else s.poolSlot fx slot f

/-- Slots of a frame by its mode (R77). -/
def slotsOfMode (mode : Nat) : Nat := if mode = 2 then 3072 else 1024

/-- A number of free bytes (log 1). -/
def State.freeBytes (s : State) (n : Nat) : List Nat := (List.range n).map (fun i => Config.freeValue (s.free + i) % 256)

/-! ## MEDIA.RAWRD (R229, Table 7-7) -/

/-- The decoder report: corrected bits and their positions, or UNCORRECTABLE; the syndrome of a DRAM word. -/
def decodeReport (pos : Option (List Nat)) (syndrome : Nat) : List Byte :=
  let l := pos.getD []
  let st := if pos.isSome then Config.OK else Config.UNCORRECTABLE
  let posn := (List.range 16).foldl (fun a k => a + l.getD k 0xFFFF * 2 ^ (32 + 16 * k)) 0
  bytesOf (l.length + st * 2 ^ 8 + posn + syndrome * 2 ^ 288) 64

/-- The codeword of a slot with the parity the operand names, first message bit highest (R199, R229). -/
def codeword (img parity : List Nat) : Nat := bigNum (toBytes (img.take 264 ++ parity))

/-- The bytes of a medium slot that a raw target names; `none` outside the sets of R229. The inner option is open where the
spec does not give the bytes. -/
def State.rawSlot (s : State) (t : RawTarget) : Option (Option (List Nat)) :=
  if s.chanCount ≤ t.unit then none
  else if t.tgt = 0 then
    (if 1024 ≤ t.slot then none
     else some (some ((List.range 288).map (byteAt (Tbl.getD (s.chan t.unit).scratch t.slot 0).toNat))))
  else
    let f := s.frame t.fx
    if f.bound ∧ f.ch = t.unit ∧ s.chanOfFx t.fx = t.unit ∧ (s.chan t.unit).first ≤ t.fx ∧ t.slot < slotsOfMode f.mode then
      some (s.slotImage t.fx t.slot)
    else none

/-- Parity that decodes a slot: its own, or that of a check record of its monotone pair; none where the operand names no
such record. -/
def State.rawParity (s : State) (t : RawTarget) (recno : Nat) (img : List Nat) : Option (List Nat) :=
  if recno = 0 then some (img.drop 264)
  else if t.tgt = 2 ∧ (s.frame t.fx).mode = 3 ∧ t.slot % 32 < 16 ∧ recno ≤ 8 then
    match s.slotImage t.fx (t.slot + 16) with
    | some c => some ((c.drop (32 * recno)).take 24)
    | none => some (s.freeBytes 24)
  else none

/-- A DRAM test word read raw, and decoded where asked. -/
def rawDram (s : State) (e c b : Nat) (t : RawTarget) (decode : Bool) : State :=
  if s.dramCount ≤ t.unit ∨ 512 ≤ t.slot then complete s e c Config.BAD_OPERAND 0
  else
    let w := (Tbl.getD s.medium.testWords (512 * t.unit + t.slot) 0).toNat
    let s1 := s.bufStore b (bytesOf w 9)
    let d := w % 2 ^ 64
    let k := w / 2 ^ 64
    let syn := secSyndrome d k
    let pos := if syn = 0 then some [] else (secBit d k).map (fun i => [i])
    complete (if decode then s1.bufStore (b + 320) (decodeReport pos syn) else s1) e c Config.OK 0

/-- A medium slot read raw, and decoded where asked. -/
def rawMedium (s : State) (e c b : Nat) (t : RawTarget) (decode : Bool) (recno : Nat) : State :=
  match s.rawSlot t with
  | none => complete s e c Config.BAD_OPERAND 0
  | some o =>
    let s0 := if o.isNone then s.burn 288 else s
    let img := o.getD (s.freeBytes 288)
    match (if decode then s0.rawParity t recno img else some []) with
    | none => complete s e c Config.BAD_OPERAND 0
    | some par =>
      let s1 := (count s0 0x08 t.unit none 1).bufStore b (toBytes img)
      complete (if decode then (s1.burn 24).bufStore (b + 320) (decodeReport (bchErrors (codeword img par)) 0) else s1)
        e c Config.OK 0

/-- MEDIA.RAWRD: target in A, 384 bytes of buffer at B. -/
def mediaRawrdBody (e c : Nat) (s : State) (w : SWord) : State :=
  let x := s.ctx e c
  let t := rawTarget (x.reg w.a)
  let (b, st) := s.bufArg x.queue (x.reg w.b) 384
  if st ≠ Config.OK then complete s e c st 0
  else if t.ok = false ∨ t.tgt = 3 ∨ b % 64 ≠ 0 then complete s e c Config.BAD_OPERAND 0
  else if t.tgt = 1 then rawDram s e c b t (w.bit 0)
  else rawMedium s e c b t (w.bit 0) (w.fld 7 4)

/-- MEDIA_RAWRD (R229). -/
def execMediaRawrd (e c : Nat) (s : State) : Out := .next (synStep s e c (fun w => w.op == 0x42) (mediaRawrdBody e c))

/-! ## MEDIA.RAWWR (R227, R228) -/

/-- The descriptor that bounds the wear of a channel's scratch frames, whose die the spec does not name: the lowest rated endurance of its
accepted dies (DESIGN CHOICE, log 90). -/
def Chan.scratchOk (c : Chan) (clears : Nat) : Bool :=
  c.dies.all (fun d => match d.desc with
    | some x => !d.accepted || decide (clears ≤ x.endS)
    | none => true)

/-- The S-mode clear of the checker scratch frame of a channel: its header takes the count and a new stamp (R83). -/
def scratchClear (s : State) (ch : Nat) : State :=
  count (sampleFree ((s.onMedium (fun m => { m with stampNext := m.stampNext + 1 })).updChan ch (fun c =>
    { c with scratch := [], scratchHead := (c.scratchHead.1 + 1, s.medium.stampNext) })) 4 1) 0x0A ch none 1

/-- A slot of the checker scratch frame is programmed with 288 bytes exactly as given, after a clear where CLR is set and the frame's wear
allows one more (R101). -/
def rawProgram (s : State) (e c b : Nat) (t : RawTarget) (clr : Bool) : State :=
  let x := s.chan t.unit
  let wipe := clr && x.scratchOk (x.scratchHead.1 + 1)
  if s.chanCount ≤ t.unit ∨ 1024 ≤ t.slot ∨ (Tbl.has x.scratch t.slot && !wipe) then complete s e c Config.BAD_OPERAND 0
  else
    let s0 := if wipe then scratchClear s t.unit else s
    let s1 := s0.updChan t.unit (fun x => { x with scratch := Tbl.put x.scratch t.slot (BitVec.ofNat 2304 (s.bufNum b 288)) })
    complete (count (sampleFree s1 5 1) 0x09 t.unit none 1) e c Config.OK 0

/-- A DRAM test word is written: 8 data bytes and a check byte. -/
def rawWord (s : State) (e c b : Nat) (t : RawTarget) : State :=
  if s.dramCount ≤ t.unit ∨ 512 ≤ t.slot then complete s e c Config.BAD_OPERAND 0
  else
    complete (s.onMedium (fun m =>
      { m with testWords := Tbl.put m.testWords (512 * t.unit + t.slot) (BitVec.ofNat 72 (s.bufNum b 9)) })) e c Config.OK 0

/-- MEDIA.RAWWR: target in A, bytes at B. -/
def mediaRawwrBody (e c : Nat) (s : State) (w : SWord) : State :=
  let x := s.ctx e c
  let t := rawTarget (x.reg w.a)
  let (b, st) := s.bufArg x.queue (x.reg w.b) (if t.tgt = 1 then 9 else 288)
  if st ≠ Config.OK then complete s e c st 0
  else if t.ok = false ∨ 2 ≤ t.tgt then complete s e c Config.BAD_OPERAND 0
  else if t.tgt = 1 then rawWord s e c b t
  else rawProgram s e c b t (w.bit 0)

/-- MEDIA_RAWWR (R228). -/
def execMediaRawwr (e c : Nat) (s : State) : Out := .next (synStep s e c (fun w => w.op == 0x43) (mediaRawwrBody e c))

/-! ## MEDIA.RETIRE (R226) -/

/-- MEDIA.RETIRE: frame index in A, channel in B; an open frame closes first, and the context waits for the retirement. -/
def mediaRetireBody (e c : Nat) (s : State) (w : SWord) : State :=
  let x := s.ctx e c
  let fx := (x.reg w.a).toNat
  let f := s.frame fx
  let known := (List.range s.chanCount).any (fun k =>
    decide ((s.chan k).first ≤ fx) && decide (fx < (s.chan k).first + (s.chan k).count))
  if known = false ∨ f.bound = false ∨ f.ch ≠ (x.reg w.b).toNat then complete s e c Config.BAD_OPERAND 0
  else if 5 ≤ f.state then complete s e c Config.BUSY 0
  else
    suspend ((closeOpen s fx).onMedium (fun m =>
      { m with retireDue := if m.retireDue.contains fx then m.retireDue else m.retireDue ++ [fx] })) e c (.retire fx)

/-- MEDIA_RETIRE (R226). -/
def execMediaRetire (e c : Nat) (s : State) : Out := .next (synStep s e c (fun w => w.op == 0x44) (mediaRetireBody e c))

/-! ## SCRUB.RANGE (R216) -/

/-- A line found poisoned or uncorrectable. -/
def ScrubSum.bad (a : ScrubSum) (line : Nat) : ScrubSum := { a with firstBad := a.firstBad <|> some (line * 256) }

/-- A line that decoded with some bits corrected. -/
def ScrubSum.hit (a : ScrubSum) (bits : Nat) : ScrubSum :=
  { a with
    read := a.read + 1, corr := a.corr + flag (decide (0 < bits)), bits := a.bits + bits, maxBits := max a.maxBits bits }

/-- One line of a stored page under Table 7-2: the state, the counts, whether its page was queued. -/
def scrubLine (found : List (Nat × Decoded)) (ppn page : Nat) (acc : State × ScrubSum × Bool) (j : Nat) :
    State × ScrubSum × Bool :=
  let (s, a, q) := acc
  let line := 16 * page + j
  let flagged := match (Tbl.find s.medium.pages ppn).bind (fun p => p.lines[j]?) with
    | some i => i.poison
    | none => false
  let met := fun (a : ScrubSum) => if flagged then { a with poison := a.poison + 1 }.bad line else a
  if s.inPoisonSet line then (s, { a with poison := a.poison + 1 }.bad line, q)
  else
    match s.patchOf page ppn j with
    | some x => (s, met (a.hit x.bits), q)
    | none =>
      let tMode := (s.frame (fxOf ppn)).mode == 2
      let (t, e) := slotRead s line ppn found
      let (t1, queued) := scrubAct t line ppn e
      let a1 := { a with reread := min 0xFFFF (a.reread + flag (decide (0 < e.rereads tMode))) }
      match e with
      | .lost => (t1, { a1 with uncorr := a1.uncorr + 1, read := a1.read + 1 }.bad line, true)
      | .good bits _ => (t1, met (a1.hit bits), q || queued)
      | .mac => (t1, met (a1.hit 0), q || queued)

/-- One page of the range: skipped, poisoned whole, or read line by line; its frame moves by its age, by its reference cells or for a header
that fails (Table 7-2). -/
def scrubPage (w : ScrubFinds) (acc : State × ScrubSum) (page : Nat) : State × ScrubSum :=
  let (s, a) := acc
  let e := s.mapEntry page
  if e = Config.poisoned then (s, { a with poison := a.poison + 1 }.bad (16 * page))
  else
    let (s1, a1, q) := (List.range 16).foldl (scrubLine w.found e page) (houseRead s e, a, false)
    let due := s1.frameDueMove w (fxOf e)
    (scrubFrame w s1 (fxOf e), { a1 with queued := a1.queued + flag (q || due) })

/-- The summary of Table 7-3. -/
def scrubSummary (lo len unmapped us st : Nat) (a : ScrubSum) : List Byte :=
  bytesOf (lo + len * 2 ^ 64 + a.read % 2 ^ 32 * 2 ^ 128 + a.corr % 2 ^ 32 * 2 ^ 160 + a.bits % 2 ^ 32 * 2 ^ 192
    + a.maxBits * 2 ^ 224 + a.reread * 2 ^ 240 + a.uncorr % 2 ^ 32 * 2 ^ 256 + a.poison % 2 ^ 32 * 2 ^ 288
    + a.queued % 2 ^ 32 * 2 ^ 320 + unmapped % 2 ^ 32 * 2 ^ 352 + (a.firstBad.getD (2 ^ 48 - 1)) * 2 ^ 384
    + us % 2 ^ 40 * 2 ^ 448 + st * 2 ^ 488) 64

/-- SCRUB.RANGE of a base, a length and a summary buffer operand. -/
def scrubRange (e c : Nat) (w : ScrubFinds) (us : Nat) (s : State) (va vb vc : W64) : State :=
  let x := s.ctx e c
  let len := vb.toNat
  let (b, sb) := s.bufArg x.queue vc 64
  match hostOf va with
  | none => complete s e c Config.BAD_OPERAND 0
  | some lo =>
    match s.regionAt lo with
    | none => complete s e c Config.BAD_OPERAND 0
    | some (_, r) =>
      if !reaches r (s.queueAdmin x.queue) (s.queueSessLabel x.queue) then complete s e c Config.DENIED 0
      else if len = 0 ∨ lo % 4096 ≠ 0 ∨ len % 4096 ≠ 0 ∨ (s.regionRange lo len).isNone ∨ b % 64 ≠ 0 then
        complete s e c Config.BAD_OPERAND 0
      else if sb ≠ Config.OK then complete s e c sb 0
      else
        let n := min len (2 ^ 36)
        let st := if n < len then Config.PARTIAL else Config.OK
        let pages := (s.maps.map.filter (fun p => decide (lo ≤ p.1 * 4096) && decide (p.1 * 4096 < lo + n))).map (·.1)
        let (t, a) := pages.foldl (scrubPage w) (s, {})
        complete (t.bufStore b (scrubSummary lo n (n / 4096 - pages.length) us st a)) e c st 0

/-- SCRUB_RANGE (R216). -/
def execScrubRange (e c : Nat) (found : List (Nat × Decoded)) (badHeaders : List Nat) (shifts : List (Nat × Nat)) (us : Nat) (s : State) :
    Out :=
  .next (synStep s e c (fun w => w.op == 0x40) (fun s w =>
    let x := s.ctx e c
    scrubRange e c ⟨found, badHeaders, shifts⟩ us s (x.reg w.a) (x.reg w.b) (x.reg w.c)))

/-- H.SCRUB_RANGE issues SCRUB.RANGE of g0, g1 and g2; in Lamb service it completes with NOT_READY (R313, R328). -/
def execHScrubRange (e c : Nat) (found : List (Nat × Decoded)) (badHeaders : List Nat) (shifts : List (Nat × Nat)) (us : Nat) (s : State) :
    Out :=
  .next (houseStepOf s e c 4 (fun s _ =>
    let x := s.ctx e c
    if !s.fullService then complete s e c Config.NOT_READY 0
    else scrubRange e c ⟨found, badHeaders, shifts⟩ us s (x.reg 0) (x.reg 1) (x.reg 2)))

/-! ## Loaded calibration (R193 to R196) -/

/-- The load of a calibration run on a channel (R193): synthetic reads, and programs into its calibration scratch frame, which is cleared in
S-mode whenever no unprogrammed slot is left in it. How many of each fill the run is not given: free values (log 1). -/
def calLoad (s : State) (ch : Nat) : State :=
  let reads := s.freeVal % 2 ^ 16
  let progs := Config.freeValue (s.free + 1) % 2 ^ 16
  let c := s.chan ch
  let fill := c.calFill + progs
  let clears := (fill - 1) / 1024
  let t := ((s.burn 2).onMedium (fun m => { m with stampNext := m.stampNext + clears })).updChan ch (fun c =>
    { c with
      calFill := fill - 1024 * clears
      calHead := if clears = 0 then c.calHead else (c.calHead.1 + clears, s.medium.stampNext + clears - 1) })
  let t1 := count (count t 0x08 ch none reads) 0x09 ch none progs
  if clears = 0 then t1 else count (sampleFree t1 4 clears) 0x0A ch none clears

/-- A loaded calibration run of some channels and ports starts; units already in a run stay in it. -/
def startCal (s : State) (chans ports : List Nat) : State :=
  let new := chans.filter (fun c => !s.medium.calChans.contains c)
  (new.foldl calLoad s).onMedium (fun m =>
    { m with
      calChans := m.calChans ++ new, calPorts := m.calPorts ++ ports.filter (fun p => !m.calPorts.contains p) })

/-- Every enabled channel and port starts a run; the next falls due 60 s of operating seconds later (R195). -/
def calAll (s : State) : State :=
  startCal (s.onMedium (fun m => { m with calDue := s.recs.opsec + 60 })) (List.range s.chanCount) (List.range s.portCount)

/-- CALIBRATION_START: within 2 s of the start of full service (R193). -/
def execCalibrationStart (s : State) : Out :=
  .next (if s.fullService && s.live && s.regul.calWait && s.medium.calChans.isEmpty && s.medium.calPorts.isEmpty then
    calAll s else s)

/-- PERIODIC_CALIBRATION: every 60 s of operating seconds (R195). -/
def execPeriodicCalibration (s : State) : Out :=
  .next (if s.fullService && s.live && decide (s.medium.calDue ≤ s.recs.opsec) then calAll s else s)

/-- The last LOADED result is in place: one LEDGER notification for each restored commitment (R194). -/
def allLoaded (s : State) : State :=
  if s.regul.calWait && s.calibrated then
    s.regul.commits.foldl (fun t p => notifyCommit t p.2.owner Config.OK (identOf p.1 p.2))
      { s with regul := { s.regul with calWait := false } }
  else s

/-- Contexts whose CAL.RUN names a unit go on; the last unit completes them (Table 11-13). -/
def calReport (s : State) (isPort : Bool) (unit : Nat) (loaded : Bool) : State :=
  (s.waiters (fun w => match w with
    | .cal chans ports _ => bitOf (if isPort then ports else chans) unit
    | _ => false)).foldl (fun t k =>
      let e := k / 32
      let c := k % 32
      match (t.ctx e c).wait with
      | .cal chans ports ok =>
        let ch := if isPort then chans else chans - 2 ^ unit
        let po := if isPort then ports - 2 ^ unit else ports
        let n := ok + flag loaded
        if ch = 0 ∧ po = 0 then
          let asked := ((t.ctx e c).lastArg)
          complete t e c (if n = asked then Config.OK else Config.PARTIAL) n
        else t.updCtx e c (fun x => { x with wait := .cal ch po n })
      | _ => t) s

/-- CALIBRATION_DONE of a unit: a LOADED result stands; a failure keeps the previous one, or marks the unit as without
calibration, and is recorded and reported as a loss of capability (R196). -/
def calibrationDone (s : State) (isPort : Bool) (unit : Nat) (loaded : Bool) : State :=
  if !s.live || !(if isPort then s.medium.calPorts.contains unit else s.medium.calChans.contains unit) then s
  else
    let s1 := s.onMedium (fun m =>
      { m with
        calChans := if isPort then m.calChans else m.calChans.filter (fun c => c != unit)
        calPorts := if isPort then m.calPorts.filter (fun p => p != unit) else m.calPorts })
    let s2 :=
      if isPort then
        s1.updPort unit (fun x =>
          if loaded then { x with calLoaded := true, calNone := false } else { x with calNone := !x.calLoaded })
      else
        s1.updChan unit (fun x =>
          if loaded then { x with calLoaded := true, calNone := false, calAge := 0 } else { x with calNone := !x.calLoaded })
    let s3 := if loaded then s2 else loseCapability (record s2 (Config.evClass 6 1) unit)
    calReport (allLoaded s3) isPort unit loaded

/-- CALIBRATION_DONE (R196). -/
def execCalibrationDone (isPort : Bool) (unit : Nat) (loaded : Bool) (s : State) : Out :=
  .next (calibrationDone s isPort unit loaded)

/-- Set bits of a mask. -/
def maskBits (n m : Nat) : List Nat := indices n (bitOf m)

/-- CAL.RUN of a channel mask and a port mask: BUSY while a run is in progress on any unit named (Table 11-13). -/
def calRunBody (e c : Nat) (s : State) (w : SWord) : State :=
  let x := s.ctx e c
  let m := (x.reg w.a).toNat
  let p := (x.reg w.b).toNat
  let chans := maskBits 16 m
  let ports := maskBits 4 p
  if 2 ^ s.chanCount ≤ m ∨ 2 ^ s.portCount ≤ p then complete s e c Config.BAD_OPERAND 0
  else if chans.any (fun k => s.medium.calChans.contains k) || ports.any (fun k => s.medium.calPorts.contains k) then
    complete s e c Config.BUSY 0
  else if m = 0 ∧ p = 0 then complete s e c Config.OK 0
  else
    suspend ((startCal s chans ports).updCtx e c (fun x => { x with lastArg := chans.length + ports.length })) e c
      (.cal m p 0)

/-- CAL_RUN (R193). -/
def execCalRun (e c : Nat) (s : State) : Out := .next (synStep s e c (fun w => w.op == 0x45) (calRunBody e c))

end Sys2Proof.Machine
end

