-- ==== Sys2Proof/Machine/Key.lean ====
section
/-! DEFINITION. KEY.LOAD, KEY.RETIRE, KEY.QUERY, the re-key of a region, H.SECURE_ERASE and H.KEY_ROLL (14; R349, R415,
R416, R432 to R436). -/

namespace Sys2Proof.Machine

open Sys2Proof

/-! ## KEY.LOAD (R415, R416) -/

/-- The 96 bytes of an unwrapped key image, key by key. -/
def keySetOf (l : List Nat) : KeySet :=
  ⟨BitVec.ofNat 256 (numB (l.take 32)), BitVec.ofNat 256 (numB ((l.drop 32).take 32)),
   BitVec.ofNat 256 (numB ((l.drop 64).take 32))⟩

/-- Key ID 64: TK takes 32 plaintext bytes while it is blank (R415). -/
def loadTk (s : State) (q : Nat) (v : W64) : State × Nat :=
  let (b, st) := s.bufArg q v 32
  if s.keys.tk.isSome then (s, Config.BAD_OPERAND)
  else if st ≠ Config.OK then (s, st)
  else ({ s with keys := { s.keys with tk := some (BitVec.ofNat 256 (s.bufNum b 32)) } }, Config.OK)

/-- A wrapped key image is unwrapped under TK, checked and put under a key ID (R415, R416). -/
def takeKey (s : State) (k img : Nat) : State × Nat :=
  if bitsOf img 63 8 ≠ 0 ∨ bitsOf img 1023 896 ≠ 0 then (s, Config.BAD_OPERAND)
  else
    match Cipher.unwrap (s.keys.tk.getD Config.blankTk) ((List.range 104).map (fun i => byteAt img (8 + i))) with
    | none => (s, Config.INTEGRITY)
    | some l =>
      if (keySetOf l).k1 = (keySetOf l).k2 ∨ bitsOf img 7 0 ≠ 1 then (s, Config.BAD_OPERAND)
      else
        (putKey s k { state := 1, keys := keySetOf l, floor := 1, ceil := 0, high := 0, kseq := (s.keyRec k).kseq }, Config.OK)

/-- Load a wrapped key image into a key ID: the state and the completion code (R416). -/
def loadKey (s : State) (q k : Nat) (v : W64) : State × Nat :=
  if k = 64 then loadTk s q v
  else if 64 < k ∨ (s.keyRec k).state ≠ 0 then (s, Config.BAD_OPERAND)
  else
    let (b, st) := s.bufArg q v 128
    if st ≠ Config.OK then (s, st) else takeKey s k (s.bufNum b 128)

/-- KEY.LOAD: key ID in A, wrapped image at B. -/
def keyLoadBody (e c : Nat) (s : State) (w : SWord) : State :=
  let x := s.ctx e c
  let (t, st) := loadKey s x.queue (x.reg w.a).toNat (x.reg w.b)
  complete t e c st 0

/-- KEY_LOAD (R416). -/
def execKeyLoad (e c : Nat) (s : State) : Out := .next (synStep s e c (fun w => w.op == 0x50) (keyLoadBody e c))

/-! ## KEY.RETIRE (R349, R436) -/

/-- The key ID that the stored copy of a mapped page is under; none for a page without one. -/
def State.pageKey (s : State) (page : Nat) : Option Nat :=
  match s.regionOfPage page with
  | some (i, r) => if mapped (s.mapEntry page) then some (s.keyOfCopy page (s.mapEntry page) r i) else none
  | none => none

/-- Whether an address lies in a region bound to a key ID. -/
def State.boundTo (s : State) (k a : Nat) : Bool :=
  match s.regionAt a with
  | some (_, r) => r.key == k
  | none => false

/-- Whether KEY.RETIRE of a key that is held must wait. -/
def State.keyBusy (s : State) (k : Nat) : Bool :=
  s.maps.map.any (fun p => s.pageKey p.1 == some k)
    || s.maps.moves.any (fun p => mapped p.2.new && s.boundTo k (p.1 * 4096))
    || s.cache.lines.any (fun p => p.2.dirty && s.boundTo k (p.1 * 256)) || s.cache.wbb.any (fun p => s.boundTo k (p.1 * 256))
    || s.pers.imageLive
    || (match s.keys.rekey with
        | some r => r.old == k || r.new == k
        | none => false)

/-- Retire a key ID: the state and the completion code. -/
def retireKey (s : State) (k : Nat) : State × Nat :=
  if 64 ≤ k then (s, Config.BAD_OPERAND)
  else if (s.keyRec k).state = 0 then (s, Config.OK)
  else if s.keyBusy k then (s, Config.BUSY)
  else (putKey (dropRange s (fun l _ => s.boundTo k (l * 256))) k { kseq := (s.keyRec k).kseq }, Config.OK)

/-- KEY.RETIRE of the key ID in A. -/
def keyRetireBody (e c : Nat) (s : State) (w : SWord) : State :=
  let (t, st) := retireKey s ((s.ctx e c).reg w.a).toNat
  complete t e c st 0

/-- KEY_RETIRE (R349). -/
def execKeyRetire (e c : Nat) (s : State) : Out := .next (synStep s e c (fun w => w.op == 0x51) (keyRetireBody e c))

/-! ## KEY.QUERY -/

/-- Regions bound to a key ID. -/
def State.keyRegions (s : State) (k : Nat) : Nat := (s.maps.regions.filter (fun p => p.2.key == k)).length

/-- What KEY.QUERY answers of a key ID (Table 11-19). -/
def State.keyAnswer (s : State) (k : Nat) : W64 :=
  BitVec.ofNat 64 ((s.keyRec k).state + s.keyRegions k * 2 ^ 8
    + (s.maps.map.filter (fun p => s.pageKey p.1 == some k)).length % 2 ^ 32 * 2 ^ 32)

/-- KEY.QUERY of the key ID in A. -/
def keyQueryBody (e c : Nat) (s : State) (w : SWord) : State :=
  let k := ((s.ctx e c).reg w.a).toNat
  if 64 ≤ k then complete s e c Config.BAD_OPERAND 0 else completeD s e c w.d (s.keyAnswer k) Config.OK 0

/-- KEY_QUERY (R335). -/
def execKeyQuery (e c : Nat) (s : State) : Out := .next (synStep s e c (fun w => w.op == 0x52) (keyQueryBody e c))

/-! ## H.REKEY (R432) -/

/-- A channel without a re-key frame (Table 14-2). -/
def noRfx : Nat := 0x1FFFFFF

/-- A context starts the re-key of a region, or joins the one that runs to the same key. -/
def startRekey (s : State) (e c idx new : Nat) : State :=
  let wait := fun (t : State) => suspend t e c (.rekey idx)
  match s.openRegion idx with
  | none => complete s e c Config.BAD_OPERAND 0
  | some r =>
    if 64 ≤ new ∨ (s.keyRec new).state = 0 ∨ new = r.key then complete s e c Config.BAD_OPERAND 0
    else if (s.keyRec new).state = 2 then complete s e c Config.KEY_FATAL 0
    else
      match s.keys.rekey with
      | some k => if k.region = idx ∧ k.new = new then wait s else complete s e c Config.BUSY 0
      | none =>
        let k : Rekey := ⟨idx, r.key, new, r.base, r.base, 0, List.replicate 16 noRfx⟩
        wait (putKey { s with keys := { s.keys with rekey := some k } } r.key (s.keyRec r.key))

/-- H.REKEY of the region in g0 to the key ID in g1; NOT_READY in Lamb service (R328, R432). -/
def execHRekey (e c : Nat) (s : State) : Out :=
  .next (houseStepOf s e c 7 (fun s _ =>
    let x := s.ctx e c
    if !s.fullService then complete s e c Config.NOT_READY 0
    else startRekey s e c (x.reg 0).toNat (x.reg 1).toNat))

/-! ## Batches (R433) -/

/-- The open-frame use of a region's page layout. -/
def layoutUse (r : Region) : Nat :=
  if r.mono then 10
  else if r.density = 0 then (if r.integ then 3 else 2)
  else (if r.integ then 5 else 4)

/-- Whether a page of the batch is rewritten: it has no current copy, or its copy lies in the re-key frame of its channel. -/
def State.batchDone (s : State) (k : Rekey) (page : Nat) : Bool :=
  !s.changing page && (!mapped (s.mapEntry page) || fxOf (s.mapEntry page) == k.rfx.getD (s.home page) noRfx)

/-- Mapped pages of a range of host addresses, ascending. -/
def State.mappedIn (s : State) (lo hi : Nat) : List Nat :=
  (s.maps.map.filter (fun p => mapped p.2 && decide (lo ≤ p.1 * 4096) && decide (p.1 * 4096 < hi))).map (·.1)

/-- Pages of a list, up to the first whose channel would hold more than a frame takes (log 24). -/
def State.fitting (s : State) (cap : Nat) : List Nat → List Nat → List Nat
  | _, [] => []
  | cnt, p :: rest =>
    let h := s.home p
    if cap ≤ cnt.getD h 0 then [] else p :: s.fitting cap (updAt cnt h (fun n => n + 1)) rest

/-- The re-key frame of a channel for some pages of a batch: its open frame where that has room and holds no copy of theirs,
else a cleared frame that opens; none where none stands. -/
def rekeyFrame (s : State) (ch u : Nat) (pages : List Nat) : Option (Nat × State) :=
  let cap := positions (useMode u) (useInteg u)
  let fresh := fun (t : State) => (openFrame t ch u).bind (fun t1 => (Tbl.find (t1.chan ch).opens u).map (fun fx => (fx, t1)))
  match Tbl.find (s.chan ch).opens u with
  | none => fresh s
  | some fx =>
    if (s.frame fx).next + pages.length ≤ cap ∧ pages.all (fun p => fxOf (s.mapEntry p) != fx) then some (fx, s)
    else fresh (releaseTags (closeFrame s ch u fx))

/-- Rewrite one page of a batch under the new key into the re-key frame, as a page rewrite (R433): the gather reads what it needs of the
medium, and a line whose MAC fails goes with POISON (R431). -/
def rekeyPage (found : List (Nat × Decoded)) (s : State) (k : Rekey) (r : Region) (page : Nat) : State :=
  let media := s.gathersMedia page
  if s.changing page || s.batchDone k page || (media && !s.mayRead (s.mapEntry page)) then s
  else
    let g := gatherPage (if media then houseRead (chargeRegion s page 1) (s.mapEntry page) else s) page found
    let t := g.macs.foldl poisonLine g.s
    match t.nextVersion page k.new, allocPos t (t.home page) (layoutUse r) with
    | some v, some (ppn, t1) =>
      let t2 := chargeRegion (issueVersion t1 k.new v) page 1
      (count t2 0x18 0x3F none 16).onMaps (fun m =>
        { m with
          moves := Tbl.put m.moves page
            ⟨.rekey, t.mapEntry page, ppn, g.snap, t2.newImage page v k.new r g.lines, 0, t.cache.bufOf page, g.thru, layoutUse r, []⟩ })
    | _, _ => s

/-- The old key's record commits with a batch (R433). -/
def commitWalk (s : State) (k : Rekey) : State := putKey { s with keys := { s.keys with rekey := some k } } k.old (s.keyRec k.old)

/-- The re-key frame of a page's channel takes pages no more (it has closed, or a power loss has made it FULL, R161): once every page of the
batch below this one is rewritten and the old frame holds none of the channel's pages above it, the record commits again with LO at this page
and a fresh frame for its channel, so that R434 still holds of every copy (DESIGN CHOICE, log 100). -/
def renewWalk (s : State) (k : Rekey) (r : Region) (page : Nat) : Option State :=
  let h := s.home page
  let mine := (s.mappedIn (page * 4096) k.hi).filter (fun p => s.home p == h)
  if mine.any (fun p => fxOf (s.mapEntry p) == k.rfx.getD h noRfx) then none
  else
    let u := layoutUse r
    (rekeyFrame s h u (mine.take (positions (useMode u) (useInteg u)))).map (fun q =>
      commitWalk q.2 { k with lo := page * 4096, rfx := k.rfx.set h q.1 })

/-- A page of the open batch goes into the re-key frame of its channel while that stands open, else the lowest page left has the frame renewed. -/
def rekeyNext (found : List (Nat × Decoded)) (r : Region) (lowest : Option Nat) (s : State) (page : Nat) : State :=
  let go := fun (t : State) => match t.keys.rekey with
    | some k =>
      if Tbl.find (t.chan (t.home page)).opens (layoutUse r) == some (k.rfx.getD (t.home page) noRfx) then rekeyPage found t k r page else t
    | none => t
  match s.keys.rekey with
  | none => s
  | some k =>
    if !s.changing page && lowest == some page
        && Tbl.find (s.chan (s.home page)).opens (layoutUse r) != some (k.rfx.getD (s.home page) noRfx) then
      match renewWalk s k r page with
      | some t => go t
      | none => s
    else go s

/-- The next batch opens: the old key's record commits its bounds and its frames, then its pages are rewritten. -/
def openBatch (found : List (Nat × Decoded)) (s : State) (k : Rekey) (r : Region) : State :=
  let stop := min (k.hi + 256 * 4096) (r.base + r.size)
  let cand := s.mappedIn k.hi stop
  let u := layoutUse r
  let take := s.fitting (positions (useMode u) (useInteg u)) (List.replicate 16 0) cand
  let hi := match cand.drop take.length with
    | [] => stop
    | p :: _ => p * 4096
  let step := fun (acc : Option (State × List Nat)) (ch : Nat) =>
    match acc with
    | none => none
    | some (t, rfx) =>
      let mine := take.filter (fun p => s.home p == ch)
      if mine.isEmpty then some (t, rfx)
      else (rekeyFrame t ch u mine).map (fun q => (q.2, rfx.set ch q.1))
  if cand.any s.changing then s
  else
    match (List.range s.chanCount).foldl step (some (s, List.replicate 16 noRfx)) with
    | none => s
    | some (t, rfx) =>
      let k1 := { k with lo := k.hi, hi := hi, rfx := rfx }
      take.foldl (rekeyNext found r none) (commitWalk t k1)

/-- REKEY_BATCH: pages of the open batch that are not rewritten yet go on; with all of them sealed the next batch opens. -/
def rekeyBatch (s : State) (found : List (Nat × Decoded)) : State :=
  match s.keys.rekey with
  | none => s
  | some k =>
    match s.region k.region with
    | none => s
    | some r =>
      if !s.live || !s.fullService || !s.pipesLeft then s
      else
        let left := (s.mappedIn k.lo k.hi).filter (fun p => !s.batchDone k p)
        if !left.isEmpty then left.foldl (rekeyNext found r left.head?) s
        else if k.hi < r.base + r.size then openBatch found s k r
        else s

/-- REKEY_BATCH (R433). -/
def execRekeyBatch (found : List (Nat × Decoded)) (s : State) : Out := .next (rekeyBatch s found)

/-! ## The end of a re-key (R435) -/

/-- The next region bound to a key ID that H.KEY_ROLL takes. -/
def State.nextBound (s : State) (k : Nat) : Option Nat :=
  (s.maps.regions.find? (fun p => p.2.key == k && !p.2.closing)).map (·.1)

/-- A context whose re-key has ended: H.KEY_ROLL goes on with the next region of its key, any other completes. -/
def rekeyEnded (s : State) (e c st : Nat) : State :=
  let x := s.ctx e c
  if x.house = 6 ∧ st = Config.OK then
    match s.nextBound (x.reg 0).toNat with
    | some i => startRekey s e c i x.lastArg
    | none => complete s e c st 0
  else complete s e c st 0

/-- The re-key is over with a code. -/
def closeRekey (s : State) (idx st : Nat) : State :=
  (s.waiters (fun w => w == .rekey idx)).foldl (fun t k => rekeyEnded t (k / 32) (k % 32) st)
    { s with keys := { s.keys with rekey := none } }

/-- The old key's record commits with RACTIVE cleared (R435). -/
def endWalk (s : State) (k : Rekey) : State := putKey { s with keys := { s.keys with rekey := none } } k.old (s.keyRec k.old)

/-- HS0 commits a region's new KEYID through the journal (R435, Table 5-8): its record stands at the next place of the ring, with ACT 1; none
where the ring has none. -/
def commitKeyId (s : State) (idx : Nat) (n : Region) : Option State :=
  (takePlace s).map (fun x =>
    let r : JRec := ⟨x.2.maps.jseq, [], some (idx, some n), 1, x.1⟩
    putJournal (x.2.onMaps (fun m =>
      { m with regions := Tbl.put m.regions idx n, jseq := m.jseq + 1, jframes := m.jframes + 1, jlog := m.jlog ++ [r] })) r true
      (some 0xFFFF))

/-- Whether a journal record is on its way to its seal: the next one waits for it (R156). -/
def State.journaling (s : State) : Bool := s.maps.jbody.isSome || s.maps.jready.isSome || s.maps.jseal.isSome

/-- REKEY_COMPLETE: the last batch is sealed; the region's new key commits through the journal, FLOOR of the old key rises, its
record commits without RACTIVE (R423, R435). Where the region has been dropped meanwhile, the re-key ends with
BAD_OPERAND (log 24). -/
def rekeyComplete (s : State) : State :=
  match s.keys.rekey with
  | none => s
  | some k =>
    if !s.live then s
    else
      match s.region k.region with
      | none => closeRekey (endWalk s k) k.region Config.BAD_OPERAND
      | some r =>
        let own := fun (p : Nat) => decide (r.base ≤ p * 4096) && decide (p * 4096 < r.base + r.size)
        if k.hi < r.base + r.size ∨ (s.mappedIn k.lo k.hi).any (fun p => !s.batchDone k p)
            ∨ s.maps.moves.any (fun p => own p.1) ∨ s.journaling then s
        else
          match commitKeyId (raiseFloor s k.old) k.region { r with key := k.new } with
          | none => s
          | some t => closeRekey (endWalk t k) k.region Config.OK

/-- REKEY_COMPLETE (R435). -/
def execRekeyComplete (s : State) : Out := .next (rekeyComplete s)

/-! ## H.SECURE_ERASE and H.KEY_ROLL (Table 10-10) -/

/-- H.SECURE_ERASE: MAP.TRIM of the region in g0, then KEY.RETIRE of its key. -/
def secureEraseStep (e c : Nat) (s : State) (step : Nat) : State :=
  let idx := ((s.ctx e c).reg 0).toNat
  match s.openRegion idx with
  | none => complete s e c Config.BAD_OPERAND 0
  | some r =>
    if !s.fullService then complete s e c Config.NOT_READY 0
    else if step = 0 then trimRange s e c r.base r.size false
    else
      let (t, st) := retireKey s r.key
      complete t e c st 0

/-- H_SECURE_ERASE (R349). -/
def execHSecureErase (e c : Nat) (s : State) : Out := .next (houseStepOf s e c 5 (secureEraseStep e c))

/-- H.KEY_ROLL: the image at g1 is loaded into the lowest EMPTY key ID, then every region bound to the key ID in g0 is
re-keyed onto it, in ascending region number (log 25). Where a re-key runs, it is refused as a whole (10_syned_programming_model): the
key is not loaded, or is EMPTY again. -/
def keyRollStep (e c : Nat) (s : State) (step : Nat) : State :=
  let x := s.ctx e c
  let old := (x.reg 0).toNat
  if step = 0 then
    match (List.range 64).find? (fun k => (s.keyRec k).state == 0) with
    | none => complete s e c Config.BAD_OPERAND 0
    | some k =>
      if !s.fullService then complete s e c Config.NOT_READY 0
      else if 64 ≤ old ∨ (s.keyRec old).state = 0 then complete s e c Config.BAD_OPERAND 0
      else if s.keys.rekey.isSome && (s.nextBound old).isSome then complete s e c Config.BUSY 0
      else
        let (t, st) := loadKey s x.queue k (x.reg 1)
        complete (t.updCtx e c (fun y => { y with lastArg := k })) e c st 0
  else
    match s.nextBound old with
    | some i =>
      if s.keys.rekey.isSome then complete (retireKey s x.lastArg).1 e c Config.BUSY 0
      else startRekey s e c i x.lastArg
    | none => complete s e c Config.OK 0

/-- H_KEY_ROLL (R313). -/
def execHKeyRoll (e c : Nat) (s : State) : Out := .next (houseStepOf s e c 6 (keyRollStep e c))

end Sys2Proof.Machine
end

