-- ==== Sys2Proof/Machine/Memory.lean ====
section
/-! DEFINITION. The memory transactions of the host, the decodes of media reads, fills, the read lane, the token buckets
and the recovery of map and die-directory words (02, 04, 06, 09, 12). -/

namespace Sys2Proof.Machine

open Sys2Proof

/-- RD64 (R55). -/
def execRd64 (port session tag addr : Nat) (dram : Dram) (s : State) : Out :=
  .next (hostRequest s port session tag addr .rd64 dram)

/-- RD256 (R32). -/
def execRd256 (port session tag addr : Nat) (dram : Dram) (s : State) : Out :=
  .next (hostRequest s port session tag addr .rd256 dram)

/-- WR64 (R64). -/
def execWr64 (port session tag addr : Nat) (d : HLine) (dram : Dram) (s : State) : Out :=
  .next (hostRequest s port session tag addr (.wr64 d) dram)

/-- WR256 (R31). -/
def execWr256 (port session tag addr : Nat) (d : Line) (dram : Dram) (s : State) : Out :=
  .next (hostRequest s port session tag addr (.wr256 d) dram)

/-- WRP (R55). -/
def execWrp (port session tag addr : Nat) (mask : BitVec 64) (d : HLine) (dram : Dram) (s : State) : Out :=
  .next (hostRequest s port session tag addr (.wrp mask d) dram)

/-- ACC (R33). -/
def execAcc (port session tag addr : Nat) (d : HLine) (dram : Dram) (s : State) : Out :=
  .next (hostRequest s port session tag addr (.acc d) dram)

/-! ## Decodes (Table 6-2) -/

/-- A read ends on the medium: its outcome stands, its pin and its lane are released; where it interrupted an operation,
the lane stays held for the protected run; the array of its die goes on (R172, R173, R185). -/
def endRead (s : State) (line st : Nat) (d : Line) : State :=
  match Tbl.find s.cache.fills line with
  | none => s
  | some f =>
    let s1 := unpin s f.ppn
    let s2 := s1.onCache (fun c =>
      { c with fills := Tbl.upd c.fills line (fun f => { f with res := some st, data := d }) })
    pumpAt (s2.updChan (s.home (line / 16)) (fun c =>
      if f.lane then
        { c with
          laneBus := false
          laneLine := if c.laneLine = some line then none else c.laneLine
          laneRun := if c.laneLine = some line then f.interrupted else c.laneRun }
      else c)) f.ppn

/-- A decode of a fill succeeds (R201, R202, R206, R431). -/
def fillDecoded (s : State) (line : Nat) (f : Fill) (bits reread : Nat) : State :=
  match s.plainAt line f.ppn with
  | none => s
  | some (d, poison) =>
    endRead (noteDecode s line f.ppn bits reread) line (if poison then Config.POISON else Config.OK) d

/-- Whether a fill reads its page's tag slot with its data slot (R181). -/
def State.tagged (s : State) (f : Fill) : Bool := ((Tbl.find s.medium.pages f.ppn).map (·.integ)).getD false

/-- A MAC fails in an integrity region (R431); no other page is checked for one. -/
def fillMac (s : State) (line : Nat) (f : Fill) : State :=
  if s.tagged f then
    let s1 := record s (Config.evClass 14 2) ((line / 16) % 2 ^ 32)
    let s2 := { s1 with keys := { s1.keys with macfails := (s1.keys.macfails + 1) % 2 ^ 32 } }
    endRead s2 line Config.INTEGRITY 0
  else s

/-- AUTO data were not ready: counted; the device issues the read again without AUTO (R394). -/
def autoErr (s : State) (line : Nat) : State :=
  let ch := s.home (line / 16)
  let t := s.onCache (fun c => { c with fills := Tbl.upd c.fills line (fun f => { f with auto := false }) })
  record (t.updChan ch (fun c => { c with autoerr := (c.autoerr + 1) % 2 ^ 16 })) (Config.evClass 13 1) ch

/-- Whether the re-reads of a fill are issued before its full decode has failed (R182): a lane read, a slot with the deadline of an
admitted stream fetch's first slot. -/
def Fill.eager (f : Fill) : Bool := f.lane || f.first

/-- The rest of a re-read sequence is cancelled by SUSPEND KIND 1, which aborts the pending re-read (R182, R398). -/
def cancelReRead (s : State) (line : Nat) : State :=
  let ch := s.home (line / 16)
  count (s.updChan ch (fun c => { c with suspends := (c.suspends + 1) % 2 ^ 32, aborts := (c.aborts + 1) % 2 ^ 32 }))
    0x0B ch none 1

/-- Threshold offsets of re-read 2, level by level, from the shifts that re-read 1 measured in the reference cells and read with: one step
further in the direction of the shift (R97, R182, R396). -/
def reReadOffsets (shifts : List Int) : List Int :=
  shifts.map (fun x => if x = 0 then 0 else if 0 < x then x + 1 else x - 1)

/-- One RREAD re-read of a fill starts: its slot's transfer stands at the bus again (R182, R396). -/
def startReRead (s : State) (line : Nat) (f : Fill) (n : Nat) : State :=
  let t := s.onCache (fun c => { c with fills := Tbl.upd c.fills line (fun f =>
    { f with stage := n, spec := f.eager, offsets := if n = 2 then reReadOffsets f.offsets else f.offsets }) })
  count (arbFill t line f) 0x0C (s.home (line / 16)) none 1

/-- The slot of a fill decodes for the first time (R182): a failed T-mode slot is re-read, a failed S-mode slot is
uncorrectable. Where the RREAD was issued speculatively and the slot decodes, the sequence is cancelled. In an integrity region the tag
slot decodes beside it, and a tag slot that fails is a read that failed (R181). -/
def mediaReadDecoded (s : State) (line : Nat) (r : Decoded) : State :=
  match Tbl.find s.cache.fills line with
  | none => s
  | some f =>
    if !s.live || !f.issued || f.res.isSome || f.stage != 0 then s
    else
      let tMode := (s.frame (fxOf f.ppn)).mode == 2
      let failed := if tMode then startReRead s line f 1
        else endRead (poisonLine s line) line Config.UNCORRECTABLE 0
      match (if s.readable line f.ppn then r else .uncorrectable) with
      | .ok bits =>
        if 16 < bits then s
        else if tMode && f.eager && bits != 0 then
          fillDecoded (cancelReRead (count s 0x0C (s.home (line / 16)) none 1) line) line f bits 0
        else fillDecoded s line f bits 0
      | .macFail => fillMac s line f
      | .autoErr => if f.auto then autoErr s line else s
      | .tagSlot => if s.tagged f then failed else s
      | .uncorrectable => failed

/-- MEDIA_READ_DECODED (R182). -/
def execMediaReadDecoded (line : Nat) (r : Decoded) (s : State) : Out := .next (mediaReadDecoded s line r)

/-- A reference re-read decodes (R182): two at most, then the line is uncorrectable. A decode of re-read 1 cancels re-read 2; between the
transfers of the two the bus is reserved for a lane read (R183). -/
def reReadDone (s : State) (line : Nat) (r : Decoded) (shifts : List Int) : State :=
  match Tbl.find s.cache.fills line with
  | none => s
  | some f =>
    if !s.live || !f.issued || f.res.isSome || f.stage == 0 then s
    else
      let ch := s.home (line / 16)
      let s := s.onCache (fun c => { c with fills := Tbl.upd c.fills line (fun f =>
        if f.stage = 1 then { f with offsets := shifts } else f) })
      let failed := if f.stage = 1 then
          startReRead (s.updChan ch (fun c =>
            { c with rrCount := (c.rrCount + 1) % 2 ^ 16, laneBus := c.laneBus || f.lane })) line f 2
        else endRead (poisonLine s line) line Config.UNCORRECTABLE 0
      match (if s.readable line f.ppn then r else .uncorrectable) with
      | .ok bits =>
        if 16 < bits then s else fillDecoded (if f.stage = 1 then cancelReRead s line else s) line f bits f.stage
      | .macFail => fillMac s line f
      | .autoErr => if f.auto then autoErr s line else s
      | .tagSlot => if s.tagged f then failed else s
      | .uncorrectable => failed

/-- RE_READ_DONE (R182). -/
def execReReadDone (line : Nat) (r : Decoded) (shifts : List Int) (s : State) : Out := .next (reReadDone s line r shifts)

/-! ## Fill completion -/

/-- FILL_COMPLETE: the requests of a fill whose outcome stands are served (R126). -/
def fillComplete (s : State) (line : Nat) : State :=
  if s.live && ((Tbl.find s.cache.fills line).map (fun f => f.res.isSome)).getD false then settle (fillFinish s line) else s

/-- FILL_COMPLETE (R126). -/
def execFillComplete (line : Nat) (s : State) : Out := .next (fillComplete s line)

/-- LANE_PROTECTED_RUN_END: the interrupted operation has run 800 ns, the lane is free (R172). -/
def execLaneProtectedRunEnd (ch : Nat) (s : State) : Out :=
  .next (s.updChan ch (fun c => { c with laneRun := false }))

/-- WBB_ENTRY_FREED: requests that wait for room are looked up again (R120). -/
def execWbbEntryFreed (s : State) : Out :=
  .next (if s.live && decide (s.cache.wbb.length < Config.wbbLines) then settle s else s)

/-! ## Token buckets (R262 to R264) -/

/-- One bucket after one period of refill: a rate and depth that LBL.SET has given apply, the tokens clipped to the depth; then
rate B/us × 6.4 ns in 1/1,024 byte, never past the depth (R264). -/
def Bucket.refill (b : Bucket) : Bucket :=
  let (rate, depth) := b.next.getD (b.rate, b.depth)
  { rate := rate, depth := depth, tokens := min (1024 * depth) (min (1024 * depth) b.tokens + rate * 4096 / 625) }

/-- Held requests of one label pass in arrival order as tokens accrue (R262), and none ahead of one of its session that it overlaps
(R57). -/
def releaseHeld (s : State) : State :=
  let go := fun (acc : State × List Req) (r : Req) =>
    if acc.2.any r.behind then (acc.1, acc.2 ++ [r])
    else
      match takeTokens acc.1 r.master r.label r.charge with
      | none => (acc.1, acc.2 ++ [r])
      | some t =>
        let t1 := sample t 6 (t.ageNs r)
        let t2 := match r.who with
          | .eng e c => t1.updCtx e c (fun x => if x.state = 4 then { x with state := 3 } else x)
          | _ => t1
        (enterTable t2 r, acc.2)
  let (t, rest) := s.regul.held.foldl go ({ s with regul := { s.regul with held := [] } }, [])
  { t with regul := { t.regul with held := rest } }

/-- A period in which a running stream's port has no VC2 credit or is not active is excluded from its time (R189). -/
def State.excludes (s : State) (x : Strm) : Bool :=
  x.state == 2 && ((s.port x.port).state != 2 || (s.port x.port).credit.getD 2 0 == 0)

/-- A 6.4 ns period passes: the buckets refill and held requests go on (R264); periods that R189 excludes are counted; a die whose
operation has run its 800 ns takes the read that waits for it (R173). -/
def tokenRefill (s : State) : State :=
  let s1 := { s with
    regul := { s.regul with
      refTicks := s.regul.refTicks + 1, buckets := s.regul.buckets.map (fun p => (p.1, p.2.refill)) }
    eng := { s.eng with
      streams := s.eng.streams.map (fun p =>
        if s.excludes p.2 then (p.1, { p.2 with excluded := p.2.excluded + 1 }) else p) } }
  if s1.live then pumpDies (releaseHeld s1) else s1

/-- TOKEN_REFILL (R264). -/
def execTokenRefill (s : State) : Out := .next (tokenRefill s)

/-! ## Recovery of words in device DRAM -/

/-- DIE_DIRECTORY_REBUILD: the 64-bit word that holds an index is rebuilt from the frame records of its 21 indexes (DEDUCED from 3 bits
for each index, log 80); reads that wait for it go on (R175, R176). -/
def dieDirectoryRebuild (s : State) (fx : Nat) : State :=
  let w := fx / Config.dieWordFrames
  if s.live && s.medium.dieBad.contains w then
    settle (record (s.onMedium (fun m => { m with dieBad := m.dieBad.filter (fun x => x != w) }))
      (Config.evClass 6 0) (s.chanOfFx fx))
  else s

/-- DIE_DIRECTORY_REBUILD (R176). -/
def execDieDirectoryRebuild (fx : Nat) (s : State) : Out := .next (dieDirectoryRebuild s fx)

/-- MAP_ENTRY_RECOVERY: the entry is recovered from the checkpoint and the journal, or the page is poisoned and its reads
wait for that change (R52, R179). -/
def mapEntryRecovery (s : State) (page : Nat) (found : Bool) : State :=
  if s.live && s.maps.mapBad.contains page then
    if found then settle (s.onMaps (fun m => { m with mapBad := m.mapBad.filter (fun x => x != page) }))
    else if s.maps.waitMoves.contains (page, .poison)
        || (match Tbl.find s.maps.moves page with
            | some m => m.kind == .poison
            | none => false) then s
    else poisonPage s page
  else s

/-- MAP_ENTRY_RECOVERY (R179). -/
def execMapEntryRecovery (page : Nat) (found : Bool) (s : State) : Out := .next (mapEntryRecovery s page found)

end Sys2Proof.Machine
end

