-- ==== Sys2Proof/Machine/Register.lean ====
section
/-! DEFINITION. The register instructions SET to CMP (Table 11-6). -/

namespace Sys2Proof.Machine

open Sys2Proof

/-- An instruction that writes D with a result and sets the flags. -/
def aluBody (e c : Nat) (f : W64 → W64 → W64 × Flg) (s : State) (w : SWord) : State :=
  let r := f ((s.ctx e c).reg w.a) (s.opX e c w)
  completeD (s.updCtx e c (fun x => x.withFlags r.2)) e c w.d r.1 Config.OK 0

/-- SET: D takes X when IMM = 1, otherwise A; the flags stay. -/
def setBody (e c : Nat) (s : State) (w : SWord) : State :=
  completeD s e c w.d (if w.imm then s.opX e c w else (s.ctx e c).reg w.a) Config.OK 0

/-- SET (Table 11-6). -/
def execSet (e c : Nat) (s : State) : Out := .next (synStep s e c (fun w => w.op == 0x10) (setBody e c))

/-- ADD: D takes A + X modulo 2^64; Z, N, and C the carry out (Table 11-6). -/
def execAdd (e c : Nat) (s : State) : Out :=
  .next (synStep s e c (fun w => w.op == 0x11) (aluBody e c (fun a x => (a + x, flagsRes (a + x) (carryAdd a x)))))

/-- AND: D takes A AND X; Z, N; C 0 (Table 11-6). -/
def execAnd (e c : Nat) (s : State) : Out :=
  .next (synStep s e c (fun w => w.op == 0x12) (aluBody e c (fun a x => (a &&& x, flagsRes (a &&& x) false))))

/-- OR: D takes A OR X; Z, N; C 0 (Table 11-6). -/
def execOr (e c : Nat) (s : State) : Out :=
  .next (synStep s e c (fun w => w.op == 0x13) (aluBody e c (fun a x => (a ||| x, flagsRes (a ||| x) false))))

/-- XOR: D takes A XOR X; Z, N; C 0 (Table 11-6). -/
def execXor (e c : Nat) (s : State) : Out :=
  .next (synStep s e c (fun w => w.op == 0x14) (aluBody e c (fun a x => (a ^^^ x, flagsRes (a ^^^ x) false))))

/-- SHF: shift or rotate A by the count; Z, N; C the last bit shifted out. -/
def shfBody (e c : Nat) (s : State) (w : SWord) : State :=
  let x := s.ctx e c
  let k := if w.imm then w.fld 5 0 else (x.reg w.b).toNat % 64
  let r := shfRes (w.fld 9 8) (x.reg w.a) k
  completeD (s.updCtx e c (fun x => x.withFlags (flagsRes r.1 r.2))) e c w.d r.1 Config.OK 0

/-- SHF (Table 11-6). -/
def execShf (e c : Nat) (s : State) : Out := .next (synStep s e c (fun w => w.op == 0x15) (shfBody e c))

/-- CMP: Z where A = X, N where A < X signed, C where A < X unsigned; no register is written. -/
def cmpBody (e c : Nat) (s : State) (w : SWord) : State :=
  complete (s.updCtx e c (fun x => x.withFlags (flagsCmp (x.reg w.a) (s.opX e c w)))) e c Config.OK 0

/-- CMP (Table 11-6). -/
def execCmp (e c : Nat) (s : State) : Out := .next (synStep s e c (fun w => w.op == 0x16) (cmpBody e c))

end Sys2Proof.Machine
end

