-- ==== Sys2Proof/Machine/Dispatch.lean ====
section
/-! DEFINITION. The meaning of each command, arm by arm: the effect on everything but the queue. -/

namespace Sys2Proof.Machine

open Sys2Proof

/-- The effect of a command (spec/opcode_table.json). -/
def exec (i : Instr) (s : State) : Host.Outcome State Fault Refusal :=
  match i with
  | .rd64 port session tag addr dram => Sys2Proof.Machine.execRd64 port session tag addr dram s
  | .rd256 port session tag addr dram => Sys2Proof.Machine.execRd256 port session tag addr dram s
  | .wr64 port session tag addr d dram => Sys2Proof.Machine.execWr64 port session tag addr d dram s
  | .wr256 port session tag addr d dram => Sys2Proof.Machine.execWr256 port session tag addr d dram s
  | .wrp port session tag addr mask d dram => Sys2Proof.Machine.execWrp port session tag addr mask d dram s
  | .acc port session tag addr d dram => Sys2Proof.Machine.execAcc port session tag addr d dram s
  | .mgtRead port session tag buffer addr words => Sys2Proof.Machine.execMgtRead port session tag buffer addr words s
  | .mgtWrite port session tag buffer addr ws => Sys2Proof.Machine.execMgtWrite port session tag buffer addr ws s
  | .mgtOpen port session tag target admin => Sys2Proof.Machine.execMgtOpen port session tag target admin s
  | .mgtClose port session tag target => Sys2Proof.Machine.execMgtClose port session tag target s
  | .protocolError port => Sys2Proof.Machine.execProtocolError port s
  | .badFlit port why => Sys2Proof.Machine.execBadFlit port why s
  | .credit port vc n => Sys2Proof.Machine.execCredit port vc n s
  | .nak port expSeq => Sys2Proof.Machine.execNak port expSeq s
  | .linkInit port keep vc2 vc3 ack => Sys2Proof.Machine.execLinkInit port keep vc2 vc3 ack s
  | .trainDetected port => Sys2Proof.Machine.execTrainDetected port s
  | .downReceived port reason => Sys2Proof.Machine.execDownReceived port reason s
  | .nakRepeat port => Sys2Proof.Machine.execNakRepeat port s
  | .replayTimeout port => Sys2Proof.Machine.execReplayTimeout port s
  | .creditReturnTimer port vc => Sys2Proof.Machine.execCreditReturnTimer port vc s
  | .skipSend port => Sys2Proof.Machine.execSkipSend port s
  | .keepWindowExpiry port => Sys2Proof.Machine.execKeepWindowExpiry port s
  | .trainingPhaseDone port => Sys2Proof.Machine.execTrainingPhaseDone port s
  | .trainingPhaseTimeout port => Sys2Proof.Machine.execTrainingPhaseTimeout port s
  | .trainRetry port => Sys2Proof.Machine.execTrainRetry port s
  | .tokenRefill => Sys2Proof.Machine.execTokenRefill s
  | .ntfSend port session => Sys2Proof.Machine.execNtfSend port session s
  | .taskRun e c q d => Sys2Proof.Machine.execTaskRun e c q d s
  | .hcall e c q d => Sys2Proof.Machine.execHcall e c q d s
  | .qopen e c q d => Sys2Proof.Machine.execQopen e c q d s
  | .qclose e c q d => Sys2Proof.Machine.execQclose e c q d s
  | .pload e c q d => Sys2Proof.Machine.execPload e c q d s
  | .completionWrite e c => Sys2Proof.Machine.execCompletionWrite e c s
  | .step e c => Sys2Proof.Machine.execStep e c s
  | .jmp e c => Sys2Proof.Machine.execJmp e c s
  | .br e c => Sys2Proof.Machine.execBr e c s
  | .loop e c => Sys2Proof.Machine.execLoop e c s
  | .waitTimer e c => Sys2Proof.Machine.execWaitTimer e c s
  | .waitNotify e c => Sys2Proof.Machine.execWaitNotify e c s
  | .call e c => Sys2Proof.Machine.execCall e c s
  | .callHouse e c => Sys2Proof.Machine.execCallHouse e c s
  | .ret e c => Sys2Proof.Machine.execRet e c s
  | .endTask e c => Sys2Proof.Machine.execEndTask e c s
  | .yield e c => Sys2Proof.Machine.execYield e c s
  | .set e c => Sys2Proof.Machine.execSet e c s
  | .add e c => Sys2Proof.Machine.execAdd e c s
  | .and e c => Sys2Proof.Machine.execAnd e c s
  | .or e c => Sys2Proof.Machine.execOr e c s
  | .xor e c => Sys2Proof.Machine.execXor e c s
  | .shf e c => Sys2Proof.Machine.execShf e c s
  | .cmp e c => Sys2Proof.Machine.execCmp e c s
  | .ld e c dram => Sys2Proof.Machine.execLd e c dram s
  | .st e c dram => Sys2Proof.Machine.execSt e c dram s
  | .move e c dram => Sys2Proof.Machine.execMove e c dram s
  | .copy e c dram => Sys2Proof.Machine.execCopy e c dram s
  | .fill e c dram => Sys2Proof.Machine.execFill e c dram s
  | .fence e c => Sys2Proof.Machine.execFence e c s
  | .postedUnitDone e c dram => Sys2Proof.Machine.execPostedUnitDone e c dram s
  | .strmDef e c => Sys2Proof.Machine.execStrmDef e c s
  | .strmGo e c => Sys2Proof.Machine.execStrmGo e c s
  | .strmStop e c => Sys2Proof.Machine.execStrmStop e c s
  | .strmStopDrop e c => Sys2Proof.Machine.execStrmStopDrop e c s
  | .strmStat e c => Sys2Proof.Machine.execStrmStat e c s
  | .rgnDef e c => Sys2Proof.Machine.execRgnDef e c s
  | .rgnAttr e c => Sys2Proof.Machine.execRgnAttr e c s
  | .rgnDrop e c => Sys2Proof.Machine.execRgnDrop e c s
  | .rgnDropDrainEnd region => Sys2Proof.Machine.execRgnDropDrainEnd region s
  | .mapTrim e c => Sys2Proof.Machine.execMapTrim e c s
  | .mapTrimPoison e c => Sys2Proof.Machine.execMapTrimPoison e c s
  | .mapQuery e c => Sys2Proof.Machine.execMapQuery e c s
  | .ckpt e c => Sys2Proof.Machine.execCkpt e c s
  | .cacheOn e c => Sys2Proof.Machine.execCacheOn e c s
  | .cacheOnForce e c => Sys2Proof.Machine.execCacheOnForce e c s
  | .cacheOff e c => Sys2Proof.Machine.execCacheOff e c s
  | .cacheOffForce e c => Sys2Proof.Machine.execCacheOffForce e c s
  | .cacheWays e c => Sys2Proof.Machine.execCacheWays e c s
  | .cacheFlush e c => Sys2Proof.Machine.execCacheFlush e c s
  | .cacheClean e c => Sys2Proof.Machine.execCacheClean e c s
  | .cacheInval e c => Sys2Proof.Machine.execCacheInval e c s
  | .cacheZero e c dram => Sys2Proof.Machine.execCacheZero e c dram s
  | .scrubRange e c found badHeaders shifts us => Sys2Proof.Machine.execScrubRange e c found badHeaders shifts us s
  | .scrubRate e c => Sys2Proof.Machine.execScrubRate e c s
  | .mediaRawrd e c => Sys2Proof.Machine.execMediaRawrd e c s
  | .mediaRawwr e c => Sys2Proof.Machine.execMediaRawwr e c s
  | .mediaRetire e c => Sys2Proof.Machine.execMediaRetire e c s
  | .calRun e c => Sys2Proof.Machine.execCalRun e c s
  | .lblSet e c => Sys2Proof.Machine.execLblSet e c s
  | .lblSetLimit e c => Sys2Proof.Machine.execLblSetLimit e c s
  | .ledgAdmit e c => Sys2Proof.Machine.execLedgAdmit e c s
  | .ledgDrop e c => Sys2Proof.Machine.execLedgDrop e c s
  | .ledgQuery e c => Sys2Proof.Machine.execLedgQuery e c s
  | .slotLoad e c => Sys2Proof.Machine.execSlotLoad e c s
  | .slotSwap e c => Sys2Proof.Machine.execSlotSwap e c s
  | .arbCfg e c => Sys2Proof.Machine.execArbCfg e c s
  | .arbRead e c => Sys2Proof.Machine.execArbRead e c s
  | .keyLoad e c => Sys2Proof.Machine.execKeyLoad e c s
  | .keyRetire e c => Sys2Proof.Machine.execKeyRetire e c s
  | .keyQuery e c => Sys2Proof.Machine.execKeyQuery e c s
  | .xtsEnc e c faults => Sys2Proof.Machine.execXtsEnc e c faults s
  | .xtsDec e c => Sys2Proof.Machine.execXtsDec e c s
  | .claim e c => Sys2Proof.Machine.execClaim e c s
  | .claimForce e c => Sys2Proof.Machine.execClaimForce e c s
  | .free e c => Sys2Proof.Machine.execFree e c s
  | .railCfg e c => Sys2Proof.Machine.execRailCfg e c s
  | .thermCfg e c => Sys2Proof.Machine.execThermCfg e c s
  | .evtRead e c => Sys2Proof.Machine.execEvtRead e c s
  | .evtReadSnap e c => Sys2Proof.Machine.execEvtReadSnap e c s
  | .perfCfg e c => Sys2Proof.Machine.execPerfCfg e c s
  | .perfDump e c => Sys2Proof.Machine.execPerfDump e c s
  | .nvPut e c => Sys2Proof.Machine.execNvPut e c s
  | .nvGet e c => Sys2Proof.Machine.execNvGet e c s
  | .resetKind0 e c => Sys2Proof.Machine.execResetKind0 e c s
  | .resetKind1 e c => Sys2Proof.Machine.execResetKind1 e c s
  | .resetKind2 e c => Sys2Proof.Machine.execResetKind2 e c s
  | .hInit e c => Sys2Proof.Machine.execHInit e c s
  | .hFormat e c => Sys2Proof.Machine.execHFormat e c s
  | .hFlushAll e c => Sys2Proof.Machine.execHFlushAll e c s
  | .hScrubRange e c found badHeaders shifts us => Sys2Proof.Machine.execHScrubRange e c found badHeaders shifts us s
  | .hSecureErase e c => Sys2Proof.Machine.execHSecureErase e c s
  | .hKeyRoll e c => Sys2Proof.Machine.execHKeyRoll e c s
  | .hRekey e c => Sys2Proof.Machine.execHRekey e c s
  | .hStreamLoop e c => Sys2Proof.Machine.execHStreamLoop e c s
  | .hRebuild e c => Sys2Proof.Machine.execHRebuild e c s
  | .qdTail port session tag q v => Sys2Proof.Machine.execQdTail port session tag q v s
  | .qdChead port session tag q v => Sys2Proof.Machine.execQdChead port session tag q v s
  | .idBootGo port session tag len => Sys2Proof.Machine.execIdBootGo port session tag len s
  | .idBootFuse port session tag => Sys2Proof.Machine.execIdBootFuse port session tag s
  | .perfCounterRead port session tag ctr => Sys2Proof.Machine.execPerfCounterRead port session tag ctr s
  | .csrWrite port session tag off v => Sys2Proof.Machine.execCsrWrite port session tag off v s
  | .smbStatus => Sys2Proof.Machine.execSmbStatus s
  | .smbTemps => Sys2Proof.Machine.execSmbTemps s
  | .smbAlertClr => Sys2Proof.Machine.execSmbAlertClr s
  | .smbRestart v => Sys2Proof.Machine.execSmbRestart v s
  | .smbAlertResponse => Sys2Proof.Machine.execSmbAlertResponse s
  | .pfailNFall => Sys2Proof.Machine.execPfailNFall s
  | .vinSnsLow mv => Sys2Proof.Machine.execVinSnsLow mv s
  | .resetNLow => Sys2Proof.Machine.execResetNLow s
  | .resetNRise => Sys2Proof.Machine.execResetNRise s
  | .strapWindowEnd samples => Sys2Proof.Machine.execStrapWindowEnd samples s
  | .vauxCollapse mv => Sys2Proof.Machine.execVauxCollapse mv s
  | .vauxRise mv => Sys2Proof.Machine.execVauxRise mv s
  | .powerUpStart mv => Sys2Proof.Machine.execPowerUpStart mv s
  | .powerUpStep => Sys2Proof.Machine.execPowerUpStep s
  | .railEnableTimeout rail => Sys2Proof.Machine.execRailEnableTimeout rail s
  | .railPgChange rail level chatter => Sys2Proof.Machine.execRailPgChange rail level chatter s
  | .railSenseSample mvs vin vaux => Sys2Proof.Machine.execRailSenseSample mvs vin vaux s
  | .railRetryExpiry rail => Sys2Proof.Machine.execRailRetryExpiry rail s
  | .railIncidentEnd rail => Sys2Proof.Machine.execRailIncidentEnd rail s
  | .flushStepDone faulted unread => Sys2Proof.Machine.execFlushStepDone faulted unread s
  | .flushComplete pfailN mv => Sys2Proof.Machine.execFlushComplete pfailN mv s
  | .flushRestartDelay pfailN mv => Sys2Proof.Machine.execFlushRestartDelay pfailN mv s
  | .resetFlushTimeout => Sys2Proof.Machine.execResetFlushTimeout s
  | .powerDown => Sys2Proof.Machine.execPowerDown s
  | .powerDownStep vauxOk records => Sys2Proof.Machine.execPowerDownStep vauxOk records s
  | .norWriteAbandon => Sys2Proof.Machine.execNorWriteAbandon s
  | .tempSample temps speeds => Sys2Proof.Machine.execTempSample temps speeds s
  | .orderlyStopDrainEnd => Sys2Proof.Machine.execOrderlyStopDrainEnd s
  | .thermalRestart => Sys2Proof.Machine.execThermalRestart s
  | .keepaliveMissing => Sys2Proof.Machine.execKeepaliveMissing s
  | .hsStepTimeout hs => Sys2Proof.Machine.execHsStepTimeout hs s
  | .flushStall => Sys2Proof.Machine.execFlushStall s
  | .jtagInstruction ir => Sys2Proof.Machine.execJtagInstruction ir s
  | .jtagTapReset => Sys2Proof.Machine.execJtagTapReset s
  | .startPhaseDone env => Sys2Proof.Machine.execStartPhaseDone env s
  | .rebuildStepDone lost ms => Sys2Proof.Machine.execRebuildStepDone lost ms s
  | .restoredLinesSealed badReserve => Sys2Proof.Machine.execRestoredLinesSealed badReserve s
  | .muleReport m fault dram => Sys2Proof.Machine.execMuleReport m fault dram s
  | .mediaReadDecoded line r => Sys2Proof.Machine.execMediaReadDecoded line r s
  | .reReadDone line r shifts => Sys2Proof.Machine.execReReadDone line r shifts s
  | .fillComplete line => Sys2Proof.Machine.execFillComplete line s
  | .laneProtectedRunEnd ch => Sys2Proof.Machine.execLaneProtectedRunEnd ch s
  | .dieAlert ch => Sys2Proof.Machine.execDieAlert ch s
  | .dieStatusRecord ch die record => Sys2Proof.Machine.execDieStatusRecord ch die record s
  | .wbbEntryFreed => Sys2Proof.Machine.execWbbEntryFreed s
  | .writeBackStart page found dramBad => Sys2Proof.Machine.execWriteBackStart page found dramBad s
  | .pageCopyProgrammed page pass => Sys2Proof.Machine.execPageCopyProgrammed page pass s
  | .journalRecordStart => Sys2Proof.Machine.execJournalRecordStart s
  | .journalBodyVerified pass => Sys2Proof.Machine.execJournalBodyVerified pass s
  | .sealVerified pass => Sys2Proof.Machine.execSealVerified pass s
  | .monotoneProgramDone page line step pass => Sys2Proof.Machine.execMonotoneProgramDone page line step pass s
  | .migrationStart page found => Sys2Proof.Machine.execMigrationStart page found s
  | .reclaimStart ch found => Sys2Proof.Machine.execReclaimStart ch found s
  | .frameClearStart ch => Sys2Proof.Machine.execFrameClearStart ch s
  | .clearDone ch pass parityBad => Sys2Proof.Machine.execClearDone ch pass parityBad s
  | .treeRebuilt ch parityBad badGroups badHeaders => Sys2Proof.Machine.execTreeRebuilt ch parityBad badGroups badHeaders s
  | .integrityFrameClose ch use => Sys2Proof.Machine.execIntegrityFrameClose ch use s
  | .frameRetire fx found => Sys2Proof.Machine.execFrameRetire fx found s
  | .ledgerRevalidate => Sys2Proof.Machine.execLedgerRevalidate s
  | .scrubPassStart ch => Sys2Proof.Machine.execScrubPassStart ch s
  | .relocationStart ch found => Sys2Proof.Machine.execRelocationStart ch found s
  | .patchFrameMove ch found => Sys2Proof.Machine.execPatchFrameMove ch found s
  | .patchRepairCheck ch r parityBad => Sys2Proof.Machine.execPatchRepairCheck ch r parityBad s
  | .operatingSecond found badHeaders shifts => Sys2Proof.Machine.execOperatingSecond found badHeaders shifts s
  | .stampTableAppend => Sys2Proof.Machine.execStampTableAppend s
  | .checkpointStart => Sys2Proof.Machine.execCheckpointStart s
  | .checkpointSealVerified => Sys2Proof.Machine.execCheckpointSealVerified s
  | .rekeyBatch found => Sys2Proof.Machine.execRekeyBatch found s
  | .rekeyComplete => Sys2Proof.Machine.execRekeyComplete s
  | .dieDirectoryRebuild fx => Sys2Proof.Machine.execDieDirectoryRebuild fx s
  | .mapEntryRecovery page found => Sys2Proof.Machine.execMapEntryRecovery page found s
  | .calibrationStart => Sys2Proof.Machine.execCalibrationStart s
  | .periodicCalibration => Sys2Proof.Machine.execPeriodicCalibration s
  | .calibrationDone isPort unit loaded => Sys2Proof.Machine.execCalibrationDone isPort unit loaded s
  | .streamFetchIssue n dram => Sys2Proof.Machine.execStreamFetchIssue n dram s
  | .streamFlitRelease n => Sys2Proof.Machine.execStreamFlitRelease n s
  | .slotEntryElapse ch => Sys2Proof.Machine.execSlotEntryElapse ch s
  | .arbitrationDecision arb => Sys2Proof.Machine.execArbitrationDecision arb s
  | .timerExpiry n => Sys2Proof.Machine.execTimerExpiry n s
  | .limitMsExpiry e c => Sys2Proof.Machine.execLimitMsExpiry e c s
  | .contextStallRecord e c => Sys2Proof.Machine.execContextStallRecord e c s
  | .creditWaitRecord port us => Sys2Proof.Machine.execCreditWaitRecord port us s
  | .periodicDump => Sys2Proof.Machine.execPeriodicDump s
  | .nvCompaction area => Sys2Proof.Machine.execNvCompaction area s
  | .trigPulseEnd ball => Sys2Proof.Machine.execTrigPulseEnd ball s
  | .smbNack cmd => Sys2Proof.Machine.execSmbNack cmd s
  | .ackAdvanced port ack corrected => Sys2Proof.Machine.execAckAdvanced port ack corrected s

end Sys2Proof.Machine
end

