-- ==== Sys2Proof/Safety.lean ====
section
/-! DEFINITION. The terms in which statements speak of a run: a step that goes on, a context that issues an instruction, a
request that reaches its lookup, a management transaction that arrives, and what the block keeps for good. -/

namespace Sys2Proof.Machine

open Sys2Proof

/-- A step that neither faults nor is refused. -/
def StepsOn (s : State) : Prop := ∃ t, step s = .next t

/-- The queue buffers are in canonical form. -/
def State.bufWf (s : State) : Bool := Buf.wf s.eng.buf

/-! ## A program's instruction -/

/-- Context c of engine e takes its next step at the word w of an opcode, and the word passes every check of R328 up to
those of its own operands: form, reserved fields, privilege, service, READ_ONLY. -/
def State.issues (s : State) (e c : Nat) (w : SWord) (op : Nat) : Bool :=
  s.canStep e c && (s.ctx e c).house == 0 && s.wordAt e c == w && w.op == op && w.formOk (s.ctx e c).pc && w.fieldsOk
    && (match opRow op with
        | none => false
        | some row => s.issueOk (s.ctx e c).queue row w && (s.fullService || row.lamb)
            && !(s.maps.readOnly && row.readOnly))

/-- The commands that take the next step of context c of engine e, one for each instruction a program may hold (Tables 11-4 to
11-20), at what the DRAM and a scrub pass find and what the cipher pipelines meet. -/
def programSteps (e c : Nat) (dram : Dram) (found : List (Nat × Decoded)) (hdrs : List Nat) (shifts : List (Nat × Nat)) (us : Nat)
    (faults : List Nat) : List Instr :=
  [.step e c, .jmp e c, .br e c, .loop e c, .waitTimer e c, .waitNotify e c, .call e c, .callHouse e c, .ret e c,
    .endTask e c, .yield e c, .set e c, .add e c, .and e c, .or e c, .xor e c, .shf e c, .cmp e c, .ld e c dram, .st e c dram,
    .move e c dram, .copy e c dram, .fill e c dram, .fence e c, .strmDef e c, .strmGo e c, .strmStop e c, .strmStopDrop e c,
    .strmStat e c, .rgnDef e c, .rgnAttr e c, .rgnDrop e c, .mapTrim e c, .mapTrimPoison e c, .mapQuery e c,
    .ckpt e c, .cacheOn e c, .cacheOnForce e c, .cacheOff e c, .cacheOffForce e c, .cacheWays e c, .cacheFlush e c,
    .cacheClean e c, .cacheInval e c, .cacheZero e c dram, .scrubRange e c found hdrs shifts us, .scrubRate e c, .mediaRawrd e c,
    .mediaRawwr e c, .mediaRetire e c, .calRun e c, .lblSet e c, .lblSetLimit e c, .ledgAdmit e c, .ledgDrop e c,
    .ledgQuery e c, .slotLoad e c, .slotSwap e c, .arbCfg e c, .arbRead e c, .keyLoad e c, .keyRetire e c,
    .keyQuery e c, .xtsEnc e c faults, .xtsDec e c, .claim e c, .claimForce e c, .free e c, .railCfg e c,
    .thermCfg e c, .resetKind0 e c, .resetKind1 e c, .resetKind2 e c, .evtRead e c, .evtReadSnap e c, .perfCfg e c,
    .perfDump e c, .nvPut e c, .nvGet e c]

/-- The state in which an issued instruction's own part runs: the performance counters that select it have counted it
(Table 17-7, event 0x12), and its engine has noted the step (R295). -/
def State.issued (s : State) (e c : Nat) : State := count (took s e c) 0x12 e none 1

/-- Context c of engine e takes the next step of house routine n (R313). -/
def State.inHouse (s : State) (e c n : Nat) : Bool := s.canStep e c && (s.ctx e c).house == n && n != 0

/-! ## A host request -/

/-- A message of session n of port p may be served: the port is active, the tag is not outstanding (R370, R372). -/
def State.hears (s : State) (p tag : Nat) : Bool :=
  decide (p < s.portCount) && (s.port p).up && !(s.port p).outTags.contains tag

/-- The host transaction of an operation; none for CACHE.ZERO, which no host sends (Table 12-6). -/
def hostCommand (p n tag addr : Nat) (dram : Dram) : MemOp → Option Instr
  | .rd64 => some (.rd64 p n tag addr dram)
  | .rd256 => some (.rd256 p n tag addr dram)
  | .wr64 d => some (.wr64 p n tag addr d dram)
  | .wr256 d => some (.wr256 p n tag addr d dram)
  | .wrp m d => some (.wrp p n tag addr m d dram)
  | .acc d => some (.acc p n tag addr d dram)
  | .zero => none

/-- A host memory request as it stands at its token bucket: the state after the link and the port's counters have taken it in,
and the request. -/
def State.arrived (s : State) (p n tag addr : Nat) (op : MemOp) (dram : Dram) : State × Req :=
  let s1 := (rxFlits s p op.flits).updPort p (fun x => { x with outTags := x.outTags ++ [tag] })
  let x := s.sess p n
  let r : Req := { who := .host p n tag, op := op, addr := addr, label := x.label, sesLabel := x.label, admin := x.admin,
                   at0 := s.regul.refTicks, dram := dram }
  let (s2, r2) := countReq s1 r 0x01 p 1
  (if op.isRead then s2 else count s2 0x02 p (some x.label) op.bytes, r2)

/-- The state in which a host request is looked up, and the request as it then stands: none where it is held at its bucket or for a
table entry, waits for the rebuild, fails a check before its lookup, or waits there behind an earlier request on its line (Table
1-7, R57, R112). -/
def State.atLookup (s : State) (r : Req) : Option (State × Req) :=
  if s.regul.held.any r.behind then none
  else
    match takeTokens s r.master r.label r.charge with
    | none => none
    | some t =>
      if !t.regul.portHeld.isEmpty || !t.entryFree then none
      else
        let l := laneTake (r.release t) r
        if !l.2.shapeOk || l.1.lambHold l.2 != 0 || l.1.checkReq l.2 != Config.OK then none
        else
          let u := dramReads (arbWant (checkSlotRead l.1 l.2) 0 l.2.crossbar) l.2
          let q := { l.2 with looked := true, rways := ((l.1.regionOfPage l.2.page).map (·.2.ways)).getD 0 }
          let v := (dramFinding u q).onCache (fun c => if c.on then c.useSet (c.setOf q.line) else c)
          if (q.dram == .tagBoth && !u.cache.setFits (u.cache.setOf q.line)) || v.lineHeld q.line then none
          else some (v, { q with dram := .ok })

/-! ## A management transaction -/

/-- The state in which a management transaction of a session acts: its flits are taken in and its tag is outstanding. -/
def State.mgtArrived (s : State) (p tag words : Nat) : State :=
  (freeCredit (rxFlits s p (ceilDiv (3 + words) 30)) p 3 (ceilDiv (3 + words) 30)).updPort p
    (fun x => { x with outTags := x.outTags ++ [tag] })

/-! ## What the block keeps -/

/-- The fuses that the owner key hash stands in (R481). -/
def State.okhFuses (s : State) : Bool × BitVec 384 := (s.boot.okhSet, s.boot.okh)

/-- What no CSR write changes (R25): regions, map, cache policy, keys, commitments, slot tables. -/
structure Setup where
  regions : Tbl Region
  map : Tbl Nat
  cacheOn : Bool
  wback : Bool
  active : Nat
  masks : List (BitVec 16)
  keys : Tbl KeyRec
  commits : Tbl Commit
  slots : List Slots
  deriving DecidableEq, Repr

/-- The configuration of R25. -/
def State.setup (s : State) : Setup :=
  { regions := s.maps.regions, map := s.maps.map, cacheOn := s.cache.on, wback := s.cache.wback, active := s.cache.active,
    masks := s.cache.masks, keys := s.keys.recs, commits := s.regul.commits, slots := s.regul.slots }

end Sys2Proof.Machine
end

