-- ==== Sys2Proof/Certificates/Slice0/Obligations.lean ====
section
/-! DEFINITION. The statements about the block, for the provers. -/

open Sys2Proof Sys2Proof.Machine

/-! ## The queue of commands -/

/-- A step takes the command at the front of the queue and answers what its meaning answers in the state with the rest of the
queue. -/
def Obligations.StepRunsFrontCommand : Prop :=
  ∀ (c : Instr) (s : State), step { s with pending := c :: s.pending } = exec c s

/-- With no command waiting the block idles: the state stays (the model's choice, log 3). -/
def Obligations.EmptyQueueIdles : Prop :=
  ∀ s : State, s.pending = [] → step s = .next s

/-! ## Register and flow instructions (11) -/

/-- Each register instruction, at an issued word of its opcode, writes D with the result of Table 11-6 on A and X, sets the flags
the table names and completes OK; CMP writes no register. -/
def Obligations.RegisterResults : Prop :=
  ∀ (s : State) (e c : Nat) (w : SWord),
    let t := s.issued e c
    let a := (t.ctx e c).reg w.a
    let x := t.opX e c w
    let alu := fun (d : W64) (f : Flg) =>
      (.next (completeD (t.updCtx e c (fun y => y.withFlags f)) e c w.d d Config.OK 0) : Out)
    let sh := shfRes (w.fld 9 8) a (if w.imm then w.fld 5 0 else ((t.ctx e c).reg w.b).toNat % 64)
    (s.issues e c w 0x10 = true → exec (.set e c) s = .next (completeD t e c w.d (if w.imm then x else a) Config.OK 0))
    ∧ (s.issues e c w 0x11 = true → exec (.add e c) s = alu (a + x) ⟨a + x == 0, (a + x).getLsbD 63, carryAdd a x⟩)
    ∧ (s.issues e c w 0x12 = true → exec (.and e c) s = alu (a &&& x) ⟨(a &&& x) == 0, (a &&& x).getLsbD 63, false⟩)
    ∧ (s.issues e c w 0x13 = true → exec (.or e c) s = alu (a ||| x) ⟨(a ||| x) == 0, (a ||| x).getLsbD 63, false⟩)
    ∧ (s.issues e c w 0x14 = true → exec (.xor e c) s = alu (a ^^^ x) ⟨(a ^^^ x) == 0, (a ^^^ x).getLsbD 63, false⟩)
    ∧ (s.issues e c w 0x15 = true → exec (.shf e c) s = alu sh.1 ⟨sh.1 == 0, sh.1.getLsbD 63, sh.2⟩)
    ∧ (s.issues e c w 0x16 = true → exec (.cmp e c) s
        = .next (complete (t.updCtx e c (fun y => y.withFlags ⟨a == x, a.slt x, a.ult x⟩)) e c Config.OK 0))

/-- Each flow instruction at an issued word of its opcode: STEP sets STATUS, JMP, taken BR, LOOP, CALL and RET go to their
target, CALL with HOUSE starts a routine that its queue may call, END ends the task with the STATUS of the last step, YIELD completes
and its context stands behind every other context of its engine in the rotation (R295). STEP of a code that Table 0-5 does not list, BR of
a reserved condition and CALL of a routine that Table 10-10 does not list complete with BAD_OPERAND, CALL of a routine that only an ADMIN
queue may call completes with DENIED for a TENANT queue. -/
def Obligations.FlowResults : Prop :=
  ∀ (s : State) (e c : Nat) (w : SWord),
    let t := s.issued e c
    let x := t.ctx e c
    let v := x.reg w.a - 1
    let cnt := t.updCtx e c (fun y => y.setReg w.a v)
    let r := complete t e c Config.OK 0
    let bad := (.next (complete t e c Config.BAD_OPERAND 0) : Out)
    (s.issues e c w 0x00 = true → w.fld 7 0 ≤ 0x12 → exec (.step e c) s = .next (complete t e c (w.fld 7 0) 0))
    ∧ (s.issues e c w 0x00 = true → 0x12 < w.fld 7 0 → exec (.step e c) s = bad)
    ∧ (s.issues e c w 0x01 = true → exec (.jmp e c) s = .next (jumpTo t e c (w.fld 12 0)))
    ∧ (s.issues e c w 0x02 = true → brTaken (w.fld 19 16) (flagsOf x.st) = some true →
        exec (.br e c) s = .next (jumpTo t e c (w.fld 12 0)))
    ∧ (s.issues e c w 0x02 = true → brTaken (w.fld 19 16) (flagsOf x.st) = some false → exec (.br e c) s = .next r)
    ∧ (s.issues e c w 0x02 = true → brTaken (w.fld 19 16) (flagsOf x.st) = none → exec (.br e c) s = bad)
    ∧ (s.issues e c w 0x03 = true → v ≠ 0 → exec (.loop e c) s = .next (jumpTo cnt e c (w.fld 12 0)))
    ∧ (s.issues e c w 0x03 = true → v = 0 → exec (.loop e c) s = .next (complete cnt e c Config.OK 0))
    ∧ (s.issues e c w 0x05 = true → w.bit 27 = false → x.stack.length < 8 → exec (.call e c) s
        = .next (jumpTo (t.updCtx e c (fun y => { y with stack := ((y.pc + 1) % 8192) :: y.stack })) e c (w.fld 12 0)))
    ∧ (s.issues e c w 0x05 = true → w.bit 27 = true →
        (t.queueAdmin x.queue = false → w.fld 7 0 ≠ 4 →
          exec (.callHouse e c) s = .next (complete t e c Config.DENIED 0))
        ∧ (t.queueAdmin x.queue = true → (w.fld 7 0 = 0 ∨ 9 < w.fld 7 0) → exec (.callHouse e c) s = bad)
        ∧ ((t.queueAdmin x.queue = true ∨ w.fld 7 0 = 4) → 1 ≤ w.fld 7 0 → w.fld 7 0 ≤ 9 →
          exec (.callHouse e c) s = .next (t.updCtx e c (fun y => { y with house := w.fld 7 0, houseStep := 0 }))))
    ∧ (∀ a rest, s.issues e c w 0x06 = true → x.stack = a :: rest →
        exec (.ret e c) s = .next (jumpTo (t.updCtx e c (fun y => { y with stack := rest })) e c a))
    ∧ (s.issues e c w 0x07 = true → exec (.endTask e c) s = .next (endTask t e c (statusOf x.st) false))
    ∧ (s.issues e c w 0x08 = true → exec (.yield e c) s = .next r ∧ ∀ d, d < 32 → d ≠ c → r.place e d < r.place e c)

/-- A wait on a timer claims and arms it; a wait for a notification takes the oldest latched record, or waits for one. A timer
that expires resumes the context that waits on it, a bounded wait for a notification with TIMEOUT; a run-time limit stops a READY task
with TIMEOUT, and is noted of a task in another state before it ends; a long stall is recorded; a
TRIG ball that no warning drives takes its idle level. -/
def Obligations.WaitsAndTimers : Prop :=
  ∀ (s : State) (e c n : Nat) (w : SWord),
    let t := s.issued e c
    let x := t.ctx e c
    let k := w.fld 10 8
    let off := { s with eng := { s.eng with timers := updAt s.eng.timers n (fun y => { y with armed := false }) } }
    let tm := s.eng.timers.getD n {}
    let due := s.live = true ∧ tm.armed = true ∧ tm.due ≤ s.regul.refTicks ∧ (s.ctx tm.e tm.c).state = 3
    let lim := s.live = true ∧ e < 16 ∧ c < 32 ∧ (s.ctx e c).limit ≠ 0 ∧ (s.ctx e c).expired = false
    (s.issues e c w 0x04 = true → w.bit 0 = false → durationOk (x.reg w.a) = true → t.claimOk x.queue (8 + k) = true →
      exec (.waitTimer e c) s
        = .next (suspend (armTimer (claimFor t x.queue (8 + k)) k (x.reg w.a).toNat e c) e c (.timer k)))
    ∧ (s.issues e c w 0x04 = true → w.bit 0 = true → w.bit 11 = false →
      exec (.waitNotify e c) s = .next (wakeNotify (suspend t e c (.notify none)) x.queue))
    ∧ (s.issues e c w 0x04 = true → w.bit 0 = true → w.bit 11 = true → durationOk (x.reg w.a) = true →
      t.claimOk x.queue (8 + k) = true → exec (.waitNotify e c) s
        = .next (wakeNotify (suspend (armTimer (claimFor t x.queue (8 + k)) k (x.reg w.a).toNat e c) e c
            (.notify (some k))) x.queue))
    ∧ (due → (s.ctx tm.e tm.c).wait = .timer n → exec (.timerExpiry n) s = .next (complete off tm.e tm.c Config.OK 0))
    ∧ (due → (s.ctx tm.e tm.c).wait = .notify (some n) →
        exec (.timerExpiry n) s = .next (complete off tm.e tm.c Config.TIMEOUT 0))
    ∧ (lim → (s.ctx e c).state = 1 → exec (.limitMsExpiry e c) s
          = .next (endTask (s.updCtx e c (fun y => { y with expired := true, pc := y.lastPc })) e c Config.TIMEOUT true))
    ∧ (lim → 2 ≤ (s.ctx e c).state → (s.ctx e c).state ≤ 4 →
        exec (.limitMsExpiry e c) s = .next (s.updCtx e c (fun y => { y with expired := true })))
    ∧ (s.live = true → (s.ctx e c).state = 4 →
        exec (.contextStallRecord e c) s = .next (record s (Config.evClass 9 1) e))
    ∧ (s.goose.warn = false ∨ s.goose.warnTrig ≠ some n → exec (.trigPulseEnd n) s
        = .next { s with
            eng := { s.eng with trig := updAt s.eng.trig n (fun _ => if Tbl.has s.eng.claims n then 1 else 0) } })

/-! ## Memory instructions of a program (02, 11) -/

/-- LD and ST of a place that Table 11-2 allows: a buffer is read or written at once; host memory is reached by a RD64, or by a
WRP of the store's bytes, under the task's label, and the context waits for its outcome. An address that is none, and a buffer range the
queue may not reach, complete with the status of R334 and R302. -/
def Obligations.LoadStoreResults : Prop :=
  ∀ (s : State) (e c a : Nat) (w : SWord) (dram : Dram),
    let t := s.issued e c
    let x := t.ctx e c
    let n := 2 ^ w.fld 27 26
    let v := (x.reg w.b).toNat % 2 ^ (8 * n)
    (s.issues e c w 0x17 = true → memAddr (x.reg w.a) w = some (.buf a) → t.bufCheck x.queue a n = Config.OK →
        exec (.ld e c dram) s = .next (completeD t e c w.d (BitVec.ofNat 64 (t.bufNum a n)) Config.OK 0))
    ∧ (s.issues e c w 0x17 = true → memAddr (x.reg w.a) w = some (.host a) →
        exec (.ld e c dram) s = .next (engAccess (suspend t e c (.mem (a % 64))) (.eng e c) e c .rd64 (a - a % 64) false false dram))
    ∧ (s.issues e c w 0x18 = true → memAddr (x.reg w.a) w = some (.buf a) → t.bufCheck x.queue a n = Config.OK →
        exec (.st e c dram) s = .next (complete (t.bufStore a (bytesOf v n)) e c Config.OK 0))
    ∧ (s.issues e c w 0x18 = true → memAddr (x.reg w.a) w = some (.host a) →
        exec (.st e c dram) s = .next (engAccess (suspend t e c (.mem (a % 64))) (.eng e c) e c
          (.wrp (BitVec.ofNat 64 ((2 ^ n - 1) * 2 ^ (a % 64))) (BitVec.ofNat 512 (v * 2 ^ (8 * (a % 64))))) (a - a % 64)
          false false dram))
    ∧ (memAddr (x.reg w.a) w = none →
        (s.issues e c w 0x17 = true → exec (.ld e c dram) s = .next (complete t e c Config.BAD_OPERAND 0))
        ∧ (s.issues e c w 0x18 = true → exec (.st e c dram) s = .next (complete t e c Config.BAD_OPERAND 0)))
    ∧ (memAddr (x.reg w.a) w = some (.buf a) → t.bufCheck x.queue a n ≠ Config.OK →
        (s.issues e c w 0x17 = true → exec (.ld e c dram) s = .next (complete t e c (t.bufCheck x.queue a n) 0))
        ∧ (s.issues e c w 0x18 = true → exec (.st e c dram) s = .next (complete t e c (t.bufCheck x.queue a n) 0)))

/-- MOVE, COPY and FILL whose ranges pass R338 are issued as transfers of their length; FENCE with nothing posted ends with what
the posted units left, and otherwise waits; the report of a mule takes the oldest posted transfer, or the transfer that its
context waits for, one step on, and a last step completes it; it takes a CACHE.ZERO and an XTS instruction on (R129, R437). A unit of a
write-back that meets an encrypt-then-verify mismatch
is counted and recorded; while a pipeline is left the write-back stands; so is one of a flush (R426). -/
def Obligations.TransferResults : Prop :=
  (∀ (s : State) (e c : Nat) (w : SWord) (dram : Dram),
     let t := s.issued e c
     let x := t.ctx e c
     let d := (x.reg w.a).toNat
     let b := (x.reg w.b).toNat
     let n := (x.reg w.c).toNat
     let y := s.ctx e c
     let waits := s.live = true ∧ (y.state = 3 ∨ y.state = 4)
     (s.issues e c w 0x20 = true → 1 ≤ n → n ≤ 2 ^ 26 → ¬(isHost d = true ∧ isHost b = true) →
         (w.bit 0 = true → isHost d = true) → t.rangeCheck x.queue d n 64 (w.bit 0) = Config.OK →
         t.rangeCheck x.queue b n 64 false = Config.OK →
         exec (.move e c dram) s = .next (issueXfer t e c (w.bit 1)
           { kind := 0, dst := d, src := b, len := n, done := 0, acc := w.bit 0, pat := 0 } dram))
     ∧ (s.issues e c w 0x21 = true → 1 ≤ n → n ≤ 2 ^ 26 → isHost d = true → isHost b = true → (b + n ≤ d ∨ d + n ≤ b) →
         t.rangeCheck x.queue d n 256 false = Config.OK → t.rangeCheck x.queue b n 256 false = Config.OK →
         exec (.copy e c dram) s = .next (issueXfer t e c (w.bit 1)
           { kind := 1, dst := d, src := b, len := n, done := 0, acc := false, pat := 0 } dram))
     ∧ (s.issues e c w 0x22 = true → 1 ≤ n → n ≤ 2 ^ 26 → t.rangeCheck x.queue d n 64 false = Config.OK →
         exec (.fill e c dram) s = .next (issueXfer t e c (w.bit 1)
           { kind := 2, dst := d, src := 0, len := n, done := 0, acc := false, pat := x.reg w.b } dram))
     ∧ (s.issues e c w 0x23 = true → x.posted = [] → exec (.fence e c) s = .next (finishFence t e c))
     ∧ (s.issues e c w 0x23 = true → x.posted ≠ [] → exec (.fence e c) s = .next (suspend t e c .fence))
     ∧ (∀ z rest u, s.live = true → y.posted = z :: rest → stepXfer s e c true z dram = (u, none) →
         exec (.postedUnitDone e c dram) s = .next u)
     ∧ (∀ z rest u code addr, s.live = true → y.posted = z :: rest → stepXfer s e c true z dram = (u, some (code, addr)) →
         exec (.postedUnitDone e c dram) s = .next (popPosted u e c code addr dram))
     ∧ (∀ z u, waits → y.wait = .xfer z → stepXfer s e c false z dram = (u, none) →
         exec (.muleReport (.ctx e c) none dram) s = .next u)
     ∧ (∀ z u code addr, waits → y.wait = .xfer z → stepXfer s e c false z dram = (u, some (code, addr)) →
         exec (.muleReport (.ctx e c) none dram) s = .next (finishXfer u e c z code))
     ∧ (∀ lo next hi, waits → y.wait = .zero lo next hi (some Config.OK) →
         exec (.muleReport (.ctx e c) none dram) s = .next (zeroNext s e c lo (next + 256) hi dram))
     ∧ (∀ d b n k once, waits → y.wait = .xts d b n k once →
         exec (.muleReport (.ctx e c) none dram) s = .next (xtsRun s e c d b n k)))
  ∧ (∀ (s : State) (page pipe : Nat) (m : Move) (dram : Dram),
       (s.live = true → Tbl.find s.maps.moves page = some m → m.stage = 0 → (cipherFault s pipe).pipesLeft = true →
         exec (.muleReport (.page page) (some pipe) dram) s = .next (cipherFault s pipe)
         ∧ (cipherFault s pipe).keys.cfaults = (s.keys.cfaults + 1) % 2 ^ 32
         ∧ (cipherFault s pipe).maps = s.maps ∧ (cipherFault s pipe).cache = s.cache)
       ∧ (s.flushing = true → exec (.muleReport .flush (some pipe) dram) s = .next (record
           { s with keys := { s.keys with cfaults := (s.keys.cfaults + 1) % 2 ^ 32 } } (Config.evClass 14 0) 8)))

/-! ## Host requests (02, 04, 06, 12) -/

/-- A host read that reaches its lookup with no fill of its line in flight and finds the line in the cache or the write-back buffer
is answered from there: OK and the data, or POISON where the line is poisoned. A host write that reaches its lookup with the cache
write-back and no fill of its line in flight: WR256 installs its line without a fetch; WR64 and WRP merge into the line the cache or the
buffer holds; ACC ORs into the cached line. Each leaves the line dirty and completes OK; a WR64, WRP or ACC of a poisoned line completes
POISON and leaves the line as it is (R65, R70). -/
def Obligations.HostHits : Prop :=
  (∀ (s u : State) (r : Req) (p n tag addr : Nat) (d : Line) (bad : Bool) (dram : Dram),
     let answer := (.next (deliver (touch (count u 0x04 0x3F none 1) r.line) r (if bad then Config.POISON else Config.OK) d false)
       : Out)
     s.live = true → s.hears p tag = true → (s.sess p n).isOpen = true → u.cache.filling r.line = false →
     u.cache.full r.line = some (d, bad) →
     (let q := s.arrived p n tag addr .rd64 dram
      q.1.atLookup q.2 = some (u, r) → exec (.rd64 p n tag addr dram) s = answer)
     ∧ (let q := s.arrived p n tag addr .rd256 dram
        q.1.atLookup q.2 = some (u, r) → exec (.rd256 p n tag addr dram) s = answer))
  ∧ (∀ (s u v : State) (r : Req) (p n tag addr : Nat) (h : HLine) (l d : Line) (m : BitVec 64) (x : CLine) (dram : Dram),
       let k := count u 0x04 0x3F none 1
       let seen := fun (op : MemOp) => (s.arrived p n tag addr op dram).1.atLookup (s.arrived p n tag addr op dram).2 = some (u, r)
       let puts := fun (t : State) (y : Line) (delta : Bool) =>
         install (laneFree t r) r.line y true delta false r.rways r.label = some v
       let done := (.next (deliver v { r with lane := false } Config.OK 0 false) : Out)
       let poisoned := (.next (deliver u r Config.POISON 0 false) : Out)
       s.live = true → s.hears p tag = true → (s.sess p n).isOpen = true → u.cache.on = true → u.cache.wback = true →
       (seen (.wr256 l) → Tbl.find u.cache.fills r.line = none → puts u ((MemOp.wr256 l).merge addr 0) false →
         exec (.wr256 p n tag addr l dram) s = done)
       ∧ (seen (.wr64 h) → u.cache.filling r.line = false →
         (u.cache.full r.line = some (d, false) → puts k ((MemOp.wr64 h).merge addr d) false →
           exec (.wr64 p n tag addr h dram) s = done)
         ∧ (u.cache.full r.line = some (d, true) → exec (.wr64 p n tag addr h dram) s = poisoned))
       ∧ (seen (.wrp m h) → u.cache.filling r.line = false →
         (u.cache.full r.line = some (d, false) → puts k ((MemOp.wrp m h).merge addr d) false →
           exec (.wrp p n tag addr m h dram) s = done)
         ∧ (u.cache.full r.line = some (d, true) → exec (.wrp p n tag addr m h dram) s = poisoned))
       ∧ (seen (.acc h) → u.cache.filling r.line = false → u.cache.hit r.line = some x →
         (x.poison = false → puts k ((MemOp.acc h).merge addr x.data) x.delta → exec (.acc p n tag addr h dram) s = done)
         ∧ (x.poison = true → exec (.acc p n tag addr h dram) s = poisoned)))

/-- A request whose tag is outstanding is discarded: counted in LK_TAG_DUP and recorded, and nothing else comes of it but the
credit of its flits. A request from a session that is not open completes with DENIED: the device sends that completion and does
nothing else with the request. -/
def Obligations.RequestsTurnedAway : Prop :=
  (∀ (s : State) (p n tag addr : Nat) (op : MemOp) (dram : Dram) (i : Instr),
     let t := rxFlits s p op.flits
     hostCommand p n tag addr dram op = some i → s.live = true → p < s.portCount → (s.port p).up = true →
     (t.port p).outTags.contains tag = true →
       exec i s = .next (record
         (freeCredit (t.updPort p (fun x => { x with tagDup := (x.tagDup + 1) % 2 ^ 16 })) p op.vc op.flits)
         (Config.evClass 12 0) p))
  ∧ (∀ (s : State) (p n tag addr : Nat) (op : MemOp) (dram : Dram) (i : Instr),
       let t := (rxFlits s p op.flits).updPort p (fun x => { x with outTags := x.outTags ++ [tag] })
       let x := s.sess p n
       hostCommand p n tag addr dram op = some i → s.live = true → s.hears p tag = true → x.isOpen = false →
         exec i s = .next (deliver (freeCredit t p op.vc op.flits)
           { who := .host p n tag, op := op, addr := addr, label := x.label, sesLabel := x.label, admin := x.admin,
             at0 := s.regul.refTicks, dram := dram } Config.DENIED 0 false))

/-! ## The link layer of a port (12) -/

/-- Training (R375, R377): a phase that ends leads to the next and the last to the exchange of INIT flits; a phase that overruns
is a failed attempt, recorded, at 28 GBd from then on, retried after 10 ms while fewer than eight have failed; the partner's
TRAIN starts an attempt, after eight failures a new row of them; INIT with KEEP from both sides replays, without it the port is cleared
and session 0 opens ADMIN. -/
def Obligations.LinkTraining : Prop :=
  ∀ (s : State) (p vc2 vc3 ack : Nat) (keep : Bool),
    let x := s.port p
    let k := min 8 (x.fails + 1)
    let failed := s.updPort p (fun x => { x with
      state := 0, phase := 0, fails := k, elecIdle := true, retryWait := decide (k < 8), rate56 := false,
      fell := x.fell || x.rate56 })
    let up := fun (y : Port) =>
      { y with state := 2, phase := 0, fails := 0, keepWin := false, trains := (y.trains + 1) % 2 ^ 32 }
    s.linked p = true →
    (x.state = 1 → x.phase < 3 →
      exec (.trainingPhaseDone p) s = .next (s.updPort p (fun x => { x with phase := x.phase + 1 })))
    ∧ (x.state = 1 → x.phase = 3 →
      exec (.trainingPhaseDone p) s = .next (s.updPort p (fun x => { x with phase := 4 }.control 3)))
    ∧ (x.state = 1 → x.rate56 = false →
      exec (.trainingPhaseTimeout p) s = .next (record failed (Config.evClass 12 1) p))
    ∧ (x.state = 1 → x.rate56 = true →
      exec (.trainingPhaseTimeout p) s = .next (loseCapability (record failed (Config.evClass 12 1) p)))
    ∧ (x.retryWait = true → exec (.trainRetry p) s = .next (s.updPort p (fun x => x.train x.keepAsk)))
    ∧ (x.state = 0 → x.retryWait = false → x.fails < 8 →
      exec (.trainDetected p) s = .next (s.updPort p (fun x => x.train x.keepAsk)))
    ∧ (x.state = 0 → x.retryWait = false → x.fails = 8 →
      exec (.trainDetected p) s = .next (s.updPort p (fun x => { x.train x.keepAsk with fails := 0 })))
    ∧ (x.state = 1 → x.phase = 4 → keep = true → x.keepAsk = true →
      exec (.linkInit p keep vc2 vc3 ack) s = .next (s.updPort p (fun y =>
        match (up (y.acked ack)).replay.head? with
        | some f => ((up (y.acked ack)).resend f.seq).pump
        | none => (up (y.acked ack)).pump)))
    ∧ (x.state = 1 → x.phase = 4 → (keep = false ∨ x.keepAsk = false) →
      exec (.linkInit p keep vc2 vc3 ack) s
        = .next (openSession ((dropLink s p).updPort p (fun y => { up y with credit := [0, 0, vc2, vc3] })) p 0 true))

/-- Replay (R379, R380): a NAK or an ACK that stands still for 4 us sends the unacknowledged flits from its SEQ on again, counted; the
eighth replay in a row from one SEQ sends DOWN with reason 5 and retrains with KEEP; an ACK that advances counts the symbols its
codewords had corrected, releases flits and ends
the replay; a bad flit is counted by its cause and answered with a NAK, repeated while the flit is awaited. -/
def Obligations.LinkReplay : Prop :=
  ∀ (s : State) (p q corrected : Nat) (why : BadFlit),
    let x := s.port p
    let n := if x.replayFrom = q ∧ x.replaySame ≠ 0 then x.replaySame + 1 else 1
    let again := fun (x : Port) => { x.resend q with
      state := 3, replays := (x.replays + 1) % 2 ^ 32, replayFrom := q, replaySame := n }
    let t := count s 0x17 p none 1
    let replayed := if n < 8 then t.updPort p again
      else t.updPort p (fun x => ({ (again x).sendDown 5 with replaySame := 0 } : Port).train true)
    s.linked p = true → x.up = true →
    (x.replay.any (fun f => f.seq == q) = true → exec (.nak p q) s = .next replayed)
    ∧ (∀ f rest, x.replay = f :: rest → f.seq = q → exec (.replayTimeout p) s = .next replayed)
    ∧ (x.replay.any (fun f => f.seq == q) = true →
      exec (.ackAdvanced p q corrected) s = .next (s.updPort p (fun x =>
        Port.pump { ({ x with fecCorr := (x.fecCorr + corrected) % 2 ^ 32 } : Port).acked q with state := 2 })))
    ∧ (exec (.badFlit p why) s = .next (s.updPort p (fun x => { x with
        ctrl := 2 :: x.ctrl, nakOut := true
        fecUncorr := if why = .uncorrectable then (x.fecUncorr + 1) % 2 ^ 32 else x.fecUncorr
        crcErr := if why = .crc then (x.crcErr + 1) % 2 ^ 32 else x.crcErr })))
    ∧ (x.nakOut = true → exec (.nakRepeat p) s = .next (s.updPort p (fun x => x.control 2)))

/-- Credits and SKIP (R358, R368, R369): credit of a VC lets what waits for it leave; a remainder of receive credit goes back in
a CREDIT flit, but of VC0 while the port withholds it (R28); a SKIP is sent. DOWN (R377, R381, R382): a DOWN of the partner takes the
port down and keeps its state; a port not
ACTIVE with KEEP within 100 ms drops its state and closes its sessions; a protocol error is counted, recorded, answered with DOWN
of reason 4 and a retrain without KEEP. -/
def Obligations.LinkCreditsAndDown : Prop :=
  (∀ (s : State) (p vc n : Nat),
     let x := s.port p
     s.linked p = true → x.up = true →
     (exec (.credit p vc n) s
       = .next (s.updPort p (fun x => Port.pump { x with credit := updAt x.credit vc (fun v => v + n) })))
     ∧ (x.rem.getD vc 0 ≠ 0 → (x.vc0Held = false ∨ vc ≠ 0) →
       exec (.creditReturnTimer p vc) s = .next (s.updPort p (fun y =>
         { y.control 1 with
           rem := updAt y.rem vc (fun _ => 0), returned := updAt y.returned vc (fun v => v + x.rem.getD vc 0) })))
     ∧ (x.vc0Held = true → exec (.creditReturnTimer p 0) s = .next s)
     ∧ (exec (.skipSend p) s = .next (s.updPort p (fun x => { x with skips := x.skips + 1 }))))
  ∧ (∀ (s : State) (p reason : Nat),
       let x := s.port p
       s.linked p = true →
       (exec (.downReceived p reason) s = .next (s.updPort p (fun x => { x with
           state := 0, phase := 0, elecIdle := true, downRx := reason % 16, keepAsk := x.keepAsk || x.up
           keepWin := x.keepWin || x.up })))
       ∧ (x.keepWin = true → x.up = false → exec (.keepWindowExpiry p) s = .next (dropLink s p))
       ∧ (x.up = true → exec (.protocolError p) s = .next (record
           (s.updPort p (fun x => ({ x with proto := (x.proto + 1) % 2 ^ 16 }.sendDown 4).train false))
           (Config.evClass 12 2) p)))

/-! ## Management transactions (00, 12, 16) -/

/-- A management read of a session (R373, Table 12-10): of CSR words that the session may read, in ascending order; of bytes of a
buffer that it reaches; of the low word of a counter, whose high bits the session's latch takes (R499). Its CPL leaves on VC3. A
management write of a session that passes its checks is done, and its CPL without data leaves on VC3: CSR words in ascending
order, bytes of a buffer, a queue's TAIL or CHEAD, LEN and GO, FUSE (R10, R306, R373, R480, R481). A read or write of more than 16 words
or of an address off a word completes with BAD_OPERAND, one of words that its session may not read with DENIED, one of a buffer or of
registers that fails its check with that check's status; none of these has an effect. -/
def Obligations.ManagementAccesses : Prop :=
  (∀ (s : State) (p n tag addr words i : Nat) (buffer : Bool),
     let t := s.mgtArrived p tag 0
     let c := Tbl.getD t.recs.ctr i 0
     let r := csrReads t p n addr words
     let b := (List.range words).map (fun k => t.bufNum (addr + 4 * k) 4)
     s.serves = true → s.hears p tag = true → (s.sess p n).isOpen = true →
     (words ≤ 16 → addr % 4 = 0 → (List.range words).all (fun k => t.csrMay p n (addr + 4 * k)) = true →
       exec (.mgtRead p n tag false addr words) s = .next (sendCpl r.1 p n tag 3 Config.OK words (wordsLine r.2)))
     ∧ (words ≤ 16 → addr % 4 = 0 → t.bufStatus p n addr (4 * words) = Config.OK →
       exec (.mgtRead p n tag true addr words) s = .next (sendCpl t p n tag 3 Config.OK words (wordsLine b)))
     ∧ (i < 256 → t.csrMay p n (0x140000 + 8 * i) = true →
       exec (.perfCounterRead p n tag i) s = .next (sendCpl
         (t.updSess p n (fun x => { x with perfLatch := c / 2 ^ 32 % 2 ^ 16 })) p n tag 3 Config.OK 1
         (wordsLine [c % 2 ^ 32])))
     ∧ ((16 < words ∨ addr % 4 ≠ 0) →
       exec (.mgtRead p n tag buffer addr words) s = .next (sendCpl t p n tag 3 Config.BAD_OPERAND 0 0))
     ∧ (words ≤ 16 → addr % 4 = 0 → (List.range words).all (fun k => t.csrMay p n (addr + 4 * k)) = false →
       exec (.mgtRead p n tag false addr words) s = .next (sendCpl t p n tag 3 Config.DENIED 0 0))
     ∧ (words ≤ 16 → addr % 4 = 0 → t.bufStatus p n addr (4 * words) ≠ Config.OK →
       exec (.mgtRead p n tag true addr words) s
         = .next (sendCpl t p n tag 3 (t.bufStatus p n addr (4 * words)) 0 0)))
  ∧ (∀ (s : State) (p n tag addr q v : Nat) (w : W32) (ws : List W32) (buffer : Bool),
       let t := fun (k : Nat) => s.mgtArrived p tag k
       let done := fun (u : State) => (.next (sendCpl u p n tag 3 Config.OK 0 0) : Out)
       let not := fun (st : Nat) => (.next (sendCpl (t ws.length) p n tag 3 st 0 0) : Out)
       let st := worst ((t ws.length).putStatuses p n addr ws)
       s.serves = true → s.hears p tag = true → (s.sess p n).isOpen = true →
       (ws.length ≤ 16 → addr % 4 = 0 → st = Config.OK →
         exec (.mgtWrite p n tag false addr ws) s = done (csrPuts (t ws.length) p addr ws))
       ∧ (ws.length ≤ 16 → addr % 4 = 0 → (t ws.length).bufStatus p n addr (4 * ws.length) = Config.OK →
         exec (.mgtWrite p n tag true addr ws) s
           = done ((t ws.length).bufStore addr (ws.flatMap (fun v => bytesOf v.toNat 4))))
       ∧ ((16 < ws.length ∨ addr % 4 ≠ 0) → exec (.mgtWrite p n tag buffer addr ws) s = not Config.BAD_OPERAND)
       ∧ (ws.length ≤ 16 → addr % 4 = 0 → st ≠ Config.OK → exec (.mgtWrite p n tag false addr ws) s = not st)
       ∧ (ws.length ≤ 16 → addr % 4 = 0 → (t ws.length).bufStatus p n addr (4 * ws.length) ≠ Config.OK →
         exec (.mgtWrite p n tag true addr ws) s = not ((t ws.length).bufStatus p n addr (4 * ws.length)))
       ∧ (addr % 4 = 0 → (t 1).putStatus p n addr w = Config.OK →
         exec (.csrWrite p n tag addr w) s = done (csrPut (t 1) p addr w))
       ∧ (q < 4096 → v < 2 ^ 16 → (t 1).putStatus p n (0x100000 + 8 * q) (BitVec.ofNat 32 v) = Config.OK →
         exec (.qdTail p n tag q v) s = done ((t 1).updQueue q (fun x => { x with tail := v })))
       ∧ (q < 4096 → v < 2 ^ 16 → (t 1).putStatus p n (0x100004 + 8 * q) (BitVec.ofNat 32 v) = Config.OK →
         exec (.qdChead p n tag q v) s = done ((t 1).updQueue q (fun x => { x with chead := v })))
       ∧ ((t 1).putStatus p n 0x00000C 0 = Config.OK → v < 2 ^ 21 →
         exec (.idBootGo p n tag v) s = done (bootGo (t 1) v))
       ∧ ((t 1).putStatus p n 0x00000C 0 = Config.OK → exec (.idBootFuse p n tag) s = done (bootFuse (t 1))))

/-- Sessions (R372): an ADMIN session opens a session that is not open, and closes any but session 0; a TENANT session closes
itself; what R372 does not allow is refused with DENIED or BAD_OPERAND. -/
def Obligations.SessionsOpenAndClose : Prop :=
  ∀ (s : State) (p n tag k : Nat) (admin : Bool),
    let t := s.mgtArrived p tag 0
    let done := fun (u : State) => (.next (sendCpl u p n tag 3 Config.OK 0 0) : Out)
    let not := fun (st : Nat) => (.next (sendCpl t p n tag 3 st 0 0) : Out)
    s.serves = true → s.hears p tag = true → (s.sess p n).isOpen = true →
    ((t.sess p n).admin = true → (t.sess p k).isOpen = false →
      exec (.mgtOpen p n tag k admin) s = done (openSession t p k admin))
    ∧ ((t.sess p n).admin = true → (t.sess p k).isOpen = true → exec (.mgtOpen p n tag k admin) s = not Config.BAD_OPERAND)
    ∧ ((t.sess p n).admin = false → exec (.mgtOpen p n tag k admin) s = not Config.DENIED)
    ∧ (((t.sess p n).admin = true ∨ n = k) → k ≠ 0 → (t.sess p k).isOpen = true →
      exec (.mgtClose p n tag k) s = done (closeSession t p k))
    ∧ (((t.sess p n).admin = true ∨ n = k) → (k = 0 ∨ (t.sess p k).isOpen = false) →
      exec (.mgtClose p n tag k) s = not Config.BAD_OPERAND)
    ∧ ((t.sess p n).admin = false → n ≠ k → exec (.mgtClose p n tag k) s = not Config.DENIED)

/-- The owner key hash is burned once (R481): FUSE copies ID_OKH to the fuses and sets OKH_SET while OKH_SET is 0, and changes
nothing once it is 1; a write of a word of ID_OKH is ignored once it is 1. -/
def Obligations.OwnerKeyHashBurnedOnce : Prop :=
  ∀ (s : State) (i v : Nat),
    (s.boot.okhSet = false → (bootFuse s).boot.okh = s.boot.idOkh ∧ (bootFuse s).boot.okhSet = true)
    ∧ (s.boot.okhSet = true → bootFuse s = s ∧ okhWrite s i v = s)

/-! ## Queues and descriptors (10) -/

/-- A descriptor that an engine's IDLE context c fetches from queue q: the context, the engine and the queue are those that may
fetch. One with ORDER waits while an earlier descriptor of its queue runs (R304); one with a reserved field or KIND completes with
BAD_OPERAND (R303); RUN, HCALL, QOPEN, QCLOSE and PLOAD whose arguments Tables 10-4 and 10-5 allow do their work. -/
def Obligations.DescriptorsRun : Prop :=
  ∀ (s : State) (e c q : Nat) (x : Queue) (d : BitVec 512) (i : Instr),
    let t := taskDesc d
    let f := fetchDesc s e c q x t
    let a := qopenArg (t.args.headD 0)
    let v := (t.args.headD 0).toNat
    let y : Queue :=
      { port := x.port, session := x.session, engine := a.engine, label := a.label, dlog := a.dlog, clog := a.clog,
        bufMib := a.bufMib }
    let kinds := [(0, Instr.taskRun e c q d), (1, .taskRun e c q d), (2, .hcall e c q d), (3, .qopen e c q d), (4, .qclose e c q d),
      (5, .pload e c q d)]
    s.live = true → e < 16 → c < 32 → (s.ctx e c).state = 0 → s.nextQueue e = some q → s.queue q = some x →
    (t.order = true → 0 < x.busy → (t.kind, i) ∈ kinds → exec i s = .next (s.updQueue q (fun x => { x with order := true })))
    ∧ (t.order = false ∨ x.busy = 0 →
      (t.reservedOk = false → (t.kind, i) ∈ kinds → exec i s = .next (endTask f e c Config.BAD_OPERAND true))
      ∧ (t.reservedOk = true →
        ((t.kind = 0 ∨ 5 < t.kind) → exec (.taskRun e c q d) s = .next (endTask f e c Config.BAD_OPERAND true))
        ∧ (t.kind = 1 → exec (.taskRun e c q d) s = .next f)
        ∧ (t.kind = 2 → 1 ≤ t.entry → t.entry ≤ 9 → ((f.sess x.port x.session).admin = true ∨ t.entry = 4) →
          exec (.hcall e c q d) s = .next (f.updCtx e c (fun y => { y with house := t.entry, hcall := true })))
        ∧ (t.kind = 3 → q < 32 → a.reservedOk = true → 32 ≤ a.queue → f.queue a.queue = none → 6 ≤ a.dlog → a.dlog ≤ 16 →
          6 ≤ a.clog → a.clog ≤ 16 → a.bufMib ≤ 64 →
          ((f.sess x.port x.session).admin = true ∨ a.label = (f.sess x.port x.session).label) →
          f.poolUsed + y.poolBytes ≤ 2 ^ 30 →
          exec (.qopen e c q d) s = .next (endTask (openQueue f a.queue y) e c Config.OK true))
        ∧ (t.kind = 4 → q < 32 → 32 ≤ v → v < 4096 → (f.queue v).isSome = true → f.sameSession q v = true →
          exec (.qclose e c q d) s
            = .next (finishClose (suspend (f.updQueue v (fun x => { x with closing := true })) e c (.qclose v)) v))
        ∧ (t.kind = 5 →
          let b := (t.args.getD 0 0).toNat
          let g := (t.args.getD 1 0).toNat % 16
          let lo := bitsOf (t.args.getD 1 0).toNat 28 16
          let n := (t.args.getD 2 0).toNat
          q < 32 → f.queueAdmin q = true → bitsOf b 62 40 = 0 → lo + n ≤ 8192 →
          f.bufCheck q (b % 2 ^ 40) (8 * n) = Config.OK → f.inTable g lo (lo + n) (ctxKey e c) = false →
          exec (.pload e c q d) s = .next (endTask { f with eng := { f.eng with
            prog := (List.range n).foldl (fun p i =>
              Tbl.put p (8192 * g + lo + i) (BitVec.ofNat 64 (f.bufNum (b % 2 ^ 40 + 8 * i) 8))) f.eng.prog } }
            e c Config.OK true))))

/-- COMPLETION_WRITE (R307): while the ring of the task's queue has space its entry is written at QD_CTAIL, which moves on, PHASE
turning where it passes the end of the ring, and the context is IDLE; with NOTIFY a COMPLETION record follows. NTF_SEND (R308, R309)
sends the oldest record of a session; at 192 records or fewer one OVERFLOW record with the count of those dropped follows. -/
def Obligations.CompletionsAndNotifications : Prop :=
  ∀ (s : State) (e c p n : Nat) (q : Queue) (r : Ntf) (rest : List Ntf),
    let x := s.ctx e c
    let nt := (q.ctail + 1) % 2 ^ q.clog
    let written := ({ s with eng := { s.eng with
        cring := Tbl.put s.eng.cring (65536 * x.queue + q.ctail) (complEntry x q.phase) } }.updQueue x.queue (fun y =>
          { y with ctail := nt, phase := if nt = 0 then !y.phase else y.phase, busy := y.busy - 1 })).putCtx e c {}
    let d := (s.sess p n).dropped
    (s.live = true → x.state = 5 → s.queue x.queue = some q → q.unread < 2 ^ q.clog - 1 →
      exec (.completionWrite e c) s = .next (finishClose
        (if x.notify then notify written x.queue 0x01 x.endCode x.didx else written) x.queue))
    ∧ (s.running = true → (s.port p).up = true → (s.sess p n).isOpen = true → (s.sess p n).ntfq = r :: rest →
      (d = 0 ∨ 192 < rest.length →
        exec (.ntfSend p n) s = .next (sendMsg (s.updSess p n (fun y => { y with ntfq := rest })) p (.ntf n r)))
      ∧ (0 < d → rest.length ≤ 192 →
        exec (.ntfSend p n) s = .next (sendMsg (s.updSess p n (fun y => { y with
          ntfq := rest ++ [⟨0x06, Config.OK, 8 * p + n, false, d, s.recs.pcc, s.recs.opsec⟩], dropped := 0 })) p (.ntf n r))))

/-! ## Media reads, fills and recovery (03, 04, 06) -/

/-- Decodes of a fill (R182): a slot that decodes with 16 corrected bits or fewer ends the read with its plain line; where the re-read
was issued ahead of the decode it is counted and cancelled. A T-mode slot that fails, or in an integrity region its tag slot (R181), is
re-read, twice at most, each re-read with the shifts of the one before it, the bus reserved for a lane read between them (R183); an S-mode
one is uncorrectable at once; an uncorrectable line is poisoned. A slot whose tags are another's fails likewise (R200). A MAC that fails
in an integrity region ends the read with INTEGRITY (R431); AUTO data that were not ready are counted and the read issued again without
AUTO (R394). Recovery: a die-directory word is rebuilt and recorded and what waits
for it goes on (R176); a map entry is recovered, or its page is poisoned (R179); a free entry of the write-back buffer lets what
waits for room go on (R120). -/
def Obligations.MediaReads : Prop :=
  (∀ (s : State) (line bits : Nat) (f : Fill) (d : Line) (poison : Bool) (r : Decoded) (shifts : List Int),
     let ch := s.home (line / 16)
     let tMode := (s.frame (fxOf f.ppn)).mode = 2
     let ahead := tMode ∧ f.eager = true ∧ bits ≠ 0
     let good := fun (u : State) (n : Nat) => (.next (endRead (noteDecode u line f.ppn bits n) line
       (if poison then Config.POISON else Config.OK) d) : Out)
     let lost := fun (u : State) => (.next (endRead (poisonLine u line) line Config.UNCORRECTABLE 0) : Out)
     let mac := record s (Config.evClass 14 2) ((line / 16) % 2 ^ 32)
     let fails := s.readable line f.ppn = false ∨ r = .uncorrectable ∨ (r = .tagSlot ∧ s.tagged f = true)
     let u := s.onCache (fun c => { c with fills := Tbl.upd c.fills line (fun f =>
       if f.stage = 1 then { f with offsets := shifts } else f) })
     s.live = true → Tbl.find s.cache.fills line = some f → f.issued = true → f.res = none →
     (s.readable line f.ppn = true → bits ≤ 16 → s.plainAt line f.ppn = some (d, poison) →
       (f.stage = 0 → ¬ahead → exec (.mediaReadDecoded line (.ok bits)) s = good s 0)
       ∧ (f.stage = 0 → ahead →
         exec (.mediaReadDecoded line (.ok bits)) s = good (cancelReRead (count s 0x0C ch none 1) line) 0)
       ∧ (f.stage = 1 → exec (.reReadDone line (.ok bits) shifts) s = good (cancelReRead u line) 1)
       ∧ (f.stage = 2 → exec (.reReadDone line (.ok bits) shifts) s = good u 2))
     ∧ (fails →
       (f.stage = 0 → tMode → exec (.mediaReadDecoded line r) s = .next (startReRead s line f 1))
       ∧ (f.stage = 0 → ¬tMode → exec (.mediaReadDecoded line r) s = lost s)
       ∧ (f.stage = 1 → exec (.reReadDone line r shifts) s = .next (startReRead
           (u.updChan ch (fun c => { c with rrCount := (c.rrCount + 1) % 2 ^ 16, laneBus := c.laneBus || f.lane })) line f 2))
       ∧ (f.stage = 2 → exec (.reReadDone line r shifts) s = lost u))
     ∧ (s.readable line f.ppn = true → f.stage = 0 → s.tagged f = true →
       exec (.mediaReadDecoded line .macFail) s = .next (endRead
         { mac with keys := { mac.keys with macfails := (mac.keys.macfails + 1) % 2 ^ 32 } } line Config.INTEGRITY 0))
     ∧ (s.readable line f.ppn = true → f.stage = 0 → f.auto = true →
       exec (.mediaReadDecoded line .autoErr) s = .next (autoErr s line)))
  ∧ (∀ (s : State) (fx page : Nat),
       let w := fx / Config.dieWordFrames
       s.live = true →
       (s.medium.dieBad.contains w = true → exec (.dieDirectoryRebuild fx) s = .next (settle
         (record (s.onMedium (fun m => { m with dieBad := m.dieBad.filter (fun x => x != w) })) (Config.evClass 6 0)
           (s.chanOfFx fx))))
       ∧ (s.maps.mapBad.contains page = true → exec (.mapEntryRecovery page true) s = .next (settle
         (s.onMaps (fun m => { m with mapBad := m.mapBad.filter (fun x => x != page) }))))
       ∧ (s.maps.mapBad.contains page = true → s.maps.waitMoves.contains (page, .poison) = false →
         (∀ m, Tbl.find s.maps.moves page = some m → m.kind ≠ .poison) →
         exec (.mapEntryRecovery page false) s = .next (poisonPage s page))
       ∧ (s.cache.wbb.length < Config.wbbLines → exec .wbbEntryFreed s = .next (settle s)))

/-- A fill that found a good line serves its requests in arrival order and is gone, its line installed clean unless a merge, an
invalidation or a line that stands there forbids it, and gone again where a trim waited for it (R125, R126); where its line finds no way
while the write-back buffer is full, or its write no room, it waits with the requests that are left (R120). One that found none, or
whose line meets an accumulate that DRAM has lost (R113), serves them with that status (R53, R117). The end of a protected run frees the
lane (R172). -/
def Obligations.FillsComplete : Prop :=
  ∀ (s : State) (line st ch : Nat) (f : Fill),
    let s0 := s.onCache (fun c => { c with fills := Tbl.del c.fills line })
    let label := (f.reqs.head?.map (·.label)).getD 0
    let ways := (f.reqs.head?.map (·.rways)).getD 0
    let clean := s.cache.on && !f.doomed && !f.merge && !Tbl.has s.cache.lines line
    let full := s.cache.crowded line ways label
    let s1 := if clean then installClean s0 line (f.value (s.cache.delta line)) ways label else s0
    let g := serveGood s1 line f
    let waits := fun (t : State) (l : List Req) =>
      t.onCache (fun c => { c with fills := Tbl.put c.fills line { f with reqs := l, waits := true } })
    (s.live = true → Tbl.find s.cache.fills line = some f →
      (f.res = some st → st ≠ Config.OK → exec (.fillComplete line) s = .next (settle (serveBad s0 f st)))
      ∧ (f.res = some Config.OK →
        (f.bad (s.cache.deltaBad line) = true → exec (.fillComplete line) s = .next (settle (serveBad s0 f Config.POISON)))
        ∧ (f.bad (s.cache.deltaBad line) = false →
          (clean = true → full = true → exec (.fillComplete line) s = .next (settle (waits s f.reqs)))
          ∧ (clean = false ∨ full = false →
            (g.2 = [] → exec (.fillComplete line) s = .next (settle (if f.trimmed then discardLine g.1 line else g.1)))
            ∧ (g.2 ≠ [] → exec (.fillComplete line) s = .next (settle (waits g.1 g.2)))))))
    ∧ (exec (.laneProtectedRunEnd ch) s = .next (s.updChan ch (fun c => { c with laneRun := false })))

/-! ## Token buckets (09) -/

/-- A period of 6.4 ns passes (R264): every bucket refills, the reference count moves on, periods in which a running stream's port may
not send are counted for it (R189), held requests that may pass are released, and a die whose operation has run its 800 ns takes the read
that waits for it (R173). A refill adds the rate for the period, up to the depth; a limit that has been set applies from the next refill
on. No bucket holds more than its depth after a refill, and a charge keeps it so. -/
def Obligations.TokenBuckets : Prop :=
  (∀ s : State,
     let b := { s with
       regul := { s.regul with
         refTicks := s.regul.refTicks + 1, buckets := s.regul.buckets.map (fun p => (p.1, p.2.refill)) }
       eng := { s.eng with
         streams := s.eng.streams.map (fun p =>
           if s.excludes p.2 then (p.1, { p.2 with excluded := p.2.excluded + 1 }) else p) } }
     (s.live = true → exec .tokenRefill s = .next (pumpDies (releaseHeld b)))
     ∧ (s.live = false → exec .tokenRefill s = .next b))
  ∧ (∀ (b : Bucket) (rate depth : Nat),
       (b.next = none → b.tokens ≤ 1024 * b.depth →
         b.refill = { b with tokens := min (1024 * b.depth) (b.tokens + b.rate * 4096 / 625) })
       ∧ (b.next = some (rate, depth) → b.refill.rate = rate ∧ b.refill.depth = depth ∧ b.refill.next = none)
       ∧ b.refill.tokens ≤ 1024 * b.refill.depth)
  ∧ ∀ (s t : State) (master label bytes k : Nat) (b : Bucket),
      s.regul.buckets.all (fun p => decide (p.2.tokens ≤ 1024 * p.2.depth)) = true →
      takeTokens s master label bytes = some t → (k, b) ∈ t.regul.buckets → b.tokens ≤ 1024 * b.depth

/-! ## Streams (06, 10) -/

/-- STRM.DEF of a block and a generator that Tables 11-9 and 10-11 allow, direct or over a table in the queue's buffer, defines the
stream as the block says (R318, R321): a best-effort one at once, another where HS6 admits it, refused with what the tests say where it
does not. STRM.GO starts a stream of its session, STRM.STOP makes one idle and with DROP undefines it, STRM.STAT reports one, or zeros
(R323, R335, Table 11-8); a stream that is not defined, of another session, or running already is refused. H.STREAM_LOOP defines the
stream of R314 and then starts it. -/
def Obligations.StreamInstructions : Prop :=
  (∀ (s : State) (e c n : Nat) (w : SWord),
     let t := s.issued e c
     let x := t.ctx e c
     let ends := fun (st : Nat) => (.next (complete t e c st 0) : Out)
     (x.reg w.a).toNat = n →
     (s.issues e c w 0x29 = true →
       (t.strm n = none → exec (.strmGo e c) s = ends Config.BAD_OPERAND)
       ∧ (∀ y, t.strm n = some y → t.sameSession y.owner x.queue = false → exec (.strmGo e c) s = ends Config.DENIED)
       ∧ (∀ y, t.strm n = some y → t.sameSession y.owner x.queue = true →
         (y.state = 2 → exec (.strmGo e c) s = ends Config.BAD_OPERAND)
         ∧ (y.state ≠ 2 → exec (.strmGo e c) s = .next (complete (startStrm t n y) e c Config.OK 0))))
     ∧ (s.issues e c w 0x2A = true → w.bit 0 = false →
       (t.strm n = none → exec (.strmStop e c) s = ends Config.BAD_OPERAND)
       ∧ (∀ y, t.strm n = some y →
         (t.mayStop x.queue y = false → exec (.strmStop e c) s = ends Config.DENIED)
         ∧ (t.mayStop x.queue y = true → exec (.strmStop e c) s = .next (complete (idleStrm t n y) e c Config.OK 0))))
     ∧ (s.issues e c w 0x2A = true → w.bit 0 = true →
       (t.strm n = none → exec (.strmStopDrop e c) s = ends Config.BAD_OPERAND)
       ∧ (∀ y, t.strm n = some y →
         (t.mayStop x.queue y = false → exec (.strmStopDrop e c) s = ends Config.DENIED)
         ∧ (t.mayStop x.queue y = true → exec (.strmStopDrop e c) s = .next (complete (undefStrm t n) e c Config.OK 0))))
     ∧ (s.issues e c w 0x2B = true →
       (1024 ≤ n → exec (.strmStat e c) s = ends Config.BAD_OPERAND)
       ∧ (n < 1024 → t.strm n = none → exec (.strmStat e c) s = .next (completeD t e c w.d 0 Config.OK 0))
       ∧ (∀ y, n < 1024 → t.strm n = some y → exec (.strmStat e c) s = .next (completeD t e c w.d
         (BitVec.ofNat 64 (y.state + 4 * flag y.commit.isSome + 8 * flag y.revoked + 256 * y.bytes)) Config.OK
         (y.bytes / (256 * genPeriod y.gen))))))
  ∧ (∀ (s : State) (e c a lines : Nat) (w : SWord) (q : Queue) (g : Gen),
       let t := s.issued e c
       let x := t.ctx e c
       let b := t.bufNum a 32
       let best := bitOf b 128
       let at' := bitsOf b 103 64
       let v := t.bufNum at' 64
       let u := took s e c
       let y := s.ctx e c
       let g0 := (y.reg 0).toNat
       (s.issues e c w 0x28 = true → t.bufArg x.queue (x.reg w.a) 32 = (a, Config.OK) → bitsOf b 15 10 = 0 →
         bitsOf b 31 29 = 0 → bitsOf b 127 104 = 0 → bitsOf b 255 132 = 0 → (best = true → w.expert = true) →
         (t.fullService = true ∨ best = true) →
         t.strmOk (bitsOf b 9 0) (bitsOf b 23 16) (bitsOf b 25 24) (bitsOf b 28 26) (bitsOf b 63 32) = some lines →
         at' % 64 = 0 → t.bufCheck x.queue at' 64 = Config.OK → genReserved v = 0 → genOk (genOf v) lines = true →
         ((genOf v).ind = true → t.bufRange (bufAddr x.queue (genOf v).tbuf) (8 * (genOf v).tlen) = true) →
         exec (.strmDef e c) s = .next (defineStrm t e c (bitsOf b 9 0) (bitsOf b 23 16) (bitsOf b 25 24) (bitsOf b 28 26)
           (bitsOf b 63 32) (genOf v) best (if bitOf b 129 then some (bitsOf b 131 130) else none) (some w.d)))
       ∧ (s.inHouse e c 8 = true → y.houseStep = 0 → u.queue y.queue = some q → u.fullService = true →
         u.strmOk (g0 % 1024) (y.reg 1).toNat q.port q.session (bitsOf g0 63 32) = some lines →
         loopGen (y.reg 2).toNat (y.reg 3).toNat lines = some g → bitsOf g0 31 10 = 0 →
         exec (.hStreamLoop e c) s = .next (defineStrm (u.updCtx e c (fun y => { y with lastArg := g0 % 1024 })) e c (g0 % 1024)
           (y.reg 1).toNat q.port q.session (bitsOf g0 63 32) g false none none))
       ∧ (∀ z, s.inHouse e c 8 = true → y.houseStep = 1 → u.strm y.lastArg = some z → u.sameSession z.owner y.queue = true →
         z.state ≠ 2 → exec (.hStreamLoop e c) s = .next (complete (startStrm u y.lastArg z) e c Config.OK 0)))
  ∧ (∀ (s u : State) (e c n region port session rate m code detail : Nat) (chans : List Nat) (g : Gen) (r : BitVec 5),
       let x := s.ctx e c
       let st : Strm :=
         { region := region, port := port, session := session, rate := rate, gen := g, best := true, commit := none,
           owner := x.queue, label := x.label, trig := none }
       let k : Commit :=
         { label := x.label, kind := 3, region := region, rate := rate, ports := 2 ^ port, headroom := 0,
           owner := some x.queue, gen := 0, stream := some g }
       defineStrm s e c n region port session rate g true none (some r)
         = completeD (s.putStrm n st) e c r (BitVec.ofNat 64 0xFFFFFFFF) Config.OK 0
       ∧ (tryAdmit s k = .inr (m, chans, u) →
         defineStrm s e c n region port session rate g false none (some r)
           = waitSwap (u.putStrm n { st with best := false, commit := some m }) e c chans
               (some (m + 1024 * Tbl.getD u.regul.gens m 0)))
       ∧ (tryAdmit s k = .inl (code, detail) →
         defineStrm s e c n region port session rate g false none (some r) = refuseAdmit s e c r code detail))

/-- A running stream issues the page fetch of its next line when it is due (R186, R187); a line beyond its region stops it with
BAD_OPERAND (R320). It releases its next flit when its time has
come, its lines are there and VC2 has credit (R188, R364): a line that failed is recorded, the trigger of a pass goes high, and the last
flit of the last pass makes the stream idle, which its owner is told (R322, R323, R341). -/
def Obligations.StreamsRun : Prop :=
  ∀ (s : State) (n : Nat) (x : Strm) (r : Region) (dram : Dram),
    let k := x.fetchNext
    let due := x.inRun k = true ∧ x.issueNs k ≤ nsOf (s.regul.refTicks - x.t0) ∧ s.region x.region = some r
    let l := (x.fetchSet k).filter (fun j => decide (x.lineOff j < r.size / 256))
    let all := x.ahead ++ l
    let nx := nextUnfetched all all.length k
    let lo := 112 * x.flits
    let hi := match x.total with
      | none => lo + 112
      | some k => min (lo + 112) (256 * k)
    let span := List.range ((hi - 1) / 256 + 1 - lo / 256)
    let m := x.flit n lo hi
    let per := 256 * genPeriod x.gen
    let s1 := sendMsg s x.port m
    let page := fun (i : Nat) => match s.region x.region with
      | some r => (r.base + 256 * x.lineOff (lo / 256 + i)) / 4096 % 2 ^ 32
      | none => 0
    let s2 := (span.filter (fun i => decide (lo ≤ 256 * (lo / 256 + i)) && x.lineSt (lo / 256 + i) != Config.OK)).foldl
      (fun t i => record t (Config.evClass 10 1) (page i)) s1
    let s3 := match x.trig with
      | some b =>
        if (lo % per == 0 || decide (lo / per < (hi - 1) / per)) && Tbl.find s2.eng.claims b == some x.owner then trigHigh s2 b else s2
      | none => s2
    let y := { x with
      flits := x.flits + 1, bytes := x.bytes + (hi - lo), fetched := x.fetched.filter (fun p => decide (hi / 256 ≤ p.1)) }
    let ready := lo < hi ∧ span.all (fun i => Tbl.has x.fetched (lo / 256 + i)) = true ∧ (s.port x.port).canEmit m = true ∧
      (s.port x.port).txq.all (fun q => q.vc != 2) = true ∧ lo * 1000 ≤ s.strmNs x * x.rate
    s.live = true → s.strm n = some x → x.state = 2 →
    (due → x.lineOff k < r.size / 256 →
      exec (.streamFetchIssue n dram) s = .next (l.foldl
        (fun t j => enterTable t (s.fetchReq n x r k j (if j = k then dram else .ok)))
        (s.putStrm n { x with fetchNext := nx, ahead := all.filter (fun j => decide (nx < j)) })))
    ∧ (due → r.size / 256 ≤ x.lineOff k →
      exec (.streamFetchIssue n dram) s = .next (notify (idleStrm s n x) x.owner 0x04 Config.BAD_OPERAND n))
    ∧ (ready → ¬(x.total = some (hi / 256) ∧ hi % 256 = 0) → exec (.streamFlitRelease n) s = .next (s3.putStrm n y))
    ∧ (ready → x.total = some (hi / 256) → hi % 256 = 0 →
      exec (.streamFlitRelease n) s = .next (notify (idleStrm s3 n y) x.owner 0x04 Config.OK n))

/-! ## Regions and map (02, 05) -/

/-- A region change that passes its checks joins the journal and its context waits for the seal (R38, R48, R342), one that does not
completes with what they answer; RGN.DROP marks
the region closing and waits for its drain, at whose end its lines and pages go and the change is journaled (R49, R132). While another
region change is under way the context waits with its instruction (R332). -/
def Obligations.RegionChanges : Prop :=
  ∀ (s : State) (e c a n : Nat) (w : SWord) (o r : Region),
    let t := s.issued e c
    let x := t.ctx e c
    let d := rgnRec (t.bufNum a 32)
    let ends := fun (st : Nat) => (.next (complete t e c st 0) : Out)
    let sold := t.regul.commits.any (fun p => p.2.region == n && p.2.kind != 3)
    let inR := fun (page : Nat) => decide (r.base ≤ page * 4096) && decide (page * 4096 < r.base + r.size)
    let k := s.waiters (fun w => w == .rgnDrain n)
    let s1 := if s.cache.on then ((s.cache.lines.filter (fun p => inR (p.1 / 16))).map (·.1)).foldl dropLine s else s
    let s2 := s1.onCache (fun c => { c with
      wbb := c.wbb.filter (fun p => !inR (p.1 / 16))
      fills := c.fills.map (fun p => if inR (p.1 / 16) then (p.1, p.2.doom 0 false) else p) })
    let pages := (s2.maps.map.filter (fun p => inR p.1)).map (·.1)
      ++ (s2.maps.moves.filter (fun p => inR p.1 && mapped p.2.new && !Tbl.has s2.maps.map p.1)).map (·.1)
    let s3 := pages.foldl (fun t p => startChange t p .drop) s2
    (s.rgnMay e c = true →
      (s.issues e c w 0x30 = true → t.bufArg x.queue (x.reg w.a) 32 = (a, Config.OK) → d.ok = true → d.act = 0 →
        (t.defCheck d.index d.region = Config.OK →
          exec (.rgnDef e c) s = .next (journalRegion t e c d.index (some d.region)))
        ∧ (t.defCheck d.index d.region ≠ Config.OK → exec (.rgnDef e c) s = ends (t.defCheck d.index d.region)))
      ∧ (s.issues e c w 0x31 = true → t.bufArg x.queue (x.reg w.a) 32 = (a, Config.OK) → d.ok = true → d.act = 1 →
        (t.openRegion d.index = some o → t.attrCheck d.index o d.region = Config.OK →
          exec (.rgnAttr e c) s = .next (journalRegion t e c d.index (some d.region)))
        ∧ (t.openRegion d.index = some o → t.attrCheck d.index o d.region ≠ Config.OK →
          exec (.rgnAttr e c) s = ends (t.attrCheck d.index o d.region))
        ∧ (t.openRegion d.index = none → exec (.rgnAttr e c) s = ends Config.BAD_OPERAND))
      ∧ (s.issues e c w 0x32 = true → (x.reg w.a).toNat = n →
        (t.openRegion n = some o → sold = false →
          exec (.rgnDrop e c) s = .next (suspend (abortStrms
            (t.onMaps (fun m => { m with regions := Tbl.put m.regions n { o with closing := true } })) (fun x => x.region == n))
            e c (.rgnDrain n)))
        ∧ (t.openRegion n = some o → sold = true → exec (.rgnDrop e c) s = ends Config.BUSY)
        ∧ (t.openRegion n = none → exec (.rgnDrop e c) s = ends Config.BAD_OPERAND)))
    ∧ (s.rgnMay e c = false →
      ∀ i ∈ [Instr.rgnDef e c, .rgnAttr e c, .rgnDrop e c], exec i s = .next s)
    ∧ (s.live = true → s.region n = some r → r.closing = true → k ≠ [] → s.regionBusy r = false →
      exec (.rgnDropDrainEnd n) s = .next (k.foldl (fun t k => t.updCtx (k / 32) (k % 32) (fun x =>
        { x with wait := .rgnJournal n })) (s3.onMaps (fun m => { m with jregion := m.jregion ++ [(n, none)] }))))

/-- MAP.TRIM of whole pages of one region that its session reaches trims them, or with POISON poisons them (R51, R52); pages out of its
reach, and POISON of a TENANT queue, are refused with DENIED, a range that R51 does not allow with BAD_OPERAND; MAP.QUERY
reports a page of an open region, at once where its range is rebuilt (R249, R335); CKPT waits for its checkpoint unless another
one is under way, which it finds BUSY (R245). -/
def Obligations.MapInstructions : Prop :=
  ∀ (s : State) (e c a i : Nat) (w : SWord) (r : Region),
    let t := s.issued e c
    let x := t.ctx e c
    let n := (x.reg w.b).toNat
    let away := t.maps.regions.any (fun p => decide (p.2.base < a + max 1 n) && decide (a < p.2.base + p.2.size)
      && !reaches p.2 (t.queueAdmin x.queue) (t.queueSessLabel x.queue))
    let ends := fun (st : Nat) => (.next (complete t e c st 0) : Out)
    let shape := n ≠ 0 ∧ a % 4096 = 0 ∧ n % 4096 = 0 ∧ (t.regionRange a n).isSome = true
    let busy := t.pers.ckpt.isSome = true ∨ t.waiters (fun w => w == .ckpt) ≠ []
    (hostOf (x.reg w.a) = some a →
      (s.issues e c w 0x33 = true → w.bit 0 = false →
        (away = false → shape → exec (.mapTrim e c) s = .next (trimRange t e c a n false))
        ∧ (away = true → exec (.mapTrim e c) s = ends Config.DENIED)
        ∧ (away = false → ¬shape → exec (.mapTrim e c) s = ends Config.BAD_OPERAND))
      ∧ (s.issues e c w 0x33 = true → w.bit 0 = true →
        (t.queueAdmin x.queue = true → away = false → shape →
          exec (.mapTrimPoison e c) s = .next (trimRange t e c a n true))
        ∧ (t.queueAdmin x.queue = false ∨ away = true → exec (.mapTrimPoison e c) s = ends Config.DENIED)
        ∧ (t.queueAdmin x.queue = true → away = false → ¬shape → exec (.mapTrimPoison e c) s = ends Config.BAD_OPERAND))
      ∧ (s.issues e c w 0x34 = true →
        (t.regionAt a = some (i, r) → r.closing = false → t.rangeBuilt (a / 4096) = true →
          exec (.mapQuery e c) s = .next (completeD t e c w.d (t.mapAnswer (a / 4096)) Config.OK 0))
        ∧ (t.regionAt a = some (i, r) → r.closing = false → t.rangeBuilt (a / 4096) = false →
          exec (.mapQuery e c) s = .next (suspend (t.onPers (fun p =>
            { p with order := mapPageOf (a / 4096) :: p.order.filter (fun m => m != mapPageOf (a / 4096)) })) e c
            (.query (a / 4096))))
        ∧ (t.regionAt a = none → exec (.mapQuery e c) s = ends Config.BAD_OPERAND)
        ∧ (t.regionAt a = some (i, r) → r.closing = true → exec (.mapQuery e c) s = ends Config.BAD_OPERAND)))
    ∧ (s.issues e c w 0x35 = true →
      (¬busy → exec (.ckpt e c) s = .next (suspend t e c .ckpt)) ∧ (busy → exec (.ckpt e c) s = ends Config.BUSY))

/-! ## Cache instructions (04) -/

/-- CACHE.ON turns caching on after an invalidation of everything, else it is refused; with FORCE also without one, recorded (R133).
CACHE.OFF turns
it off when nothing is dirty and no merge is in flight, else it completes DIRTY; with FORCE it turns it off then too, its dirty lines
orphans, every one recorded (R130, R131); a cache that is off already stays so. CACHE.WAYS sets ways and masks that R114 allows.
CACHE.FLUSH, CLEAN, INVAL and ZERO act on a range that their session reaches: FLUSH and CLEAN wait until nothing of it is dirty,
INVAL until no fill of it is in flight, DIRTY over a dirty line without FORCE, ZERO writes it line by line where defined regions cover it
and no key of it is FATAL; a range that fails its check is refused (R124, R127, R128, R129); H.FLUSH_ALL flushes everything. -/
def Obligations.CacheInstructions : Prop :=
  (∀ (s : State) (e c b : Nat) (w : SWord),
     let t := s.issued e c
     let x := t.ctx e c
     let n := (x.reg w.a).toNat
     let masks := (List.range 64).map (fun l => BitVec.ofNat 16 (t.bufNum (b + 2 * l) 2))
     let ends := fun (st : Nat) => (.next (complete t e c st 0) : Out)
     let held := t.cache.dirty ≠ 0 ∨ t.cache.fills.any (fun p => p.2.merge) = true
     (s.issues e c w 0x38 = true → w.force = false →
       (t.cache.invalAll = true → exec (.cacheOn e c) s
         = .next (complete (t.onCache (fun c => { c with on := true, wback := t.wbMode })) e c Config.OK 0))
       ∧ (t.cache.invalAll = false → exec (.cacheOn e c) s = ends Config.BAD_OPERAND))
     ∧ (s.issues e c w 0x38 = true → w.force = true →
       exec (.cacheOnForce e c) s = .next (complete (turnOn ((record t (Config.evClass 4 4) e).onCache (fun x =>
         { x with stale := x.stale || (!x.on && !x.invalAll) }))) e c Config.OK 0))
     ∧ (s.issues e c w 0x39 = true → w.force = false →
       (held → exec (.cacheOff e c) s = ends Config.DIRTY)
       ∧ (¬held → t.cache.on = true → exec (.cacheOff e c) s = .next (turnOff t e c))
       ∧ (¬held → t.cache.on = false → exec (.cacheOff e c) s = ends Config.OK))
     ∧ (s.issues e c w 0x39 = true → w.force = true →
       let u := record t (Config.evClass 4 3) e
       (t.cache.on = true → exec (.cacheOffForce e c) s = .next (turnOff u e c))
       ∧ (t.cache.on = false → exec (.cacheOffForce e c) s = .next (complete u e c Config.OK 0)))
     ∧ (s.issues e c w 0x3A = true → t.bufArg x.queue (x.reg w.b) 128 = (b, Config.OK) →
       (t.waysOk n masks = true → exec (.cacheWays e c) s = .next (setWays t e c n masks))
       ∧ (t.waysOk n masks = false → exec (.cacheWays e c) s = ends Config.BAD_OPERAND)))
  ∧ (∀ (s : State) (e c lo hi st : Nat) (w : SWord) (dram : Dram),
       let t := s.issued e c
       let ends := fun (st : Nat) => (.next (complete t e c st 0) : Out)
       let dirty := t.cache.lines.any (fun p => p.2.dirty && inRange p.1 lo hi)
       (t.cacheRange e c w (w.bit 0) = (lo, hi, st) →
         (s.issues e c w 0x3B = true →
           (st = Config.OK → exec (.cacheFlush e c) s = .next (maintain (suspend t e c (.clean lo hi true))))
           ∧ (st ≠ Config.OK → exec (.cacheFlush e c) s = ends st))
         ∧ (s.issues e c w 0x3C = true →
           (st = Config.OK → exec (.cacheClean e c) s = .next (maintain (suspend t e c (.clean lo hi false))))
           ∧ (st ≠ Config.OK → exec (.cacheClean e c) s = ends st))
         ∧ (s.issues e c w 0x3D = true →
           (st = Config.OK → (w.force = true ∨ dirty = false) →
             exec (.cacheInval e c) s = .next (maintain (suspend (t.onCache (fun x => { x with
               fills := x.fills.map (fun p =>
                 if inRange p.1 lo hi && !p.2.merge then (p.1, p.2.doom (x.delta p.1) (x.deltaBad p.1)) else p) }))
               e c (.inval lo hi (w.bit 0) w.force))))
           ∧ (st = Config.OK → w.force = false → dirty = true → exec (.cacheInval e c) s = ends Config.DIRTY)
           ∧ (st ≠ Config.OK → exec (.cacheInval e c) s = ends st)))
       ∧ (s.issues e c w 0x3E = true → t.cacheRange e c w false = (lo, hi, st) →
         (st = Config.OK → t.covered 257 lo hi = true → t.fatalIn lo hi = false → lo < hi →
           exec (.cacheZero e c dram) s = .next (engAccess (t.updCtx e c (fun x =>
             { x with state := 3, wait := .zero lo lo hi none })) (.eng e c) e c .zero lo true true dram))
         ∧ (st = Config.OK → t.covered 257 lo hi = true → t.fatalIn lo hi = false → hi ≤ lo →
           exec (.cacheZero e c dram) s = ends Config.OK)
         ∧ (st = Config.OK → t.covered 257 lo hi = false → exec (.cacheZero e c dram) s = ends Config.BAD_OPERAND)
         ∧ (st = Config.OK → t.covered 257 lo hi = true → t.fatalIn lo hi = true →
           exec (.cacheZero e c dram) s = ends Config.KEY_FATAL)
         ∧ (st ≠ Config.OK → exec (.cacheZero e c dram) s = ends st))
       ∧ (s.inHouse e c 3 = true →
         exec (.hFlushAll e c) s = .next (maintain (suspend (took s e c) e c (.clean 0 (2 ^ 44) true)))))

/-! ## Checkers and calibration (06, 07) -/

/-- The checker instructions (R226 to R229, Table 11-14): MEDIA.RAWRD and RAWWR of a DRAM test word store and load its nine
bytes; RAWRD of a slot of a frame, or of the scratch frame, stores its 288 bytes; with DECODE both store the report of its decoder too;
RAWWR of a slot of the scratch frame that is free, or is cleared first with CLR, programs its 288 bytes, and a slot that stands
programmed is refused. MEDIA.RETIRE closes a bound frame, marks it due and waits, or finds it BUSY; CAL.RUN starts runs of units that are
in none and waits, or finds one of them BUSY (R193). -/
def Obligations.CheckerInstructions : Prop :=
  ∀ (s : State) (e c b : Nat) (w : SWord) (slot : Option (List Nat)) (par : List Nat),
    let t := s.issued e c
    let x := t.ctx e c
    let r := rawTarget (x.reg w.a)
    let fx := (x.reg w.a).toNat
    let m := (x.reg w.a).toNat
    let p := (x.reg w.b).toNat
    let word := (Tbl.getD t.medium.testWords (512 * r.unit + r.slot) 0).toNat
    let syn := secSyndrome (word % 2 ^ 64) (word / 2 ^ 64)
    let pos := if syn = 0 then some [] else (secBit (word % 2 ^ 64) (word / 2 ^ 64)).map (fun i => [i])
    let s0 := if slot.isNone then t.burn 288 else t
    let img := slot.getD (t.freeBytes 288)
    let s1 := (count s0 0x08 r.unit none 1).bufStore b (toBytes img)
    let z := t.chan r.unit
    let wipe := w.bit 0 && z.scratchOk (z.scratchHead.1 + 1)
    let s2 := if wipe then scratchClear t r.unit else t
    let ends := fun (st : Nat) => (.next (complete t e c st 0) : Out)
    let running := (maskBits 16 m).any (fun k => t.medium.calChans.contains k)
      || (maskBits 4 p).any (fun k => t.medium.calPorts.contains k)
    (s.issues e c w 0x42 = true → t.bufArg x.queue (x.reg w.b) 384 = (b, Config.OK) → b % 64 = 0 → r.ok = true →
      (r.tgt = 1 → r.unit < t.dramCount → r.slot < 512 →
        (w.bit 0 = false →
          exec (.mediaRawrd e c) s = .next (complete (t.bufStore b (bytesOf word 9)) e c Config.OK 0))
        ∧ (w.bit 0 = true → exec (.mediaRawrd e c) s
          = .next (complete ((t.bufStore b (bytesOf word 9)).bufStore (b + 320) (decodeReport pos syn)) e c Config.OK 0)))
      ∧ ((r.tgt = 0 ∨ r.tgt = 2) → t.rawSlot r = some slot →
        (w.bit 0 = false → exec (.mediaRawrd e c) s = .next (complete s1 e c Config.OK 0))
        ∧ (w.bit 0 = true → s0.rawParity r (w.fld 7 4) img = some par →
          exec (.mediaRawrd e c) s = .next (complete ((s1.burn 24).bufStore (b + 320)
            (decodeReport (bchErrors (codeword img par)) 0)) e c Config.OK 0)))
      ∧ ((r.tgt = 0 ∨ r.tgt = 2) → t.rawSlot r = none → exec (.mediaRawrd e c) s = ends Config.BAD_OPERAND))
    ∧ (s.issues e c w 0x43 = true → r.ok = true → r.tgt = 1 → t.bufArg x.queue (x.reg w.b) 9 = (b, Config.OK) →
      r.unit < t.dramCount → r.slot < 512 →
      exec (.mediaRawwr e c) s = .next (complete (t.onMedium (fun m => { m with
        testWords := Tbl.put m.testWords (512 * r.unit + r.slot) (BitVec.ofNat 72 (t.bufNum b 9)) })) e c Config.OK 0))
    ∧ (s.issues e c w 0x43 = true → r.ok = true → r.tgt = 0 → t.bufArg x.queue (x.reg w.b) 288 = (b, Config.OK) →
      r.unit < t.chanCount → r.slot < 1024 →
      (Tbl.has z.scratch r.slot = false ∨ wipe = true →
        exec (.mediaRawwr e c) s = .next (complete (count (sampleFree (s2.updChan r.unit (fun x => { x with
          scratch := Tbl.put x.scratch r.slot (BitVec.ofNat 2304 (t.bufNum b 288)) })) 5 1) 0x09 r.unit none 1)
          e c Config.OK 0))
      ∧ (Tbl.has z.scratch r.slot = true → wipe = false → exec (.mediaRawwr e c) s = ends Config.BAD_OPERAND))
    ∧ (s.issues e c w 0x44 = true →
      (List.range t.chanCount).any (fun k =>
        decide ((t.chan k).first ≤ fx) && decide (fx < (t.chan k).first + (t.chan k).count)) = true →
      (t.frame fx).bound = true → (t.frame fx).ch = (x.reg w.b).toNat →
      ((t.frame fx).state < 5 →
        exec (.mediaRetire e c) s = .next (suspend ((closeOpen t fx).onMedium (fun m => { m with
          retireDue := if m.retireDue.contains fx then m.retireDue else m.retireDue ++ [fx] })) e c (.retire fx)))
      ∧ (5 ≤ (t.frame fx).state → exec (.mediaRetire e c) s = ends Config.BUSY))
    ∧ (s.issues e c w 0x45 = true → m < 2 ^ t.chanCount → p < 2 ^ t.portCount →
      (running = true → exec (.calRun e c) s = ends Config.BUSY)
      ∧ (m = 0 → p = 0 → exec (.calRun e c) s = ends Config.OK)
      ∧ (running = false → (m ≠ 0 ∨ p ≠ 0) →
        exec (.calRun e c) s = .next (suspend ((startCal t (maskBits 16 m) (maskBits 4 p)).updCtx e c (fun x =>
          { x with lastArg := (maskBits 16 m).length + (maskBits 4 p).length })) e c (.cal m p 0))))

/-- SCRUB.RANGE of whole pages of one region that its session reaches scrubs every mapped page of the first 64 GiB in order and stores the
summary of Table 7-3: OK, or PARTIAL where the range is longer (R216); one out of its reach is refused with DENIED, one that R216 does not
allow with BAD_OPERAND. H.SCRUB_RANGE does so with g0 to g2. -/
def Obligations.ScrubRanges : Prop :=
  ∀ (s : State) (e c lo b us i : Nat) (w : SWord) (found : List (Nat × Decoded)) (hdrs : List Nat) (shifts : List (Nat × Nat))
    (r : Region),
    let run := fun (t : State) (len : Nat) =>
      let n := min len (2 ^ 36)
      let st := if n < len then Config.PARTIAL else Config.OK
      let pages := (t.maps.map.filter (fun p => decide (lo ≤ p.1 * 4096) && decide (p.1 * 4096 < lo + n))).map (·.1)
      let u := pages.foldl (scrubPage ⟨found, hdrs, shifts⟩) (t, {})
      (.next (complete (u.1.bufStore b (scrubSummary lo n (n / 4096 - pages.length) us st u.2)) e c st 0) : Out)
    let shape := fun (t : State) (n : Nat) =>
      n ≠ 0 ∧ lo % 4096 = 0 ∧ n % 4096 = 0 ∧ (t.regionRange lo n).isSome = true ∧ b % 64 = 0
    let t := s.issued e c
    let x := t.ctx e c
    let u := took s e c
    let y := u.ctx e c
    (s.issues e c w 0x40 = true → hostOf (x.reg w.a) = some lo → t.regionAt lo = some (i, r) →
      t.bufArg x.queue (x.reg w.c) 64 = (b, Config.OK) →
      (reaches r (t.queueAdmin x.queue) (t.queueSessLabel x.queue) = true →
        (shape t (x.reg w.b).toNat → exec (.scrubRange e c found hdrs shifts us) s = run t (x.reg w.b).toNat)
        ∧ (¬shape t (x.reg w.b).toNat →
          exec (.scrubRange e c found hdrs shifts us) s = .next (complete t e c Config.BAD_OPERAND 0)))
      ∧ (reaches r (t.queueAdmin x.queue) (t.queueSessLabel x.queue) = false →
        exec (.scrubRange e c found hdrs shifts us) s = .next (complete t e c Config.DENIED 0)))
    ∧ (s.inHouse e c 4 = true → u.fullService = true → hostOf (y.reg 0) = some lo → u.regionAt lo = some (i, r) →
      reaches r (u.queueAdmin y.queue) (u.queueSessLabel y.queue) = true → shape u (y.reg 1).toNat →
      u.bufArg y.queue (y.reg 2) 64 = (b, Config.OK) →
      exec (.hScrubRange e c found hdrs shifts us) s = run u (y.reg 1).toNat)

/-- Calibration (R193 to R196): the first runs start with full service while a restored commitment waits for them, later ones
every 60 s; a LOADED result of a channel or a port stands, a failed one leaves the unit as it is or marks it without calibration, is
recorded and is a loss of capability. -/
def Obligations.Calibrations : Prop :=
  ∀ (s : State) (unit : Nat),
    let off := s.onMedium (fun m => { m with calChans := m.calChans.filter (fun c => c != unit) })
    let poff := s.onMedium (fun m => { m with calPorts := m.calPorts.filter (fun p => p != unit) })
    let lost := fun (t : State) => loseCapability (record t (Config.evClass 6 1) unit)
    s.live = true →
    (s.fullService = true → s.regul.calWait = true → s.medium.calChans = [] → s.medium.calPorts = [] →
      exec .calibrationStart s = .next (calAll s))
    ∧ (s.fullService = true → s.medium.calDue ≤ s.recs.opsec → exec .periodicCalibration s = .next (calAll s))
    ∧ (s.medium.calChans.contains unit = true →
      exec (.calibrationDone false unit true) s = .next (calReport (allLoaded
        (off.updChan unit (fun x => { x with calLoaded := true, calNone := false, calAge := 0 }))) false unit true)
      ∧ exec (.calibrationDone false unit false) s = .next (calReport (allLoaded
        (lost (off.updChan unit (fun x => { x with calNone := !x.calLoaded })))) false unit false))
    ∧ (s.medium.calPorts.contains unit = true →
      exec (.calibrationDone true unit true) s = .next (calReport (allLoaded
        (poff.updPort unit (fun x => { x with calLoaded := true, calNone := false }))) true unit true)
      ∧ exec (.calibrationDone true unit false) s = .next (calReport (allLoaded
        (lost (poff.updPort unit (fun x => { x with calNone := !x.calLoaded })))) true unit false))

/-! ## Labels, arbiters, ledger (09) -/

/-- LBL.SET gives a label to an open queue or session, of a TENANT queue its own session's label to a queue of its session (R257), or a
limit to the buckets of a label on a mask of ports (R260); a queue or session that is none, and a rate, depth or mask out of range, are
refused with BAD_OPERAND, what a TENANT queue may not set with DENIED. ARB.CFG marks a requester and with SETQ sets the quota (R283,
R347), ARB.READ stores its record and with CLR zeroes its counts (R285); a requester that the arbiter does not serve, and a mark or quota
that R347 does not allow, are refused. A decision of an arbiter counts the grant of the
requester that R281 picks and a lost round of every other (R284), at a media channel in the counters too; one that picks none leaves
all as it is. A credit wait above 10 us is counted and recorded (R292), a shorter one is not. -/
def Obligations.LabelsAndArbiters : Prop :=
  (∀ (s : State) (e c : Nat) (w : SWord) (y : Queue),
     let t := s.issued e c
     let x := t.ctx e c
     let v := (x.reg w.a).toNat
     let r := (x.reg w.b).toNat
     let m := (x.reg w.c).toNat
     let l := w.fld 13 8
     let n := v % 8
     let p := bitsOf v 4 3
     let ends := fun (st : Nat) => (.next (complete t e c st 0) : Out)
     let may := t.queueAdmin x.queue = true
       ∨ (bitOf v 12 = false ∧ t.sameSession x.queue (v % 4096) = true ∧ l = t.queueSessLabel x.queue)
     let known := v < 2 ^ 13 ∧ bitsOf v 11 5 = 0 ∧ p < t.portCount ∧ (t.sess p n).isOpen = true
     let rated := v ≤ 200000 ∧ 256 ≤ r ∧ r ≤ 2 ^ 24 ∧ m < 2 ^ 20
     (s.issues e c w 0x48 = true → w.bit 0 = false →
       (v < 2 ^ 12 → may → t.queue v = some y → exec (.lblSet e c) s
         = .next (complete (t.updQueue v (fun y => { y with label := l })) e c Config.OK 0))
       ∧ (v < 2 ^ 12 → may → t.queue v = none → exec (.lblSet e c) s = ends Config.BAD_OPERAND)
       ∧ (bitOf v 12 = true → may → known → exec (.lblSet e c) s
         = .next (complete (t.updSess p n (fun y => { y with label := l })) e c Config.OK 0))
       ∧ (bitOf v 12 = true → may → ¬known → exec (.lblSet e c) s = ends Config.BAD_OPERAND)
       ∧ (2 ^ 13 ≤ v → may → exec (.lblSet e c) s = ends Config.BAD_OPERAND)
       ∧ (¬may → exec (.lblSet e c) s = ends Config.DENIED))
     ∧ (s.issues e c w 0x48 = true → w.bit 0 = true →
       (t.queueAdmin x.queue = true → rated → exec (.lblSetLimit e c) s
         = .next (complete ((indices 20 (bitOf m)).foldl (fun u p => setBucket u p l v r) t) e c Config.OK 0))
       ∧ (t.queueAdmin x.queue = true → ¬rated → exec (.lblSetLimit e c) s = ends Config.BAD_OPERAND)
       ∧ (t.queueAdmin x.queue = false → exec (.lblSetLimit e c) s = ends Config.DENIED)))
  ∧ (∀ (s : State) (e c b : Nat) (w : SWord),
     let t := s.issued e c
     let x := t.ctx e c
     let a := (x.reg w.a).toNat
     let q := (x.reg w.b).toNat
     let y := t.arb a
     let ends := fun (st : Nat) => (.next (complete t e c st 0) : Out)
     let mark := { y with recs := Tbl.put y.recs q { Tbl.getD y.recs q {} with hipri := w.bit 21 } }
     let ok := serves a q = true ∧ (w.bit 21 = true → aheadOf a q = false)
     let quota := 2 ≤ w.fld 10 0 ∧ w.fld 10 0 ≤ 1024 ∧ w.fld 20 11 ≠ 0 ∧ w.fld 20 11 < w.fld 10 0
     let s1 := t.bufStore b (bytesOf (t.arbRecord a q) 32)
     let z := s1.arb a
     (s.issues e c w 0x4E = true →
       (ok → w.bit 22 = false → exec (.arbCfg e c) s = .next (complete (t.putArb a mark) e c Config.OK 0))
       ∧ (ok → w.bit 22 = true → quota → exec (.arbCfg e c) s
         = .next (complete (t.putArb a { mark with k := w.fld 20 11, w := w.fld 10 0 }) e c Config.OK 0))
       ∧ (ok → w.bit 22 = true → ¬quota → exec (.arbCfg e c) s = ends Config.BAD_OPERAND)
       ∧ (¬ok → exec (.arbCfg e c) s = ends Config.BAD_OPERAND))
     ∧ (s.issues e c w 0x4F = true →
       (serves a q = true → t.bufArg x.queue (x.reg w.c) 32 = (b, Config.OK) →
         (w.bit 0 = false → exec (.arbRead e c) s = .next (complete s1 e c Config.OK 0))
         ∧ (w.bit 0 = true → exec (.arbRead e c) s = .next (complete (s1.putArb a { z with
             recs := Tbl.upd z.recs q (fun r => { r with grants := 0, waits := 0, maxWait := 0 }) }) e c Config.OK 0)))
       ∧ (serves a q = false → exec (.arbRead e c) s = ends Config.BAD_OPERAND)
       ∧ (serves a q = true → (t.bufArg x.queue (x.reg w.c) 32).2 ≠ Config.OK →
         exec (.arbRead e c) s = ends (t.bufArg x.queue (x.reg w.c) 32).2)))
  ∧ (∀ (s : State) (a q p us : Nat) (shared : Bool),
     let now := s.regul.refTicks
     let z := s.arb a
     let grant := fun (k : Nat × ArbRec) =>
       if k.1 = q then (k.1, { k.2 with
         grants := (k.2.grants + 1) % 2 ^ 48, last := z.turn + 1
         maxWait := max k.2.maxWait (min 0xFFFFFF (nsOf (now - k.2.pend.headD now))) }.next (k.2.pend.drop 1) now)
       else if k.2.pend.isEmpty then k else (k.1, { k.2 with waits := (k.2.waits + 1) % 2 ^ 48 })
     let z1 := { z with
       recs := z.recs.map grant, turn := z.turn + 1, window := if shared then (q :: z.window).take 1024 else z.window }
     let s1 := count (count s 0x0F (a - 0x40) none 1) 0x10 (a - 0x40) none (z.waiting.length - 1)
     (s.running = true →
       (s.arbPick a = some (q, shared) → a < 0x40 → exec (.arbitrationDecision a) s = .next (s.putArb a z1))
       ∧ (s.arbPick a = some (q, shared) → 0x40 ≤ a →
         exec (.arbitrationDecision a) s = .next ((takeStrmXfer s1 a q).putArb a z1))
       ∧ (s.arbPick a = none → exec (.arbitrationDecision a) s = .next s))
     ∧ (s.running = true → p < s.portCount → 10 < us → exec (.creditWaitRecord p us) s = .next (record
       ((sample s 7 us).updPort p (fun x =>
         { x with crWait := (x.crWait + 1) % 2 ^ 16, maxCrWait := max x.maxCrWait (min us 0xFFFF) })) (Config.evClass 9 0) p))
     ∧ (us ≤ 10 → exec (.creditWaitRecord p us) s = .next s))

/-- LEDG.ADMIT of a block that Table 11-16 allows waits for the swaps of the tables it changes and gives its identifier, or is
refused with what the tests of R272 say (R345); a block that it does not allow is refused with BAD_OPERAND, a write commitment in
READ_ONLY with READ_ONLY, any before calibration with BUSY (R194). LEDG.DROP ends the commitment of an identifier (R274); LEDG.QUERY
stores an account (R346);
SLOT.LOAD loads a shadow table, one that short-changes an owner or spaces the stream class too far only with FORCE, and SLOT.SWAP arms it
(R277, R278); SCRUB.RATE sets the pass time where its charge fits (R213). Operands out of range are refused with
BAD_OPERAND; a reported loss is revalidated (R286). -/
def Obligations.LedgerInstructions : Prop :=
  (∀ (s : State) (e c a d m : Nat) (chans : List Nat) (w : SWord) (u : State) (r : Region),
     let t := s.issued e c
     let x := t.ctx e c
     let h := t.bufNum a 32
     let kind := bitsOf h 9 8
     let rate := bitsOf h 95 64
     let room := bitsOf h 36 32
     let ask : Commit :=
       { label := bitsOf h 5 0, kind := kind, region := bitsOf h 23 16, rate := rate,
         ports := bitsOf h 27 24, headroom := room, owner := some x.queue, gen := 0, stream := none }
     let zeros := bitsOf h 7 6 = 0 ∧ bitsOf h 15 10 = 0 ∧ bitsOf h 31 28 = 0 ∧ bitsOf h 63 37 = 0 ∧ bitsOf h 255 96 = 0
     let ends := fun (st : Nat) => (.next (complete t e c st 0) : Out)
     let late := t.maps.readOnly = true ∧ (kind = 1 ∨ kind = 2)
     let fits := kind ≠ 3 ∧ 1 ≤ room ∧ room ≤ 16 ∧ 1 ≤ rate ∧ rate ≤ 160000 ∧ (kind = 2 → r.mono = true)
     s.issues e c w 0x49 = true → t.bufArg x.queue (x.reg w.a) 32 = (a, Config.OK) →
       (¬zeros → exec (.ledgAdmit e c) s = ends Config.BAD_OPERAND)
       ∧ (zeros → late → exec (.ledgAdmit e c) s = ends Config.READ_ONLY)
       ∧ (zeros → ¬late → t.calibrated = false → exec (.ledgAdmit e c) s = ends Config.BUSY)
       ∧ (zeros → ¬late → t.calibrated = true → t.openRegion ask.region = none →
         exec (.ledgAdmit e c) s = ends Config.BAD_OPERAND)
       ∧ (zeros → ¬late → t.calibrated = true → t.openRegion ask.region = some r →
         (¬fits → exec (.ledgAdmit e c) s = ends Config.BAD_OPERAND)
         ∧ (fits → tryAdmit t ask = .inr (m, chans, u) →
           exec (.ledgAdmit e c) s = .next (waitSwap u e c chans (some (m + 1024 * Tbl.getD u.regul.gens m 0))))
         ∧ (fits → tryAdmit t ask = .inl (Config.LEDGER_FULL, d) →
           exec (.ledgAdmit e c) s = .next (completeD t e c w.d (BitVec.ofNat 64 d) Config.LEDGER_FULL 0))
         ∧ (fits → tryAdmit t ask = .inl (Config.BUSY, d) → exec (.ledgAdmit e c) s = ends Config.BUSY)))
  ∧ (∀ (s : State) (e c b : Nat) (chans : List Nat) (w : SWord) (u : State) (k : Commit),
     let t := s.issued e c
     let x := t.ctx e c
     let v := (x.reg w.a).toNat
     let ends := fun (st : Nat) => (.next (complete t e c st 0) : Out)
     let l := (t.bufBytes b 256).map (·.toNat)
     let loads := fun (forced : List Nat) =>
       (.next (complete (t.updSlots v (fun y => { y with shadow := l, shadowBy := 1, forced := forced })) e c Config.OK 0) : Out)
     let plain := t.shortOwners v l = [] ∧ l.all (fun o => decide (o ≤ 0x41) || o == 0xFF) = true ∧ t.spacingOk v l = true
     let hit := (t.regul.commits.filter (fun p => (t.shortOwners v l).contains p.2.owner' && t.charges p.2 v)).map (·.1)
     (s.issues e c w 0x4A = true →
       (Tbl.find t.regul.commits (v % 1024) = some k → identOf (v % 1024) k = v → dropCommit t (v % 1024) = (u, chans) →
         exec (.ledgDrop e c) s = .next (waitSwap { u with eng := { u.eng with
           streams := u.eng.streams.map (fun p =>
             if p.2.commit = some (v % 1024) then (p.1, { p.2 with commit := none }) else p) } } e c chans none))
       ∧ (Tbl.find t.regul.commits (v % 1024) = some k → identOf (v % 1024) k ≠ v →
         exec (.ledgDrop e c) s = ends Config.BAD_OPERAND)
       ∧ (Tbl.find t.regul.commits (v % 1024) = none → exec (.ledgDrop e c) s = ends Config.BAD_OPERAND))
     ∧ (s.issues e c w 0x4B = true →
       ((v = 16 ∨ v < t.chanCount) → t.bufArg x.queue (x.reg w.b) 128 = (b, Config.OK) →
         exec (.ledgQuery e c) s = .next (complete (t.bufStore b (bytesOf (t.ledgRecord v) 128)) e c Config.OK 0))
       ∧ (v ≠ 16 → t.chanCount ≤ v → exec (.ledgQuery e c) s = ends Config.BAD_OPERAND))
     ∧ (s.issues e c w 0x4C = true → t.bufArg x.queue (x.reg w.b) 256 = (b, Config.OK) →
       (v < t.chanCount → (t.slotsOf v).shadowBy ≠ 2 → plain → exec (.slotLoad e c) s = loads [])
       ∧ (v < t.chanCount → (t.slotsOf v).shadowBy ≠ 2 → ¬plain → w.force = true → exec (.slotLoad e c) s = loads hit)
       ∧ (v < t.chanCount → (t.slotsOf v).shadowBy ≠ 2 → ¬plain → w.force = false →
         exec (.slotLoad e c) s = ends Config.BAD_OPERAND)
       ∧ (v < t.chanCount → (t.slotsOf v).shadowBy = 2 → exec (.slotLoad e c) s = ends Config.BUSY)
       ∧ (t.chanCount ≤ v → exec (.slotLoad e c) s = ends Config.BAD_OPERAND))
     ∧ (s.issues e c w 0x4D = true →
       (v < t.chanCount → (t.slotsOf v).shadowBy ≠ 0 → exec (.slotSwap e c) s
         = .next (suspend (t.updSlots v (fun x => { x with armed := true })) e c (.swap [v] none)))
       ∧ (t.chanCount ≤ v ∨ (t.slotsOf v).shadowBy = 0 → exec (.slotSwap e c) s = ends Config.BAD_OPERAND))
     ∧ (s.issues e c w 0x41 = true →
       let full := (List.range t.chanCount).any (fun ch => (t.chanFails t.regul.commits v ch).isSome)
       let f := t.onMedium (fun m => { m with scrubHours := v })
       (4 ≤ v → v ≤ 720 → full = false → exec (.scrubRate e c) s = .next (complete
         (hs6Swap f ((List.range f.chanCount).filter (fun c => !f.progShadow c))) e c Config.OK 0))
       ∧ (4 ≤ v → v ≤ 720 → full = true → exec (.scrubRate e c) s = ends Config.LEDGER_FULL)
       ∧ (v < 4 ∨ 720 < v → exec (.scrubRate e c) s = ends Config.BAD_OPERAND))
     ∧ (s.running = true → s.flushing = false → 0 < s.regul.losses →
       exec .ledgerRevalidate s = .next (revalidate s)))

/-- The slot table of a channel moves to its next entry; at the wrap an armed shadow becomes live, the old table takes its place, the
commitments that a forced table leaves short are revoked, and instructions that waited for the swap go on (R277 to R279). -/
def Obligations.SlotTablesRotate : Prop :=
  ∀ (s : State) (ch : Nat),
    let x := s.slotsOf ch
    let sw := s.updSlots ch (fun x =>
      { x with live := x.shadow, shadow := x.live, shadowBy := 0, armed := false, entry := 0, forced := [] })
    s.running = true → ch < s.chanCount →
    ((x.entry + 1) % 256 ≠ 0 ∨ x.armed = false →
      exec (.slotEntryElapse ch) s = .next (s.updSlots ch (fun y => { y with entry := (x.entry + 1) % 256 })))
    ∧ ((x.entry + 1) % 256 = 0 → x.armed = true → x.forced = [] →
      exec (.slotEntryElapse ch) s = .next (swapSeen sw ch))
    ∧ ((x.entry + 1) % 256 = 0 → x.armed = true → x.forced ≠ [] →
      exec (.slotEntryElapse ch) s = .next (swapSeen (revoke sw x.forced (some ch)) ch))

/-! ## Keys and cipher (14) -/

/-- KEY.LOAD and KEY.RETIRE complete with what R415, R416 and R436 say of the key; KEY.QUERY reports a key, and refuses a number that is no
key ID. XTS.ENC and XTS.DEC of operands that R437 allows charge their chunks and run, other operands are refused; an encipherment under a
FATAL key completes with KEY_FATAL (R424), either with no pipeline in service with CIPHER_FAULT (R427); a chunk of one that faults twice,
or whose fault leaves no pipeline, ends it with CIPHER_FAULT (R437). -/
def Obligations.KeyInstructions : Prop :=
  ∀ (s : State) (e c d b n st : Nat) (w : SWord) (faults : List Nat),
    let t := s.issued e c
    let x := t.ctx e c
    let k := (x.reg w.a).toNat
    let ends := fun (st : Nat) => (.next (complete t e c st 0) : Out)
    let met := (faults.take 2).foldl cipherFault t
    let runs := fun (u : State) =>
      (.next (xtsRun (count (suspend u e c (.xts d b n 0 false)) 0x13 e none 1) e c d b n 0) : Out)
    (s.issues e c w 0x50 = true →
      exec (.keyLoad e c) s = .next (complete (loadKey t x.queue k (x.reg w.b)).1 e c (loadKey t x.queue k (x.reg w.b)).2 0))
    ∧ (s.issues e c w 0x51 = true → exec (.keyRetire e c) s = .next (complete (retireKey t k).1 e c (retireKey t k).2 0))
    ∧ (s.issues e c w 0x52 = true →
      (k < 64 → exec (.keyQuery e c) s = .next (completeD t e c w.d (t.keyAnswer k) Config.OK 0))
      ∧ (64 ≤ k → exec (.keyQuery e c) s = ends Config.BAD_OPERAND))
    ∧ (s.issues e c w 0x53 = true →
      (xtsArgs t e c w = (d, b, n, st) → st ≠ Config.OK → exec (.xtsEnc e c faults) s = ends st)
      ∧ (xtsArgs t e c w = (d, b, n, Config.OK) → (t.keyRec (w.fld 5 0)).state = 2 →
        exec (.xtsEnc e c faults) s = ends Config.KEY_FATAL)
      ∧ (xtsArgs t e c w = (d, b, n, Config.OK) → (t.keyRec (w.fld 5 0)).state ≠ 2 →
        (t.pipesLeft = false → exec (.xtsEnc e c faults) s = ends Config.CIPHER_FAULT)
        ∧ (t.pipesLeft = true → faults.length < 2 → met.pipesLeft = true → exec (.xtsEnc e c faults) s = runs met)
        ∧ (t.pipesLeft = true → (2 ≤ faults.length ∨ met.pipesLeft = false) →
          exec (.xtsEnc e c faults) s = .next (xtsCut met e c d b n w))))
    ∧ (s.issues e c w 0x54 = true →
      (xtsArgs t e c w = (d, b, n, st) → st ≠ Config.OK → exec (.xtsDec e c) s = ends st)
      ∧ (xtsArgs t e c w = (d, b, n, Config.OK) →
        (t.pipesLeft = false → exec (.xtsDec e c) s = ends Config.CIPHER_FAULT)
        ∧ (t.pipesLeft = true → exec (.xtsDec e c) s = runs t)))

/-- H.REKEY starts the re-key of an open region to another LOADED key and waits, or joins the one that runs to it (R432); batches go on
while pages are left, and
the next one opens when none is (R433); at the end the region's new key commits through the journal, the old key's FLOOR rises and the
waiting contexts go on (R435), of a region dropped meanwhile with BAD_OPERAND (the model's choice, log 24);
H.SECURE_ERASE trims a region and then retires its key (R349); H.KEY_ROLL loads the lowest EMPTY key, then re-keys. -/
def Obligations.RekeyRoutines : Prop :=
  (∀ (s : State) (e c i : Nat) (r : Region) (q : Rekey),
     let t := took s e c
     let x := t.ctx e c
     let g0 := (x.reg 0).toNat
     let g1 := (x.reg 1).toNat
     let ends := fun (st : Nat) => (.next (complete t e c st 0) : Out)
     let start := fun (k : Nat) (n : Nat) (old : Region) => suspend (putKey { t with keys := { t.keys with
       rekey := some ⟨k, old.key, n, old.base, old.base, 0, List.replicate 16 noRfx⟩ } } old.key (t.keyRec old.key)) e c (.rekey k)
     let may := t.openRegion g0 = some r ∧ g1 < 64 ∧ (t.keyRec g1).state ≠ 0 ∧ g1 ≠ r.key
     let y := s.ctx e c
     (s.inHouse e c 7 = true → t.fullService = true →
       (may → (t.keyRec g1).state ≠ 2 → t.keys.rekey = none → exec (.hRekey e c) s = .next (start g0 g1 r))
       ∧ (may → (t.keyRec g1).state ≠ 2 → t.keys.rekey = some q → q.region = g0 → q.new = g1 →
         exec (.hRekey e c) s = .next (suspend t e c (.rekey g0)))
       ∧ (may → (t.keyRec g1).state ≠ 2 → t.keys.rekey = some q → (q.region ≠ g0 ∨ q.new ≠ g1) →
         exec (.hRekey e c) s = ends Config.BUSY)
       ∧ (may → (t.keyRec g1).state = 2 → exec (.hRekey e c) s = ends Config.KEY_FATAL)
       ∧ (t.openRegion g0 = some r → ¬may → exec (.hRekey e c) s = ends Config.BAD_OPERAND)
       ∧ (t.openRegion g0 = none → exec (.hRekey e c) s = ends Config.BAD_OPERAND))
     ∧ (s.inHouse e c 5 = true → t.fullService = true →
       (t.openRegion g0 = some r → y.houseStep = 0 → exec (.hSecureErase e c) s = .next (trimRange t e c r.base r.size false))
       ∧ (t.openRegion g0 = some r → y.houseStep ≠ 0 →
         exec (.hSecureErase e c) s = .next (complete (retireKey t r.key).1 e c (retireKey t r.key).2 0))
       ∧ (t.openRegion g0 = none → exec (.hSecureErase e c) s = ends Config.BAD_OPERAND))
     ∧ (s.inHouse e c 6 = true → t.fullService = true → y.houseStep = 0 →
       (List.range 64).find? (fun k => (t.keyRec k).state == 0) = some i →
       let l := loadKey t x.queue i (x.reg 1)
       let known := g0 < 64 ∧ (t.keyRec g0).state ≠ 0
       (known → ¬(t.keys.rekey.isSome = true ∧ (t.nextBound g0).isSome = true) →
         exec (.hKeyRoll e c) s = .next (complete (l.1.updCtx e c (fun y => { y with lastArg := i })) e c l.2 0))
       ∧ (known → t.keys.rekey.isSome = true → (t.nextBound g0).isSome = true → exec (.hKeyRoll e c) s = ends Config.BUSY)
       ∧ (¬known → exec (.hKeyRoll e c) s = ends Config.BAD_OPERAND))
     ∧ (s.inHouse e c 6 = true → y.houseStep ≠ 0 →
       (t.nextBound g0 = some i → t.keys.rekey = none → exec (.hKeyRoll e c) s = .next (startRekey t e c i x.lastArg))
       ∧ (t.nextBound g0 = some i → t.keys.rekey = some q →
         exec (.hKeyRoll e c) s = .next (complete (retireKey t x.lastArg).1 e c Config.BUSY 0))
       ∧ (t.nextBound g0 = none → exec (.hKeyRoll e c) s = ends Config.OK)))
  ∧ (∀ (s u : State) (r : Region) (k : Rekey) (found : List (Nat × Decoded)),
     let left := (s.mappedIn k.lo k.hi).filter (fun p => !s.batchDone k p)
     let own := fun (p : Nat) => decide (r.base ≤ p * 4096) && decide (p * 4096 < r.base + r.size)
     s.live = true → s.keys.rekey = some k →
     (s.fullService = true → s.pipesLeft = true → s.region k.region = some r →
       (left ≠ [] → exec (.rekeyBatch found) s = .next (left.foldl (rekeyNext found r left.head?) s))
       ∧ (left = [] → k.hi < r.base + r.size → exec (.rekeyBatch found) s = .next (openBatch found s k r)))
     ∧ (s.region k.region = some r → r.base + r.size ≤ k.hi → left = [] → s.maps.moves.any (fun p => own p.1) = false →
       s.journaling = false → commitKeyId (raiseFloor s k.old) k.region { r with key := k.new } = some u →
       exec .rekeyComplete s = .next (closeRekey (endWalk u k) k.region Config.OK))
     ∧ (s.region k.region = none → exec .rekeyComplete s = .next (closeRekey (endWalk s k) k.region Config.BAD_OPERAND)))

/-! ## Resources, rails, resets by instruction (10, 11, 15) -/

/-- CLAIM takes a resource that is free or its own, with FORCE one that another queue holds, which is told (R315 to R317); FREE
gives it back, its waiters ABORTED; of a resource that another queue holds either completes with CONFLICT, one that Table 10-11 does not
list is refused with BAD_OPERAND, what a TENANT queue may not name with DENIED. RAIL.CFG and THERM.CFG set a rail's policy and the warning,
claiming what they are configured with (R335, R445, R458); RESET of KIND 1 closes a port's sessions
and retrains it, of KIND 2 ends the tasks of another engine unless it holds posted units (R350). -/
def Obligations.SystemInstructions : Prop :=
  ∀ (s : State) (e c h : Nat) (w : SWord) (y : Queue),
    let t := s.issued e c
    let x := t.ctx e c
    let r := w.fld 7 0
    let n := w.fld 3 0
    let p := w.fld 5 4
    let lvl := w.fld 7 0
    let g := w.fld 11 8
    let ends := fun (st : Nat) => (.next (complete t e c st 0) : Out)
    let trig := if w.bit 9 then some (w.fld 11 10) else none
    let want := trig.toList ++ (if w.bit 12 then [0x11] else [])
    let free := want.any (fun r => !t.claimOk x.queue r) = false
    let level := lvl = 0 ∨ (60 ≤ lvl ∧ lvl ≤ 110)
    let reset := ((List.range 8).foldl (fun u n => closeSession u p n) t).updPort p (fun x => (x.sendDown 3).train false)
    let posted := t.eng.ctx.any (fun k => k.1 / 32 == g && !k.2.posted.isEmpty) = true
    (s.issues e c w 0x58 = true → w.force = false →
      (t.mayClaim x.queue r = true → resourceOk r = true → t.claimOk x.queue r = true →
        exec (.claim e c) s = .next (complete (takeRes t x.queue r) e c Config.OK 0))
      ∧ (t.mayClaim x.queue r = true → resourceOk r = true → t.claimOk x.queue r = false →
        exec (.claim e c) s = ends Config.CONFLICT)
      ∧ (t.mayClaim x.queue r = true → resourceOk r = false → exec (.claim e c) s = ends Config.BAD_OPERAND)
      ∧ (t.mayClaim x.queue r = false → exec (.claim e c) s = ends Config.DENIED))
    ∧ (s.issues e c w 0x58 = true → w.force = true →
      (resourceOk r = true → Tbl.find t.eng.claims r = some h → h ≠ x.queue →
        exec (.claimForce e c) s = .next (complete (preempt t e x.queue r h) e c Config.OK 0))
      ∧ (resourceOk r = true → Tbl.find t.eng.claims r = some x.queue → exec (.claimForce e c) s = ends Config.OK)
      ∧ (resourceOk r = true → Tbl.find t.eng.claims r = none →
        exec (.claimForce e c) s = .next (complete (takeRes t x.queue r) e c Config.OK 0))
      ∧ (resourceOk r = false → exec (.claimForce e c) s = ends Config.BAD_OPERAND))
    ∧ (s.issues e c w 0x59 = true →
      (t.mayClaim x.queue r = true → resourceOk r = true →
        (Tbl.find t.eng.claims r = some x.queue →
          exec (.free e c) s = .next (complete (freeClaim (abortWaiters t r) r) e c Config.OK 0))
        ∧ (Tbl.find t.eng.claims r = some h → h ≠ x.queue → exec (.free e c) s = ends Config.CONFLICT)
        ∧ (Tbl.find t.eng.claims r = none → exec (.free e c) s = ends Config.OK))
      ∧ (t.mayClaim x.queue r = true → resourceOk r = false → exec (.free e c) s = ends Config.BAD_OPERAND)
      ∧ (t.mayClaim x.queue r = false → exec (.free e c) s = ends Config.DENIED))
    ∧ (s.issues e c w 0x5A = true →
      (n ≤ 11 → Config.railAllows n p = true → (w.bit 12 = true → t.claimOk x.queue 0x11 = true) →
        exec (.railCfg e c) s = .next (complete ((if w.bit 12 then takeRes t x.queue 0x11 else t).onGoose (fun g => { g with
          rails := updAt g.rails n (fun x => { x with policy := p, group := w.fld 11 8, alert := w.bit 12 }) })) e c Config.OK 0))
      ∧ (n ≤ 11 → Config.railAllows n p = true → w.bit 12 = true → t.claimOk x.queue 0x11 = false →
        exec (.railCfg e c) s = ends Config.CONFLICT)
      ∧ (11 < n ∨ Config.railAllows n p = false → exec (.railCfg e c) s = ends Config.BAD_OPERAND))
    ∧ (s.issues e c w 0x5B = true →
      (level → free → exec (.thermCfg e c) s = .next (complete ((want.foldl (fun t r => takeRes t x.queue r) t).onGoose (fun g =>
        { g with warnLevel := lvl, warnNtf := w.bit 8, warnTrig := trig, warnAlert := w.bit 12, warn := false }))
        e c Config.OK 0))
      ∧ (level → ¬free → exec (.thermCfg e c) s = ends Config.CONFLICT)
      ∧ (¬level → exec (.thermCfg e c) s = ends Config.BAD_OPERAND))
    ∧ (s.issues e c w 0x61 = true → w.fld 1 0 = 1 → t.queue x.queue = some y →
      (p < t.portCount → y.port ≠ p → exec (.resetKind1 e c) s = .next (complete reset e c Config.OK 0))
      ∧ (p < t.portCount → y.port = p → exec (.resetKind1 e c) s = .next reset)
      ∧ (t.portCount ≤ p → exec (.resetKind1 e c) s = ends Config.BAD_OPERAND))
    ∧ (s.issues e c w 0x61 = true → w.fld 1 0 = 2 →
      (g ≠ e → ¬posted → exec (.resetKind2 e c) s
        = .next (complete ((List.range 32).foldl (fun u k => abortCtx u g k) t) e c Config.OK 0))
      ∧ (g ≠ e → posted → exec (.resetKind2 e c) s = ends Config.BUSY)
      ∧ (g = e → exec (.resetKind2 e c) s = ends Config.BAD_OPERAND))

/-! ## Records, counters, NV store (17) -/

/-- EVT.READ stores a recorder block (R497), with SNAP it and PERF.DUMP enter the ring of a queue that has one and may use the dump buffer
(R315, R503); PERF.CFG sets the counters and the
ring of its queue from a block that Table 17-5 allows, claiming the dump buffer for periodic dumps and the ball it triggers (R500), else it
is refused; a periodic dump enters the ring of the queue that holds the dump
buffer; NV.PUT appends a record to both areas and NV.GET reads the one of the highest SEQ, every rejected duplicate recorded (R507, R508),
or finds none. A store that compacts or is unusable, or without room, answers NV.PUT with BUSY (R509; unusable, the model's choice, log
102). An area of the NV store
with fewer than eight erased sectors compacts: the selected records of its oldest sector are appended again and the sector is
erased (R509). -/
def Obligations.RecordInstructions : Prop :=
  (∀ (s : State) (e c a q : Nat) (w : SWord) (r : NvRec),
     let t := s.issued e c
     let x := t.ctx e c
     let v := (x.reg w.a).toNat
     let n := (x.reg w.c).toNat
     let h := t.bufNum a 64
     let sel := (List.range 256).map (fun i => t.bufNum (a + 64 + 4 * i) 4)
     let ends := fun (st : Nat) => (.next (complete t e c st 0) : Out)
     let mine := t.claimOk x.queue 0x10
     let ring := ((t.queue x.queue).bind (·.ring)).isSome
     let dump := fun (kind units : Nat) (body : List Byte) =>
       (.next (complete (ringPut (takeRes t x.queue 0x10) x.queue kind units body) e c Config.OK 0) : Out)
     let trig := if w.bit 1 then some (w.fld 3 2) else none
     let want := (if w.bit 0 then [0x10] else []) ++ trig.toList
     let block := perfBlockOk h sel (w.bit 0) = true ∧ t.bufRange (bufAddr x.queue (bitsOf h 159 128)) (bitsOf h 191 160) = true
     let u := noteRejected t v
     let full := t.recs.nvState = 2 ∨ t.recs.nvState = 3 ∨ t.recs.erased0 < 4 + (nvPlace 1 n t.recs.nvFill0).1
       ∨ t.recs.erased1 < 4 + (nvPlace 1 n t.recs.nvFill1).1
     (s.issues e c w 0x5C = true → w.bit 0 = false →
       (v ≤ 35 → t.bufArg x.queue (x.reg w.b) (t.block v).length = (a, Config.OK) →
         exec (.evtRead e c) s = .next (complete (t.bufStore a (t.block v)) e c Config.OK 0))
       ∧ (35 < v → exec (.evtRead e c) s = ends Config.BAD_OPERAND))
     ∧ ((s.issues e c w 0x5C = true → w.bit 0 = true →
         (mine = true → ring = true → exec (.evtReadSnap e c) s = dump 0x04 195 t.allBlocks)
         ∧ (mine = true → ring = false → exec (.evtReadSnap e c) s = ends Config.BAD_OPERAND)
         ∧ (mine = false → exec (.evtReadSnap e c) s = ends Config.CONFLICT))
       ∧ (s.issues e c w 0x5E = true →
         (mine = true → ring = true → exec (.perfDump e c) s = dump 0x01 33 (t.counterBytes ++ List.replicate 32 0))
         ∧ (mine = true → ring = false → exec (.perfDump e c) s = ends Config.BAD_OPERAND)
         ∧ (mine = false → exec (.perfDump e c) s = ends Config.CONFLICT)))
     ∧ (s.issues e c w 0x5D = true → t.bufArg x.queue (x.reg w.a) 1088 = (a, Config.OK) →
       (block → want.any (fun r => !t.claimOk x.queue r) = false → exec (.perfCfg e c) s
         = .next (complete (perfSet (want.foldl (fun t r => takeRes t x.queue r) t) x.queue h sel (w.bit 0) trig) e c Config.OK 0))
       ∧ (block → want.any (fun r => !t.claimOk x.queue r) = true → exec (.perfCfg e c) s = ends Config.CONFLICT)
       ∧ (¬block → exec (.perfCfg e c) s = ends Config.BAD_OPERAND))
     ∧ (s.live = true → s.recs.ringQ = some q → s.recs.periodMs ≠ 0 → Tbl.find s.eng.claims 0x10 = some q →
       exec .periodicDump s = .next (ringPut s q 0x01 33 (s.counterBytes ++ List.replicate 32 0)))
     ∧ (s.issues e c w 0x5F = true →
       (v < 0xF000 → 1 ≤ n → n ≤ 200 → t.bufArg x.queue (x.reg w.b) n = (a, Config.OK) →
         (¬full → exec (.nvPut e c) s = .next (complete (nvDue (nvAppend t 1 v (t.bufBytes a n))) e c Config.OK 0))
         ∧ (full → exec (.nvPut e c) s = ends Config.BUSY))
       ∧ (0xF000 ≤ v ∨ n = 0 ∨ 200 < n → exec (.nvPut e c) s = ends Config.BAD_OPERAND))
     ∧ (s.issues e c w 0x60 = true →
       (u.recs.selected v = some r → u.bufArg x.queue (x.reg w.b) (max 200 r.data.length) = (a, Config.OK) →
         exec (.nvGet e c) s
           = .next (completeD (u.bufStore a r.data) e c w.d (BitVec.ofNat 64 r.data.length) Config.OK 0))
       ∧ (u.recs.selected v = none → exec (.nvGet e c) s = .next (complete u e c Config.BAD_OPERAND 0))))
  ∧ (∀ s : State,
       let r := s.recs
       let old0 := r.nvHead0 + r.erased0 - 126
       let old1 := r.nvHead1 + r.erased1 - 126
       let again := fun (l : List NvRec) =>
         (l.filter (fun x => r.selected x.id == some x)).foldl (fun t x => nvAppend t x.kind x.id x.data) s
       let erase := fun (l : List NvRec) (f : NvRec → NvRec) => (l.map f).filter (fun x => x.copy0 || x.copy1)
       r.nvState = 2 →
       (r.erased0 < 8 → exec (.nvCompaction 0) s
         = .next (nvDue ((again (r.nv.filter (fun x => x.copy0 && x.sect0 == old0))).onRecs (fun r => { r with
             nv := erase r.nv (fun x => if x.sect0 = old0 then { x with copy0 := false } else x)
             erased0 := r.erased0 + 1 }))))
       ∧ (r.erased1 < 8 → exec (.nvCompaction 1) s
         = .next (nvDue ((again (r.nv.filter (fun x => x.copy1 && x.sect1 == old1))).onRecs (fun r => { r with
             nv := erase r.nv (fun x => if x.sect1 = old1 then { x with copy1 := false } else x)
             erased1 := r.erased1 + 1 })))))

/-! ## Media bus and JTAG (13, 18) -/

/-- An assertion of ALERT_N is counted; a status record of an accepted die is taken and releases ALERT_N; a refused command or an illegal
program in it is counted and recorded
(R392, R403), and a plane that reports PROG_FAIL leaves the frames that it was programming due to retire (Table 7-6b); a JTAG instruction
that Table 16-7 serves is selected, another value is BYPASS (the model's choice, log 28), and a TAP reset selects IDCODE (R528). -/
def Obligations.BusAndTap : Prop :=
  ∀ (s : State) (ch die ir : Nat) (d : BitVec 128),
    let pres := fun (p : Nat) => bitsOf d.toNat (4 * p + 19) (4 * p + 16)
    let t := s.updChan ch (fun c => { c with
      alertN := true, dies := updAt c.dies die (fun x => x.ofStatus d.toNat) })
    let due := ((List.range 4).filter (fun p => pres p == 2)).flatMap (fun p => s.programsOn ch die p)
    let clean := bitsOf d.toNat 47 40 = 0 ∧ ∀ p, p < 4 → pres p ≠ 6 ∧ pres p ≠ 4
    let known := ((s.chan ch).dies.getD die {}).present = true ∧ ((s.chan ch).dies.getD die {}).accepted = true
    (ch < s.chanCount → (s.chan ch).state = 2 →
      (exec (.dieAlert ch) s = .next (s.updChan ch (fun c => { c with alerts := (c.alerts + 1) % 2 ^ 32, alertN := false })))
      ∧ (known → clean → exec (.dieStatusRecord ch die d) s = .next (due.foldl frameDue t))
      ∧ (known → ¬clean → exec (.dieStatusRecord ch die d) s = .next (due.foldl frameDue (record
        (t.updChan ch (fun c => { c with illegal := (c.illegal + 1) % 2 ^ 16 })) (Config.evClass 13 0) ch)))
      ∧ (¬known → exec (.dieStatusRecord ch die d) s = .next s))
    ∧ ((s.rail 0).on = true → (s.rail 2).on = true →
      exec (.jtagInstruction ir) s = .next { s with boot := { s.boot with tapIr := if ir < 6 then ir else 0 } })
    ∧ (exec .jtagTapReset s = .next { s with boot := { s.boot with tapIr := 1 } })

/-! ## Write-back, journal, checkpoints (05, 08) -/

/-- A page with a reason to be written back, no change in flight, no re-key and no blocked map entry is gathered and rewritten
(R122, R144), what the DRAM has lost of it first; its programmed copy waits for its tag slots and then joins the journal (R148, R430), one
that fails to program
moves to the next position of its layout and its frame is due to retire, or is given up where there is none (R143, R225); the steps of an
in-place program of a monotone line follow one another, the last makes the line clean, a failed one leaves it dirty and its frame due (R88,
R164, R225); an open integrity frame closes (R143). -/
def Obligations.WriteBacks : Prop :=
  ∀ (s u : State) (page line ch use nu fx ppn : Nat) (found : List (Nat × Decoded)) (dramBad : List Nat) (m : Move) (l : Snap) (i : LImg),
    let cx := fxOf m.new
    let cc := (s.frame cx).ch
    let n := if m.img.mono then 80 else 16
    let p1 := s.onMedium (fun x => { x with pages := Tbl.put x.pages m.new m.img })
    let p2 := (sampleFree (count p1 0x09 cc none n) 5
      (if (s.frame cx).mode = 2 then pageTriplets (posOf m.new) else n)).onMaps (fun x =>
      { x with moves := Tbl.put x.moves page { m with stage := 1 } })
    let f1 := (s.updFrame cx (fun f => { f with hurt := f.hurt ++ [posOf m.new] })).updChan
      ((s.updFrame cx (fun f => { f with hurt := f.hurt ++ [posOf m.new] })).frame cx).ch
      (fun c => { c with pfail := (c.pfail + 1) % 2 ^ 16 })
    let f2 := f1.onMedium (fun x => { x with
      retireDue := if x.retireDue.contains cx then x.retireDue else x.retireDue ++ [cx] })
    let may := s.wbDue page = true ∧ s.changing page = false ∧ s.rekeying page = false ∧ s.blockedMap page = false
      ∧ s.pipesLeft = true ∧ s.houseRoom = true
    let q1 := fun (k : Nat) => sampleFree (count (updStored s m.new line (fun x => x.after i.plain k)) 0x09 (s.home page) none 1) 5 1
    let q2 := leavePoisonSet (cleanLine (q1 4) l i.plain false m.buf) page (fun l => l == line)
    s.live = true →
    (may → exec (.writeBackStart page found dramBad) s
      = .next (rewritePage (dramLost s (dramBad.filter (fun l => l / 16 == page))) page found false))
    ∧ (¬may → exec (.writeBackStart page found dramBad) s = .next s)
    ∧ (Tbl.find s.maps.moves page = some m → m.stage = 0 → m.old ≠ m.new → s.earlierPage m = false →
      (exec (.pageCopyProgrammed page true) s = .next (pumpAt (releaseTags (skipPair p2 m)) m.new))
      ∧ (m.kind ≠ .rekey → allocUse f2 cc m.use = some (ppn, nu, u) → exec (.pageCopyProgrammed page false) s
        = .next (u.onMaps (fun x => { x with moves := Tbl.put x.moves page { m with new := ppn, use := nu } })))
      ∧ (m.kind ≠ .rekey → allocUse f2 cc m.use = none →
        exec (.pageCopyProgrammed page false) s = .next (settle (dropMove f2 page)))
      ∧ (m.kind = .rekey → exec (.pageCopyProgrammed page false) s = .next (settle (dropWalk f2 cx))))
    ∧ (Tbl.find s.maps.moves page = some m → m.stage = 0 → m.old = m.new →
      m.snap.find? (fun p => p.line == line) = some l → m.img.lines[line % 16]? = some i →
      (∀ k, k = m.step line + 1 → k < 4 → exec (.monotoneProgramDone page line k true) s
        = .next ((q1 k).onMaps (fun x => { x with moves := Tbl.put x.moves page { m with steps := Tbl.put m.steps line k } })))
      ∧ (m.step line = 3 → m.snap.filter (fun p => p.line != line) = [] → exec (.monotoneProgramDone page line 4 true) s
        = .next (settle (dropMove (count q2 0x06 0x3F none 1) page)))
      ∧ (m.step line = 3 → m.snap.filter (fun p => p.line != line) ≠ [] → exec (.monotoneProgramDone page line 4 true) s
        = .next (settle (q2.onMaps (fun x => { x with
            moves := Tbl.put x.moves page { m with snap := m.snap.filter (fun p => p.line != line) } }))))
      ∧ (∀ k, k = m.step line + 1 → k ≤ 4 → exec (.monotoneProgramDone page line k false) s
        = .next (settle (dropMove (programFailed
            (updStored (s.burn 1) m.new line (fun x => x.within i.plain k s.freeVal)) (fxOf m.new)) page))))
    ∧ (useInteg use = true → Tbl.find (s.chan ch).opens use = some fx →
      exec (.integrityFrameClose ch use) s = .next (releaseTags (closeFrame s ch use fx)))

/-- The next journal record, at the next place of the ring (R154), takes up to 20 map entries whose page still holds the PPN they
replace, the others dropped with their copies, or else one region change
(R148, R156), no removal while its pages' trims are pending; its body verified, its seal is programmed after the seal before it (R156); its
seal verified, the record is
committed and its changes take effect (R149); a body or seal whose program fails stands at the next place (R225). A checkpoint starts when
one is asked for or 1,024 journal frames are full, its changed map and directory pages written (R245);
its seal verified, it is the latest root, the journal it covers is released and CKPT completes with its CSEQ (R245, R247). -/
def Obligations.JournalAndCheckpoints : Prop :=
  (∀ (s t : State) (place i : Nat) (x : Option Region) (rest : List (Nat × Option Region)),
     let m := s.maps
     let take := m.jpend.take 20
     let holds := fun (e : JEntry) => s.mapEntry e.page == e.old
     let good := take.filter holds
     let t1 := t.onMaps (fun y => { y with
       jpend := y.jpend.drop 20, moves := good.foldl (fun v e => Tbl.upd v e.page (fun z => { z with stage := 3 })) y.moves })
     let begin := fun (v : State) (r : JRec) =>
       putJournal (v.onMaps (fun y => { y with jbody := some r, jseq := y.jseq + 1 })) r false none
     let t2 := t.onMaps (fun y => { y with jregion := rest })
     let act := match x with
       | none => 2
       | some _ => flag (t2.region i).isSome
     s.live = true → m.jbody = none → s.houseRoom = true → takePlace s = some (place, t) →
     (m.jpend ≠ [] → exec .journalRecordStart s = .next ((take.filter (fun e => s.mapEntry e.page != e.old)).foldl dropStale
       (begin t1 ⟨t1.maps.jseq, good, none, 0, place⟩)))
     ∧ (m.jpend = [] → m.jregion = (i, x) :: rest → (x ≠ none ∨ s.dropPending i = false) →
       exec .journalRecordStart s = .next (begin t2 ⟨t2.maps.jseq, [], some (i, x), act, place⟩))
     ∧ (m.jpend = [] → m.jregion = (i, none) :: rest → s.dropPending i = true → exec .journalRecordStart s = .next s)
     ∧ (m.jpend = [] → m.jregion = [] → exec .journalRecordStart s = .next s))
  ∧ (∀ (s t : State) (r q : JRec),
     let m := s.maps
     let slot := putJournal (sampleFree (count s 0x09 (s.journalChan r) none 1) 5 1) r true none
     s.live = true →
     (m.jbody = some r → m.jseal = none →
       exec (.journalBodyVerified true) s = .next (slot.onMaps (fun m => { m with jbody := none, jseal := some r })))
     ∧ (m.jbody = some r → m.jseal ≠ none → m.jready = none →
       exec (.journalBodyVerified true) s = .next (slot.onMaps (fun m => { m with jbody := none, jready := some r })))
     ∧ (m.jbody = some r → replaceRecord s r = some (q, t) → exec (.journalBodyVerified false) s
       = .next (putJournal (t.onMaps (fun m => { m with jbody := some q })) q false none))
     ∧ (m.jseal = some r → exec (.sealVerified true) s = .next (settle (roEnter (resumeJournal
       (countSeal (commitRecord s r) r) (r.region.map (·.1))))))
     ∧ (m.jseal = some r → replaceRecord s r = some (q, t) → exec (.sealVerified false) s
       = .next (putJournal (t.onMaps (fun m => { m with jseal := some q })) q true none)))
  ∧ (∀ (s t : State) (r : Root),
       let live := s.pers.imageLive
       let s1 := sysLive s.sysNamed (s.onPers (fun p => { p with ckpt := none, roots := r :: p.roots.take 1, cseq := r.cseq }))
       let s2 := releaseJournal (s1.onMaps (fun m =>
         { m with jlog := m.jlog.filter (fun x => decide (r.jseqC < x.jseq))
                  jframes := (m.jlog.filter (fun x => decide (r.jseqC < x.jseq))).length }))
       let due := s.waiters (fun w => w == .ckpt) ≠ [] ∨ 1024 * 512 ≤ s.maps.jframes
       s.live = true →
       (s.pers.ckpt = none → due →
         (writeMapPages (s.onMaps (fun m => { m with changed := [] })) s.maps.changed).bind (fun t => writeDirPages t t.dirsOf) = some t →
         exec .checkpointStart s = .next (t.onPers (fun p => { p with
           ckpt := some { cseq := s.pers.cseq + 1, jseqC := s.committedJseq
                          dirs := (t.maps.mapDir.filter (fun p => decide (0x20000000 ≤ p.1))).map (fun p => (p.1 - 0x20000000, p.2))
                          regions := s.maps.regions
                          doneFseq := if live then (s.tail.map (·.fseq)).getD 0 else 0
                          done := if live then s.doneSlots else [] } })))
       ∧ (s.pers.ckpt ≠ none ∨ ¬due → exec .checkpointStart s = .next s)
       ∧ (s.pers.ckpt = some r →
         exec .checkpointSealVerified s = .next ((s2.waiters (fun w => w == .ckpt)).foldl (fun t k =>
           completeD t (k / 32) (k % 32) (t.wordAt (k / 32) (k % 32)).d (BitVec.ofNat 64 r.cseq) Config.OK 0) s2)))

/-! ## Frames over time (03, 05, 07) -/

/-- The staged page of a T region whose seal is the oldest of its channel, and one of an AUTO region while its channel is over its staging
target, migrates on unowned bandwidth (R150 to R152); a channel goes on with the reclaim of its victim (R159); a due frame without live
pages retires and
MEDIA.RETIRE completes (R142, R225), a journal frame that still serves closes first; the clear of the next frame starts under a new stamp
(R83, R141), and its end makes the frame CLEARED; a clear that fails is issued again, at
the second failure in a row the frame retires (R82, R225); a rebuilt wear tree is valid, unless a node fails parity again (R223, R224). -/
def Obligations.FramesReclaimed : Prop :=
  ∀ (s : State) (page ch fx md i : Nat) (r : Region) (found : List (Nat × Decoded)) (bg bh : List Nat) (bad : Bool),
    let c := s.chan ch
    let w := wornOut s ch
    let hm := s.home page
    let moves := mapped (s.mapEntry page) = true ∧ (s.frame (fxOf (s.mapEntry page))).staged = true ∧ s.unowned hm = true
    let due := (r.density = 1 ∧ s.oldestStaged hm = some page) ∨ (r.density = 2 ∧ (s.chan hm).stagingTarget < s.stagedFrames hm)
    let c1 := headerClear s fx md c.clearStamp
    let c2 := (c1.updFrame fx (fun f => { f with state := 1 })).updChan ch (fun c =>
      { c with clearing := none, cfailRow := 0, cleared := c.cleared ++ [fx], jdirty := c.jdirty.filter (fun x => x != fx) })
    let c3 := (c1.updFrame fx (fun f => { f with state := 6 })).updChan ch (fun c =>
      { c with clearing := none, cfailRow := 0, jdirty := c.jdirty.filter (fun x => x != fx) })
    let b1 := s.updChan ch (fun c => { c with cfail := (c.cfail + 1) % 2 ^ 16, cfailRow := c.cfailRow + 1 })
    s.live = true →
    (s.regionOfPage page = some (i, r) →
      (moves → due → exec (.migrationStart page found) s = .next (copyPage s page .migration 2 found))
      ∧ (¬(moves ∧ due) → exec (.migrationStart page found) s = .next s))
    ∧ (ch < s.chanCount → c.victim = some fx → exec (.reclaimStart ch found) s = .next (reclaimFrame s fx found))
    ∧ (s.medium.retireDue.contains fx = true →
      (s.journalHolds fx = true → exec (.frameRetire fx found) s
        = .next (s.onMaps (fun m => { m with jopen := m.jopen.filter (fun o => o.1 != fx) })))
      ∧ (s.journalHolds fx = false → (s.frame fx).live ≠ 0 → exec (.frameRetire fx found) s = .next (moveFrame s fx found))
      ∧ (s.journalHolds fx = false → (s.frame fx).live = 0 → (s.frame fx).pins = 0 → s.copiesInto fx = false →
        exec (.frameRetire fx found) s = .next (retireFrame s fx)))
    ∧ (ch < s.chanCount → c.clearing = none → s.pers.rebuild = 11 → s.houseRoom = true →
      (w.clearPick ch = some (fx, md) → exec (.frameClearStart ch) s = .next ((issueClear w ch fx md).updChan ch (fun c =>
        { c with
          cfailRow := 0, free := c.free.filter (fun x => x != fx)
          worn := if c.static.isSome && !c.jdirty.contains fx then c.worn ++ [fx] else []
          virgin := if c.nextVirgin = some fx then fx + 1 else c.virgin })))
      ∧ (w.clearPick ch = none → exec (.frameClearStart ch) s = .next w))
    ∧ (c.clearing = some (fx, md) →
      (c.jdirty.contains fx = false →
        exec (.clearDone ch true bad) s = .next (settle (roExit (pumpDies (afterClear c2 ch fx bad)))))
      ∧ (c.jdirty.contains fx = true →
        exec (.clearDone ch true bad) s = .next (settle (roExit (pumpDies (afterClear c3 ch fx bad)))))
      ∧ ((b1.chan ch).cfailRow < 2 → exec (.clearDone ch false bad) s = .next (issueClear b1 ch fx md))
      ∧ (2 ≤ (b1.chan ch).cfailRow →
        exec (.clearDone ch false bad) s = .next (retireFrame (b1.updChan ch (fun c => { c with clearing := none })) fx)))
    ∧ (s.running = true → c.treeValid = false →
      (exec (.treeRebuilt ch false bg bh) s
        = .next (treeBuild ((groupRepair s ch bg bh).updChan ch (fun c => { c with treeValid := true })) ch))
      ∧ (exec (.treeRebuilt ch true bg bh) s = .next (record (s.updChan ch (fun c => { c with treeValid := false }))
        (Config.evClass 7 1) ch)))

/-- A scrub pass starts when it is due, and a channel still in its last one is behind (R210, R214); the page at the head of the
relocation queue is copied on its channel's turn, an entry that its page has left is dropped (R205); the frame of the oldest patch entry is
emptied (R208); then cleared and tested: a slot that reads back
with two corrected bits or fewer frees the entry, another retires the frame, and one whose wear the clear would take past 1 is not cleared
(R101, R208); the stamp table grows every 3,600 s (R215); an operating second counts
while power is up, and takes the passes on (R487). -/
def Obligations.ScrubAndRepair : Prop :=
  ∀ (s : State) (ch : Nat) (d : Decoded) (bad : Bool) (x : Reloc) (xs : List Reloc) (p : Patch) (ps : List Patch)
    (found : List (Nat × Decoded)) (hdrs : List Nat) (shifts : List (Nat × Nat)),
    let c := s.chan ch
    let due := s.recs.opsec + 3600 * s.medium.scrubHours
    let q0 := if c.scrubPairsFirst then queueTorn s ch else s
    let rot := if s.relocNext = some ch then s.onMedium (fun m => { m with relocLast := ch }) else s
    let fx := fxOf p.ppn
    let f := s.frame fx
    let mode := if f.mode = 2 then 2 else 1
    let r1 := headerClear (s.onMedium (fun m =>
      { m with
        stampNext := m.stampNext + 1, pages := m.pages.filter (fun q => fxOf q.1 != fx)
        sysPages := m.sysPages.filter (fun q => fxOf q.1 != fx)
        patterns := Tbl.put m.patterns fx (patternSlots f.mode (posOf p.ppn) p.line) })) fx mode s.medium.stampNext
    let r2 := afterClear (r1.updFrame fx (fun f => { f with state := 0 })) ch fx bad
    let r3 := r2.updChan ch (fun c => { c with patches := ps })
    let good := ∃ b, d = .ok b ∧ b ≤ 2
    let fit := ((s.descOf f).map (fun ds => wearOk ds f mode)).getD false
    let o1 := secondSamples (headerUpdate (s.onRecs (fun r => { r with opsec := (r.opsec + 1) % 2 ^ 40 })))
    let o2 := { o1 with keys := { o1.keys with pipes := o1.keys.pipes.map (fun n => if n < 3 then 0 else n) } }
    let o3 := o2.onMedium (fun m => { m with
      chans := m.chans.map (fun c => if c.calLoaded then { c with calAge := min 0xFFFF (c.calAge + 1) } else c) })
    let tick := .operatingSecond found hdrs shifts
    (s.live = true → ch < s.chanCount → c.scrubDue ≤ s.recs.opsec →
      (c.scrubCursor = none → exec (.scrubPassStart ch) s = .next (q0.updChan ch (fun c => { c with
        scrubCursor := some c.first, scrubDue := due, scrubStart := s.recs.opsec, scrubPairsFirst := false
        passHours := s.medium.scrubHours })))
      ∧ (c.scrubCursor ≠ none → exec (.scrubPassStart ch) s
        = .next (record (s.updChan ch (fun c => { c with behind := true, scrubDue := due })) (Config.evClass 7 0) ch)))
    ∧ (s.live = true → s.relocTurn ch = true → c.relocs = x :: xs →
      (rot.mapEntry x.page = x.ppn → exec (.relocationStart ch found) s
        = .next (copyPage rot x.page .relocation (rot.frame (fxOf x.ppn)).mode found))
      ∧ (rot.mapEntry x.page ≠ x.ppn →
        exec (.relocationStart ch found) s = .next (rot.updChan ch (fun c => { c with relocs := xs }))))
    ∧ (s.live = true → s.fullService = true → c.patches = p :: ps →
      exec (.patchFrameMove ch found) s = .next (moveFrame (s.updChan ch (fun c =>
        { c with patches := updAt c.patches 0 (fun x => { x with moving := true }) })) fx found))
    ∧ (s.live = true → c.patches = p :: ps → p.moving = true → f.live = 0 → f.pins = 0 → f.state ≠ 2 → s.copiesInto fx = false →
      (fit = false → exec (.patchRepairCheck ch d bad) s = .next (retireFrame s fx))
      ∧ (fit = true → good → ps.any (fun q => fxOf q.ppn == fx) = false →
        exec (.patchRepairCheck ch d bad) s = .next (r3.updChan ch (fun c => { c with free := c.free ++ [fx] })))
      ∧ (fit = true → good → ps.any (fun q => fxOf q.ppn == fx) = true →
        exec (.patchRepairCheck ch d bad) s = .next r3)
      ∧ (fit = true → ¬good → exec (.patchRepairCheck ch d bad) s = .next (retireFrame r2 fx)))
    ∧ (s.live = true →
      ((∀ e, s.medium.stamps.getLast? = some e → e.1 + 3600 ≤ s.recs.opsec) → exec .stampTableAppend s = .next
        (s.onMedium (fun m => { m with
          stamps := (if 4096 ≤ m.stamps.length then m.stamps.drop 1 else m.stamps) ++ [(s.recs.opsec, m.stampNext - 1)] })))
      ∧ (∀ e, s.medium.stamps.getLast? = some e → s.recs.opsec < e.1 + 3600 → exec .stampTableAppend s = .next s))
    ∧ (s.goose.upStep = 8 → s.goose.downStep = 0 → s.boot.cold ≠ 2 →
      (o3.live = true → o3.pers.rebuild = 11 →
        exec tick s = .next ((List.range o3.chanCount).foldl (scrubSecond ⟨found, hdrs, shifts⟩) o3))
      ∧ (o3.live = false ∨ o3.pers.rebuild ≠ 11 → exec tick s = .next o3))

/-! ## Resets, H.INIT, H.FORMAT, H.REBUILD (10, 16) -/

/-- RESET of KIND 0: with FORCE at once, else it is requested (R254, R255, R350), a KIND that is reserved is refused. RESET_N low takes a running device down, during a flush or a power-down the pin alone changes (R237,
R473); its rise opens the strap window unless VDD_IO is out of range (R465, R473); a reset that waits 40 ms for its flush resets every block
but the flush domain (R254). -/
def Obligations.DeviceResets : Prop :=
  ∀ (s : State) (e c : Nat) (w : SWord),
    let t := s.issued e c
    let b := s.boot
    (s.issues e c w 0x61 = true →
      (w.fld 1 0 = 0 → w.force = true → exec (.resetKind0 e c) s = .next (forcedReset t))
      ∧ (w.fld 1 0 = 0 → w.force = false → 0 < t.cache.dirty → exec (.resetKind0 e c) s
        = .next { startFlush t 4 with boot := { (startFlush t 4).boot with resetWait := 1 } })
      ∧ (w.fld 1 0 = 0 → w.force = false → t.cache.dirty = 0 → exec (.resetKind0 e c) s
        = .next (deviceReset { t with ports := t.ports.map (fun p => if p.up then p.sendDown 2 else p) }))
      ∧ (w.fld 1 0 = 3 → exec (.resetKind0 e c) s = .next (complete t e c Config.BAD_OPERAND 0)))
    ∧ (s.goose.upStep = 8 → s.flushing = false → s.goose.downStep = 0 →
      exec .resetNLow s = .next (forcedReset { s with boot := { b with resetN := false } }))
    ∧ (s.goose.upStep ≠ 8 ∨ s.flushing = true ∨ s.goose.downStep ≠ 0 →
      exec .resetNLow s = .next { s with boot := { b with resetN := false } })
    ∧ (s.goose.upStep = 8 → b.inReset = true → s.ioBad = false →
      exec .resetNRise s = .next { s with boot := { b with resetN := true, inReset := false, strapWindow := true } })
    ∧ (s.goose.upStep ≠ 8 ∨ b.inReset = false ∨ s.ioBad = true →
      exec .resetNRise s = .next { s with boot := { b with resetN := true } })
    ∧ (s.flushing = true → b.resetWait = 1 → exec .resetFlushTimeout s = .next { s with
        boot := { b with resetWait := 2, full := false, irqCause := 0, irqEn := 0, patch := false }
        eng := { timers := List.replicate 8 {}, trig := [0, 0, 0, 0] }
        ports := s.ports.map Port.afterReset
        regul := { s.regul with buckets := [], held := [], portHeld := [], arbs := [] }
        recs := s.recs.afterReset })

/-- H.INIT sets the defaults and the spreads that g0 gives, turns a cache that is off on, swaps the slot tables and releases the requests
held at a bucket (R107, R218, Table 10-10), or is refused as a whole; H.FORMAT of a device that has no system frames yet formats it and
defines region 0 (R43, R136, R139,
R140), on a formatted device it defines region 0 where RGN.DEF would, under a key that is not LOADED it is refused, and while a region
change waits for its record it waits its turn (R332); H.REBUILD reads the map again (R248). None runs before full service (R328). -/
def Obligations.HouseRoutines : Prop :=
  ∀ (s : State) (e c a b k : Nat),
    let u := took s e c
    let x := u.ctx e c
    let g0 := (x.reg 0).toNat
    let t := (initDefaults u).onMedium (fun x => { x with spreadS := a, spreadT := b })
    let swap := fun (t : State) => (.next (complete (hInit.releaseWaiting
      (hs6Swap t ((List.range t.chanCount).filter (fun c => !t.progShadow c)))) e c Config.OK 0) : Out)
    let excess := (List.range u.chanCount).any (fun ch => (u.chanFails u.regul.commits 24 ch).isSome) = true
    let ends := fun (st : Nat) => (.next (complete u e c st 0) : Out)
    let ms := u.freeVal % 2 ^ 16
    (s.inHouse e c 1 = true →
      (spreadsOf g0 = none → exec (.hInit e c) s = ends Config.BAD_OPERAND)
      ∧ (spreadsOf g0 = some (a, b) → u.fullService = false → exec (.hInit e c) s = ends Config.NOT_READY)
      ∧ (spreadsOf g0 = some (a, b) → u.fullService = true →
        (excess → exec (.hInit e c) s = ends Config.LEDGER_FULL)
        ∧ (¬excess → u.cache.on = true → exec (.hInit e c) s = swap t)
        ∧ (¬excess → u.cache.on = false → u.cache.invalAll = true → exec (.hInit e c) s = swap (turnOn t))
        ∧ (¬excess → u.cache.on = false → u.cache.invalAll = false → exec (.hInit e c) s = ends Config.BAD_OPERAND)))
    ∧ (s.inHouse e c 2 = true → s.rgnTurn = true → g0 = k →
      (u.fullService = false → exec (.hFormat e c) s = ends Config.NOT_READY)
      ∧ (u.fullService = true → (64 ≤ k ∨ (u.keyRec k).state = 0) → exec (.hFormat e c) s = ends Config.BAD_OPERAND)
      ∧ (u.fullService = true → k < 64 → (u.keyRec k).state = 2 → exec (.hFormat e c) s = ends Config.KEY_FATAL)
      ∧ (u.fullService = true → k < 64 → (u.keyRec k).state ≠ 0 → (u.keyRec k).state ≠ 2 →
        (u.boot.sysFrames = false → u.dieHcap ≠ 0 →
          exec (.hFormat e c) s = .next (journalRegion (formatDevice u) e c 0 (some (formatRegion u.dieHcap k))))
        ∧ (u.boot.sysFrames = false → u.dieHcap = 0 → exec (.hFormat e c) s = ends Config.BAD_OPERAND)
        ∧ (u.boot.sysFrames = true → u.defCheck 0 (formatRegion u.maps.hcap k) = Config.OK →
          exec (.hFormat e c) s = .next (journalRegion u e c 0 (some (formatRegion u.maps.hcap k))))
        ∧ (u.boot.sysFrames = true → u.defCheck 0 (formatRegion u.maps.hcap k) ≠ Config.OK →
          exec (.hFormat e c) s = ends (u.defCheck 0 (formatRegion u.maps.hcap k)))))
    ∧ (s.inHouse e c 2 = true → s.rgnTurn = false → exec (.hFormat e c) s = .next s)
    ∧ (s.inHouse e c 9 = true →
      (u.fullService = true → exec (.hRebuild e c) s = .next (complete (sample
        (((u.burn 1).onMaps (fun m => { m with map := u.replay (fun _ => true) })).onPers (fun p =>
          { p with rebuildMs := ms })) 13 ms) e c Config.OK 0))
      ∧ (u.fullService = false → exec (.hRebuild e c) s = ends Config.NOT_READY))

/-! ## Supervision (15) -/

/-- The SMBus blocks STATUS and TEMPS answer with their bytes (R462, Tables 15-8, 15-9); the alert is released by a clear and by
an alert response (R463); RESTART of 0x5A clears lockout and a cut-all stop; any other byte and any other command are refused
with a NACK (R462). -/
def Obligations.SmbusCommands : Prop :=
  ∀ (s : State) (v cmd : Byte),
    let g := s.goose
    s.goose.vaux = true →
    (exec .smbStatus s = .next (s.onGoose (fun g => { g with smbOut := bytesOf s.smbStatusNum 16, smbNack := false })))
    ∧ (exec .smbTemps s = .next (s.onGoose (fun g => { g with
        smbOut := g.sites.flatMap (fun x => bytesOf (BitVec.ofInt 16 x.temp).toNat 2), smbNack := false })))
    ∧ (exec .smbAlertClr s = .next (s.onGoose (fun g => { g with smbAlert := false, smbNack := false })))
    ∧ (g.smbAlert = true →
      exec .smbAlertResponse s = .next (s.onGoose (fun g => { g with smbAlert := false, smbNack := false })))
    ∧ (g.smbAlert = false → exec .smbAlertResponse s = .next s)
    ∧ (exec (.smbRestart 0x5A) s = .next (s.onGoose (fun g => { g with
        lockout := false, cutAll := false, smbNack := false, phase := if g.phase = 7 then 0 else g.phase })))
    ∧ (v ≠ 0x5A → exec (.smbRestart v) s = .next (s.onGoose (fun g => { g with smbNack := true })))
    ∧ (cmd = 0 ∨ 4 < cmd.toNat → exec (.smbNack cmd) s = .next (s.onGoose (fun g => { g with smbNack := true })))

/-- Power-up enables the rails of step 1 and, step by step, the next ones, after the last one the core is powered (R443, R449); a
rail that is not good in time, or whose PG falls, is a rail fault (R443, R444), and so is one whose PG chatters during power-up; PG of a rail
that power-down has switched off is noted (R452); a rail after its RETRY is enabled again, its
incident ends after a second (R445). A sample of the sense inputs enters the registers; rails three samples out of their window
are in fault (R444); a falling PFAIL_N or VIN_SNS below 0.80 V starts the flush of a running device (R236, R448), during power-up
it begins power-down (R475); a collapse of VAUX switches everything off and loses the island's state, above 3.00 V the island
starts from reset (R440). -/
def Obligations.RailsAndSupply : Prop :=
  (∀ (s : State) (mv n chatter : Nat) (level : Bool),
     let g := s.goose
     let k := g.upStep
     let pg := s.updRail n (fun x => { x with pg := level, chat := chatter })
     let powering := k ≠ 0 ∧ k ≠ 8
     let up := (s.onGoose (fun g => { g with
       upStep := 1, phase := 1, pfailN := true, vinGood := true, vinMv := mv, wedge := false, faultStart := 0
       rails := g.rails.mapIdx (fun i x =>
         { x with policy := (Config.railDefault i).1, group := (Config.railDefault i).2 }) }))
     let ready := (stepRails k).all (fun n => (s.rail n).good || (s.rail n).stayOff) = true
     (g.vaux = true → k = 0 → g.downStep = 0 → g.lockout = false → g.cutAll = false → g.thermalStop = false → 900 ≤ mv →
       exec (.powerUpStart mv) s = .next ((stepRails 1).foldl (fun t n => t.updRail n (fun x => x.switch true)) up))
     ∧ (1 ≤ k → k < 7 → g.downStep = 0 → ready →
       exec .powerUpStep s = .next ((stepRails (k + 1)).foldl (fun t n => t.updRail n (fun x => x.switch true))
         (s.onGoose (fun g => { g with upStep := k + 1 }))))
     ∧ (k = 7 → g.downStep = 0 → ready →
       exec .powerUpStep s = .next { s with
         goose := { g with upStep := 8 }
         boot := { s.boot with stage := 1, inReset := !s.boot.resetN, strapWindow := s.boot.resetN } })
     ∧ ((s.rail n).on = true → (s.rail n).ramp = true → (s.rail n).good = false →
       exec (.railEnableTimeout n) s = .next (railFaults s [n]))
     ∧ (g.vaux = true → n < 12 → n < g.rails.length →
       ((s.rail n).on = true → level = false → (s.rail n).ramp = false →
         exec (.railPgChange n level chatter) s = .next (railFaults pg [n]))
       ∧ ((s.rail n).on = true → powering → 8 < chatter → exec (.railPgChange n level chatter) s = .next (railFaults pg [n]))
       ∧ ((s.rail n).on = true → (level = true ∨ (s.rail n).ramp = true) → ¬(powering ∧ 8 < chatter) →
         exec (.railPgChange n level chatter) s = .next (railClear pg n))
       ∧ ((s.rail n).on = false → level = true → g.downStep ≠ 0 → (s.rail n).inFault = false →
         exec (.railPgChange n level chatter) s = .next (noteFault pg n))
       ∧ ((s.rail n).on = false → level = true → g.downStep ≠ 0 → (s.rail n).inFault = true →
         exec (.railPgChange n level chatter) s = .next pg)
       ∧ ((s.rail n).on = false → (level = false ∨ g.downStep = 0) →
         exec (.railPgChange n level chatter) s = .next (railClear pg n)))
     ∧ ((s.rail n).retryOff = true → exec (.railRetryExpiry n) s
         = .next (s.updRail n (fun x => { x.switch true with retryOff := false })))
     ∧ ((s.rail n).incident = true → (s.rail n).good = true →
       exec (.railIncidentEnd n) s = .next (s.updRail n (fun x => { x with incident := false, retries := 0 }))))
  ∧ (∀ (s : State) (mvs : List Nat) (vin vaux mv : Nat),
       let g := s.goose
       let t := s.onGoose (fun g =>
         { g with rails := g.rails.mapIdx (fun i x => x.sampleSense i (mvs.getD i 0)), vinMv := vin, vauxMv := vaux })
       let off := powerLoss (cutFlush s) 7
       let low := s.onGoose (fun g => { g with pfailN := false })
       let dip := s.onGoose (fun g => { g with vinGood := false, vinMv := mv })
       let calm := g.upStep = 0 ∨ g.downStep ≠ 0 ∨ s.flushing = true
       (g.vaux = true → exec (.railSenseSample mvs vin vaux) s = .next (railFaults ((List.range 12).foldl railClear t)
         (indices 12 (fun n => (t.rail n).on && !(t.rail n).ramp && decide (3 ≤ (t.rail n).bad)))))
       ∧ (g.vaux = true → ¬calm → s.running = true → exec .pfailNFall s = .next (startFlush low 1))
       ∧ (g.vaux = true → ¬calm → s.running = false → exec .pfailNFall s = .next (beginPowerDown low 1))
       ∧ (g.vaux = true → calm → exec .pfailNFall s = .next low)
       ∧ (g.vaux = true → mv < 800 → ¬calm → s.running = true → exec (.vinSnsLow mv) s = .next (startFlush dip 2))
       ∧ (g.vaux = true → mv < 800 → ¬calm → s.running = false → exec (.vinSnsLow mv) s = .next (beginPowerDown dip 1))
       ∧ (g.vaux = true → mv < 800 → calm → exec (.vinSnsLow mv) s = .next dip)
       ∧ (g.vaux = true → mv < 2900 → exec (.vauxCollapse mv) s = .next { off with
           goose := { vaux := false, vauxMv := mv, rails := (List.range 12).map Rail.reset, sites := List.replicate 8 {}
                      pfailN := g.pfailN, vinGood := g.vinGood, lastCause := if g.upStep ≠ 0 then 7 else 0 } })
       ∧ (g.vaux = false → 3000 < mv → exec (.vauxRise mv) s = .next (s.onGoose (fun g => { g with vaux := true, vauxMv := mv }))))

/-! ## Starts and temperature (15, 16, 08) -/

/-- Eight equal samples of valid straps end the strap window and let phase 2 begin; samples that differ, a reserved value or
STRAP_TEST high are a strap fault (R465, R467, R468); a phase that has done its work hands over to the next, phase 2 through the
bring-up of the device, before the last one the ports retrain at 56 GBd, the last one goes into full service (R482, R485); the rebuild goes
on step by step (R248): the group records and the trees, the records, the directory, the journal, the image, the map pages, the frame
records, the lines restored late; the image retired
and the reserve verified, the cache goes write-back (R252). -/
def Obligations.StartPhases : Prop :=
  ∀ (s : State) (w v : BitVec 13) (n ms m : Nat) (lost bad ord : List Nat) (env : StartEnv),
    let b := s.boot
    let p := s.pers
    let closed := { s with boot := { b with strapWindow := false } }
    let idle := s.flushing = false ∧ s.goose.downStep = 0 ∧ s.goose.stopping = false ∧ s.goose.upStep = 8
    let go := fun (k : Nat) => { s with boot := { b with stage := k } }
    let at' := fun (k : Nat) (t : State) => (.next (t.onPers (fun p => { p with rebuild := k })) : Out)
    let late := restoreLate s
    (b.strapWindow = true →
      ((strapsOf w).ok = true → exec (.strapWindowEnd (List.replicate (n + 1) w)) s = .next { closed with
        boot := { closed.boot with straps := strapsOf w, strapFault := false, stage := 2 } })
      ∧ ((strapsOf w).ok = false → exec (.strapWindowEnd (List.replicate (n + 1) w)) s
        = .next (strapFail { closed with boot := { closed.boot with straps := strapsOf w } }))
      ∧ (v ≠ w → exec (.strapWindowEnd (w :: List.replicate (n + 1) v)) s = .next (strapFail closed)))
    ∧ (idle →
      (b.stage = 2 → b.strapFault = false → exec (.startPhaseDone env) s = .next (bringUp s env))
      ∧ (b.stage = 3 → b.mismatch = false → p.rebuild ≠ 0 → exec (.startPhaseDone env) s = .next (go 4))
      ∧ (b.stage = 4 → p.rebuild = 11 → exec (.startPhaseDone env) s = .next (go 5))
      ∧ (b.stage = 5 → (p.reserveOk = true ∨ b.sysFrames = false) → exec (.startPhaseDone env) s = .next { go 6 with
          ports := s.ports.map (fun x => if x.up && !x.fell then { x.train true with rate56 := true } else x) })
      ∧ (b.stage = 6 → exec (.startPhaseDone env) s = .next (irq (notifyDevice { go 7 with
          boot := { b with stage := 7, full := true }, goose := { s.goose with phase := 3 } } Config.OK 1 true) 0)))
    ∧ (s.live = true →
      (p.rebuild = 1 → exec (.rebuildStepDone lost ms) s = at' 2 ((List.range s.chanCount).foldl (fun t c =>
        treeBuild (groupRepair (groupsBuild (t.updChan c (fun x => { x with treeValid := decide (0 < x.count) })) c) c [] lost) c) s))
      ∧ (p.rebuild = 2 → exec (.rebuildStepDone lost ms) s = at' 3 (rebuildRecords s lost))
      ∧ (p.rebuild = 3 → exec (.rebuildStepDone lost ms) s = at' 4 (rebuildDirectory s))
      ∧ (p.rebuild = 4 → exec (.rebuildStepDone lost ms) s = at' 5 (recoverRecords s lost))
      ∧ (p.rebuild = 5 → exec (.rebuildStepDone lost ms) s = at' 6 (rebuildImage s lost))
      ∧ (6 ≤ p.rebuild → p.rebuild ≤ 8 → p.order = m :: ord → exec (.rebuildStepDone lost ms) s = .next (rebuildPage s m))
      ∧ (6 ≤ p.rebuild → p.rebuild ≤ 8 → p.order = [] → exec (.rebuildStepDone lost ms) s = at' 9 s)
      ∧ (p.rebuild = 9 → exec (.rebuildStepDone lost ms) s
        = .next (serveWrites ((rebuildFrames s).onPers (fun p => { p with rebuild := 10 }))))
      ∧ (p.rebuild = 10 → late.pers.toRestore = [] → exec (.rebuildStepDone lost ms) s
        = .next (roEnter (serveWrites (serveReads (sample ((late.onPers (fun p =>
            { p with rebuildMs := min ms 0xFFFF })).onPers (fun p => { p with rebuild := 11 })) 13 ms) (fun _ => true)))))
      ∧ (p.rebuild = 10 → late.pers.toRestore ≠ [] → exec (.rebuildStepDone lost ms) s = .next late))
    ∧ (s.live = true → b.stage = 5 → p.restoredLines = [] → p.toRestore = [] → p.reserveOk = false → b.sysFrames = true →
      exec (.restoredLinesSealed bad) s = .next (enterWriteBack (bad.foldl replaceReserve (clearReserves (s.onPers (fun p =>
        { p with
          retiredFseq := if p.imageLive then max p.retiredFseq s.imageOf.1 else p.retiredFseq
          image := [], manifest := none, manifestB := none, mapImage := [], imageLive := false }))))))

/-- A temperature sample enters the registers (R454), and while the device serves drives the warning of THERM.CFG (R458); a site at 115.0 °C
or more on two samples in a row trips the device (R456), one at 110.0 °C stops it in order before full service and while the TAP holds a
boundary instruction (R457);
an orderly stop that has drained flushes its dirty lines or powers down (R457); a device that has cooled may restart (R458); a
sequencer that stays silent is a wedge (R460). -/
def Obligations.Temperatures : Prop :=
  ∀ (s : State) (temps : List Int) (speeds : List Nat) (hs : Nat),
    let g := s.goose
    let t := s.onGoose (fun g => g.takeTemps temps speeds (s.rail 0).good)
    let site := t.goose.sites
    let hit := t.goose.warnLevel != 0 && site.any (fun x => decide (16 * (t.goose.warnLevel : Int) < x.temp))
    let warned := if t.serves = false ∨ hit = t.goose.warn then t else if hit then warnRaise t else warnClear t
    let hot := site.any (fun x => decide (2 ≤ x.over115)) = true ∧ g.downCause ≠ 2
    let warm := site.any (fun x => decide (2 ≤ x.over110)) = true
    let stops := g.stopping = false ∧ g.downCause = 0 ∧ t.flushing = false ∧ g.downStep = 0
      ∧ (t.boot.full = false ∨ 1 < t.boot.tapIr)
    let drained := match s.maps.jseal with
      | some r => commitRecord s r
      | none => s
    let wedge := fun (d : Nat) => (.next (irq (record (s.onGoose (fun g =>
      { g with wedge := true, alive := false, smbAlert := true })) (Config.evClass 15 1) d) 5) : Out)
    (g.vaux = true →
      (g.upStep = 0 → exec (.tempSample temps speeds) s = .next warned)
      ∧ (g.upStep ≠ 0 → hot → exec (.tempSample temps speeds) s = .next (trip warned))
      ∧ (g.upStep ≠ 0 → ¬hot → warm → stops → exec (.tempSample temps speeds) s = .next (orderlyStop warned))
      ∧ (g.upStep ≠ 0 → ¬hot → ¬(warm ∧ stops) → exec (.tempSample temps speeds) s = .next warned))
    ∧ (g.stopping = true → s.flushing = false → g.downStep = 0 →
      (drained.mayFlush = true → 0 < drained.cache.dirty → exec .orderlyStopDrainEnd s = .next (startFlush drained 3))
      ∧ (drained.mayFlush = false ∨ drained.cache.dirty = 0 →
        exec .orderlyStopDrainEnd s = .next (beginPowerDown drained 3)))
    ∧ (g.vaux = true → g.thermalStop = true → g.upStep = 0 → g.lockout = false →
      g.sites.all (fun x => decide (x.temp < 1520)) = true → exec .thermalRestart s
        = .next (s.onGoose (fun g => { g with thermalStop := false, restarts := g.restarts ++ [g.uptime] })))
    ∧ (g.upStep = 8 → g.downStep = 0 → exec .keepaliveMissing s = wedge 0)
    ∧ (g.upStep = 8 → g.downStep = 0 → exec (.hsStepTimeout hs) s = wedge hs)

/-! ## Flush and power-down (08, 15) -/

/-- The flush does the work of its step and goes on, HS5 asking for the arbiters of the steps that move data (R21, R239 to R242); when it
has run to its end a requested reset takes effect, an
input that is back holds the rails for 10 ms and then resets the device, every other cause powers down (R237, R254, R450); a
flush that stalls ends without a manifest (R460). -/
def Obligations.FlushRuns : Prop :=
  ∀ (s : State) (f : FlushRun) (faulted unread : List Nat) (pf : Bool) (mv : Nat),
    let g := s.goose
    let next := fun (t : State) => (.next (flushStepBegin ((hs5Granted t).onPers (fun p =>
      { p with flush := some { f with step := f.step + 1 } })) (f.step + 1)) : Out)
    let t := s.onGoose (fun g => { g with pfailN := pf, vinMv := mv, vinGood := decide (900 ≤ mv) })
    let r := t.onGoose (fun g => { g with hold10 := false })
    let held := (List.range 12).all (fun n => (s.rail n).good || (s.rail n).stayOff) = true
    s.pers.flush = some f →
    (s.pers.flushDone = false →
      ((f.step = 1 ∨ f.step = 4 ∨ f.step = 6) → exec (.flushStepDone faulted unread) s = next s)
      ∧ (f.step = 2 → exec (.flushStepDone faulted unread) s = next (abandonMoves (finishPrograms s)))
      ∧ (f.step = 3 → exec (.flushStepDone faulted unread) s = next (abortClears s))
      ∧ (f.step = 5 → exec (.flushStepDone faulted unread) s = next (writeImage s faulted unread))
      ∧ (f.step = 7 → exec (.flushStepDone faulted unread) s = next (writeMapState s))
      ∧ (f.step = 8 → exec (.flushStepDone faulted unread) s = next (writeManifest s f))
      ∧ (f.step = 9 → exec (.flushStepDone faulted unread) s = next (parkChannels s)))
    ∧ (s.pers.flushDone = true → g.downStep = 0 → g.hold10 = false →
      (g.downCause ≠ 0 → exec (.flushComplete pf mv) s = .next (beginPowerDown t g.downCause))
      ∧ (g.downCause = 0 → f.cause = 4 → exec (.flushComplete pf mv) s = .next (deviceReset t))
      ∧ (g.downCause = 0 → f.cause = 3 → exec (.flushComplete pf mv) s = .next (beginPowerDown t 2))
      ∧ (g.downCause = 0 → f.cause ≠ 3 → f.cause ≠ 4 → pf = true → 900 ≤ mv →
        exec (.flushComplete pf mv) s = .next (t.onGoose (fun g => { g with hold10 := true })))
      ∧ (g.downCause = 0 → f.cause ≠ 3 → f.cause ≠ 4 → pf = false ∨ mv < 900 →
        exec (.flushComplete pf mv) s = .next (beginPowerDown t 1)))
    ∧ (g.hold10 = true → g.downStep = 0 →
      (g.downCause ≠ 0 → exec (.flushRestartDelay pf mv) s = .next (beginPowerDown r g.downCause))
      ∧ (g.downCause = 0 → pf = true → 900 ≤ mv → held → exec (.flushRestartDelay pf mv) s = .next (deviceReset r))
      ∧ (g.downCause = 0 → (pf = false ∨ mv < 900 ∨ ¬held) →
        exec (.flushRestartDelay pf mv) s = .next (beginPowerDown r 1)))
    ∧ (s.pers.flushDone = false → g.downStep = 0 → exec .flushStall s = .next (beginPowerDown
      { cutFlush s with boot := { (cutFlush s).boot with resetWait := 0 } }
      (if g.downCause ≠ 0 then g.downCause else if f.cause = 3 then 2 else if f.cause = 4 then 6 else 1)))

/-- Power-down switches the rails of steps 7 to 3 off one after another, one that has not fallen noted (R452), appends a stamp pair (R215)
and saves the recorder where the supplies hold, then
switches off step 2 and the rest; a save whose supply fails ends early (R451, R453). -/
def Obligations.PowerDownSteps : Prop :=
  ∀ (s0 : State) (k n : Nat) (ok : Bool),
    let s := railsStuck s0
    let g := s.goose
    let next := fun (t : State) => t.onGoose (fun g => { g with downStep := k + 1 })
    let off := fun (t : State) (j : Nat) => (stepRails j).foldl railOff t
    let hold := (List.range 3).all (fun n => (s.rail n).on && (s.rail n).inWin) = true ∧ s.boot.cold ≠ 2
    (s0.goose.downStep = 1 → exec .powerDown s0 = .next (off (s0.onGoose (fun g => { g with downStep := 2 })) 7))
    ∧ (g.downStep = k →
      (2 ≤ k → k ≤ 5 → exec (.powerDownStep ok n) s0 = .next (next (off s (8 - k))))
      ∧ (k = 6 → ok = true → hold → exec (.powerDownStep ok n) s0
          = .next (((appendStamp (next s)).onGoose (fun g => { g with norBusy := true })).onRecs (fun r => { r with frozen := true })))
      ∧ (k = 6 → (ok = false ∨ ¬hold) → exec (.powerDownStep ok n) s0 = .next (next s))
      ∧ (k = 7 → g.norBusy = true → exec (.powerDownStep ok n) s0
          = .next (off ((next (saveRecords s n)).onGoose (fun g => { g with norBusy := false })) 2))
      ∧ (k = 7 → g.norBusy = false → exec (.powerDownStep ok n) s0
          = .next (off ((next s).onGoose (fun g => { g with norBusy := false })) 2))
      ∧ (7 < k → exec (.powerDownStep ok n) s0 = .next (powerLoss s g.downCause)))
    ∧ (s0.goose.norBusy = true → exec .norWriteAbandon s0 = .next ((saveRecords (s0.burn 1)
        (s0.freeVal % (s0.saveList.length + 1))).onGoose (fun g => { g with norBusy := false })))

/-! ## The part and the state after reset (00, 01) -/

/-- The device holds its identity in ID_PART at CSR offset 0 (R11, Table 0-4): a read of it by any open session answers 0x4016A120:
PART 0x4016, STEP_MAJ 0xA, STEP_MIN 1, FAMILY 2. -/
def Obligations.PartIdentity : Prop :=
  ∀ (s : State) (p n tag : Nat),
    s.serves = true → s.hears p tag = true → (s.sess p n).isOpen = true →
    exec (.mgtRead p n tag false 0x000000 1) s
      = .next (sendCpl (s.mgtArrived p tag 0) p n tag 3 Config.OK 1 (0x4016A120 : Line))

/-- After reset the registers read the values that their tables give for reset (Tables 0-4, 4-9, 6-9, 7-8, 8-11, 10-6, 12-17, 13-11,
14-5, 15-5, 15-10, 17-11, 18-12); no command waits and the queue buffers are in canonical form. -/
def Obligations.ResetRegisters : Prop :=
  let r := State.reset
  ([(0x000000, 0x4016A120), (0x000010, 0), (0x010000, 0), (0x010004, 0), (0x010008, 0), (0x01000C, 0), (0x020020, 0), (0x020024, 0),
      (0x030400, 0), (0x030408, 0), (0x03040C, 0), (0x030410, 0), (0x030418, 0), (0x03041C, 0), (0x170000, 0x80), (0x170004, 0),
      (0x17000C, 0), (0x170010, 0), (0x170014, 0), (0x180004, 0), (0x180008, 0), (0x18000C, 0), (0x180010, 0), (0x180014, 0),
      (0x180018, 0), (0x18001C, 0), (0x180020, 0), (0x190000, 0), (0x19000C, 0)] : List (Nat × Nat)).all
        (fun x => csrValue r x.1 == x.2) = true
  ∧ (List.range 8).all (fun i => csrValue r (0x020000 + 4 * i) == 0) = true
  ∧ (List.range 4).all (fun p => (List.range 8).all (fun k => csrValue r (0x040004 + 0x1000 * p + 4 * k) == 0)) = true
  ∧ (List.range 16).all (fun c => (List.range 6).all (fun k => csrValue r (0x080000 + 0x100 * c + 4 * k) == 0)
      && (List.range 5).all (fun k => csrValue r (0x0BF000 + 0x20 * c + 4 * k) == 0)) = true
  ∧ (List.range 16).all (fun c => csrValue r (0x0BE000 + 0x20 * c) == 0xFFFFFFFF && csrValue r (0x0BE004 + 0x20 * c) == 0
      && csrValue r (0x0BE008 + 0x20 * c) == 0xFFFFFFFF && csrValue r (0x0BE00C + 0x20 * c) == 0
      && csrValue r (0x0BE014 + 0x20 * c) == 0 && csrValue r (0x0BE018 + 0x20 * c) == 0) = true
  ∧ (∀ q : Nat, q < 4096 → csrValue r (0x100000 + 8 * q) = 0 ∧ csrValue r (0x100004 + 8 * q) = 0)
  ∧ r.pending = [] ∧ r.bufWf = true

/-! ## The program word and step control (10, 11) -/

/-- Writing the fields of a Syned word and reading them back gives the same fields, and reading a word and writing it back gives the
same word: no bit of the encoding of Table 11-1 is dropped (R324). -/
def Obligations.WordsRoundTrip : Prop :=
  (∀ i : SWord, decodeWord (encodeWord i) = i) ∧ ∀ w : W64, encodeWord (decodeWord w) = w

/-- The return stack (R296): every context of an engine reads the one program table of its engine, at its pc; CALL of a program
address pushes the return address and goes to the target, RET pops it; a CALL that finds all eight entries in use, or a RET with
an empty stack, ends the task with BAD_OPERAND. -/
def Obligations.ReturnStack : Prop :=
  ∀ (s : State) (e c : Nat) (w : SWord),
    let t := s.issued e c
    let x := t.ctx e c
    (s.wordAt e c = decodeWord (Tbl.getD s.eng.prog (8192 * e + (s.ctx e c).pc % 8192) 0))
    ∧ (s.issues e c w 0x05 = true → w.bit 27 = false → x.stack.length < 8 → exec (.call e c) s
        = .next (jumpTo (t.updCtx e c (fun y => { y with stack := ((y.pc + 1) % 8192) :: y.stack })) e c (w.fld 12 0)))
    ∧ (∀ a rest, s.issues e c w 0x06 = true → x.stack = a :: rest →
        exec (.ret e c) s = .next (jumpTo (t.updCtx e c (fun y => { y with stack := rest })) e c a))
    ∧ (s.issues e c w 0x05 = true → w.bit 27 = false → 8 ≤ x.stack.length →
      exec (.call e c) s = .next (endTask t e c Config.BAD_OPERAND true))
    ∧ (s.issues e c w 0x06 = true → x.stack = [] →
      exec (.ret e c) s = .next (endTask t e c Config.BAD_OPERAND true))

/-- Step control (R297, Table 10-3): after an instruction that completes outside a house routine within its task's limit, NEXT and
YIELD_AFTER go on, the latter with every other context of the engine ahead of its own in the rotation (R295), HALT_ERR ends the task on a
status but OK and PARTIAL, SKIP_OK skips a word on OK, SKIP_ERR on a status but OK
and PARTIAL; a reserved value ends the task with BAD_OPERAND before the instruction executes. -/
def Obligations.StepControl : Prop :=
  ∀ (s : State) (e c st cnt us : Nat) (dram : Dram) (found : List (Nat × Decoded)) (hdrs : List Nat) (shifts : List (Nat × Nat))
    (faults : List Nat),
    let x := s.ctx e c
    let k := (s.wordAt e c).step
    let nx := (x.pc + wordLen (s.wordAt e c)) % 8192
    let y := (complete s e c st cnt).ctx e c
    let z := complete (took s e c) e c st cnt
    let fine := st = Config.OK ∨ st = Config.PARTIAL
    (x.expired = false → x.house = 0 →
      (k = 0 → y.state = 1 ∧ y.pc = nx)
      ∧ (k = 1 → fine → y.state = 1 ∧ y.pc = nx)
      ∧ (k = 1 → ¬fine → x.posted = [] → y.state = 5 ∧ y.endCode = st)
      ∧ (k = 1 → ¬fine → x.posted ≠ [] → y.state = 3 ∧ y.wait = .ended st true)
      ∧ (k = 2 → y.state = 1 ∧ y.pc = if st = Config.OK then (nx + 1) % 8192 else nx)
      ∧ (k = 3 → fine → y.state = 1 ∧ y.pc = nx)
      ∧ (k = 3 → ¬fine → y.state = 1 ∧ y.pc = (nx + 1) % 8192)
      ∧ (k = 4 → y.state = 1 ∧ y.pc = nx ∧ ∀ d, c < 32 → d < 32 → d ≠ c → z.place e d < z.place e c))
    ∧ (s.canStep e c = true → x.house = 0 → 4 < k.toNat →
      ∀ i ∈ programSteps e c dram found hdrs shifts us faults,
        exec i s = .next (endTask (took s e c) e c Config.BAD_OPERAND true))

/-! ## What stays -/

/-- What a register or flow instruction leaves alone, whether it issues or not (R330): every part of the state but the recorder and
its ring, TRIG balls, free values and the contexts; every other context; of its own context every register but D (of LOOP, A),
and, but for ADD, AND, OR, XOR, SHF and CMP, the flags. Buffer bytes change only through the ring of PERF.CFG. -/
def Obligations.RegisterFrame : Prop :=
  ∀ (s t : State) (e c : Nat) (i : Instr),
    let logic := [Instr.add e c, .and e c, .or e c, .xor e c, .shf e c]
    let other := [Instr.step e c, .jmp e c, .br e c, .call e c, .ret e c, .endTask e c, .yield e c]
    let w := s.wordAt e c
    i ∈ Instr.set e c :: .cmp e c :: .loop e c :: (logic ++ other) → exec i s = .next t →
    (t.boot = s.boot ∧ t.goose = s.goose ∧ t.ports = s.ports ∧ t.cache = s.cache ∧ t.maps = s.maps ∧ t.medium = s.medium
      ∧ t.pers = s.pers ∧ t.regul = s.regul ∧ t.keys = s.keys ∧ t.pending = s.pending)
    ∧ (t.eng.queues = s.eng.queues ∧ t.eng.prog = s.eng.prog ∧ t.eng.timers = s.eng.timers ∧ t.eng.claims = s.eng.claims
      ∧ t.eng.streams = s.eng.streams ∧ t.eng.cring = s.eng.cring)
    ∧ (s.recs.ringQ = none → ∀ a, t.bufByte a = s.bufByte a)
    ∧ (∀ f d, d < 32 → c < 32 → (f ≠ e ∨ d ≠ c) → t.ctx f d = s.ctx f d)
    ∧ (∀ k : BitVec 5, (i ∈ Instr.set e c :: logic → k ≠ w.d) → (i = .loop e c → k ≠ w.a) →
      (t.ctx e c).reg k = (s.ctx e c).reg k)
    ∧ (i ∈ Instr.set e c :: .loop e c :: other → flagsOf (t.ctx e c).st = flagsOf (s.ctx e c).st)

/-- Where a program's ST and a session's management write store to a buffer: the bytes from the address on read as written, and every
other byte of every buffer reads as before, while no ring of performance counters stands (R300, R302, R373). -/
def Obligations.BufferStores : Prop :=
  ∀ (s : State) (e c a p n tag : Nat) (w : SWord) (ws : List W32) (dram : Dram),
    let x := s.ctx e c
    let l := bytesOf ((x.reg w.b).toNat % 2 ^ (8 * 2 ^ w.fld 27 26)) (2 ^ w.fld 27 26)
    let m := ws.flatMap (fun v => bytesOf v.toNat 4)
    s.recs.ringQ = none →
    (s.issues e c w 0x18 = true → memAddr (x.reg w.a) w = some (.buf a) → s.bufCheck x.queue a l.length = Config.OK →
      ∃ t, exec (.st e c dram) s = .next t ∧ ∀ b, t.bufByte b = if a ≤ b ∧ b < a + l.length then l.getD (b - a) 0 else s.bufByte b)
    ∧ (s.serves = true → s.hears p tag = true → (s.sess p n).isOpen = true → ws.length ≤ 16 → a % 4 = 0 →
      s.bufStatus p n a m.length = Config.OK →
      ∃ t, exec (.mgtWrite p n tag true a ws) s = .next t
        ∧ ∀ b, t.bufByte b = if a ≤ b ∧ b < a + m.length then m.getD (b - a) 0 else s.bufByte b)

/-- No management write changes a region, a map entry, a cache policy, a key, a ledger commitment or a slot table (R25), and no read
of a register changes any of these. -/
def Obligations.CsrWritesKeepSetup : Prop :=
  ∀ (s t : State) (p n tag off words q v : Nat) (buffer : Bool) (w : W32) (ws : List W32),
    (exec (.mgtWrite p n tag buffer off ws) s = .next t → t.setup = s.setup)
    ∧ (exec (.csrWrite p n tag off w) s = .next t → t.setup = s.setup)
    ∧ (exec (.qdTail p n tag q v) s = .next t → t.setup = s.setup)
    ∧ (exec (.qdChead p n tag q v) s = .next t → t.setup = s.setup)
    ∧ (exec (.idBootGo p n tag v) s = .next t → t.setup = s.setup)
    ∧ (exec (.idBootFuse p n tag) s = .next t → t.setup = s.setup)
    ∧ (exec (.mgtRead p n tag buffer off words) s = .next t → t.setup = s.setup)

/-- Once OKH_SET is 1, no step of the device changes the owner key hash or clears OKH_SET, whatever the command (R481). -/
def Obligations.OwnerKeyHashStays : Prop :=
  ∀ s t : State, s.boot.okhSet = true → step s = .next t → t.okhFuses = s.okhFuses

/-- Every step keeps the queue buffers in canonical form, whatever the command. -/
def Obligations.BuffersStayCanonical : Prop :=
  ∀ s t : State, s.bufWf = true → step s = .next t → t.bufWf = true

/-- A command's meaning leaves the queue of waiting commands alone, so that commands are taken first in, first out, and it takes
free values only onward: none is ever taken twice (log 1). -/
def Obligations.QueueAndFreeValues : Prop :=
  ∀ (c : Instr) (s t : State), exec c s = .next t → t.pending = s.pending ∧ s.free ≤ t.free
end

