-- ==== Sys2Proof/Laws/Tbl.lean ====
section
/-! SUPPORT. Reading a table, the queue buffers and the contexts after a write: what was written, and everything else as before. -/

namespace Sys2Proof.Laws

open Sys2Proof Sys2Proof.Machine

/-! ## Tables -/

/-- Reading a key after a put. -/
@[simp] theorem find_put {α : Type} (t : Tbl α) (k j : Nat) (v : α) :
    Tbl.find (Tbl.put t k v) j = if k = j then some v else Tbl.find t j := by
  induction t with
  | nil => simp [Tbl.put, Tbl.find]
  | cons q t ih =>
    obtain ⟨a, b⟩ := q
    simp only [Tbl.put]
    split
    · simp only [Tbl.find]
    · split
      · rename_i hk
        subst hk
        simp only [Tbl.find]
        split <;> rfl
      · rename_i hk
        simp only [Tbl.find, ih]
        split
        · rename_i ha
          subst ha
          rw [if_neg hk]
        · rfl

/-- Reading a key after a deletion. -/
@[simp] theorem find_del {α : Type} (t : Tbl α) (k j : Nat) :
    Tbl.find (Tbl.del t k) j = if k = j then none else Tbl.find t j := by
  induction t with
  | nil => simp [Tbl.del, Tbl.find]
  | cons q t ih =>
    obtain ⟨a, b⟩ := q
    simp only [Tbl.del, List.filter_cons] at ih ⊢
    by_cases h : a = k
    · subst h
      simp only [bne_self_eq_false, Bool.false_eq_true, if_false, ih, Tbl.find]
      split <;> rfl
    · simp only [bne_iff_ne, ne_eq, h, not_false_eq_true, if_true, Tbl.find, ih]
      split
      · rename_i ha
        subst ha
        rw [if_neg (fun e => h e.symm)]
      · rfl

/-- Reading a key after a change in place. -/
@[simp] theorem find_upd {α : Type} (t : Tbl α) (k j : Nat) (f : α → α) :
    Tbl.find (Tbl.upd t k f) j = if k = j then (Tbl.find t j).map f else Tbl.find t j := by
  induction t with
  | nil => simp [Tbl.upd, Tbl.find]
  | cons q t ih =>
    obtain ⟨a, b⟩ := q
    simp only [Tbl.upd, List.map_cons] at ih ⊢
    by_cases h : a = k
    · subst h
      rw [if_pos rfl]
      simp only [Tbl.find, ih]
      split <;> rfl
    · rw [if_neg h]
      simp only [Tbl.find, ih]
      split
      · rename_i ha
        subst ha
        rw [if_neg (fun e => h e.symm)]
      · rfl

/-- What is found under a key is listed. -/
theorem mem_of_find {α : Type} {t : Tbl α} {k : Nat} {v : α} (h : Tbl.find t k = some v) : (k, v) ∈ t := by
  induction t with
  | nil => cases h
  | cons q t ih =>
    obtain ⟨a, b⟩ := q
    simp only [Tbl.find] at h
    split at h
    · rename_i e
      cases h
      simp [e]
    · exact List.mem_cons_of_mem _ (ih h)

/-! ## Queue buffers -/

/-- A byte of the buffers after one byte has been written. -/
theorem getD_bufPut (b : List (Nat × Byte)) (a k : Nat) (v : Byte) :
    Tbl.getD (bufPut b a v) k 0 = if a = k then v else Tbl.getD b k 0 := by
  unfold bufPut Tbl.getD
  split
  · rename_i hv
    subst hv
    rw [find_del]
    split <;> rfl
  · rw [find_put]
    split <;> rfl

/-- A byte of the buffers after bytes have been written from an address upward. -/
theorem getD_bufWrite (b : List (Nat × Byte)) (a k : Nat) (l : List Byte) :
    Tbl.getD (bufWrite b a l) k 0 = if a ≤ k ∧ k < a + l.length then l.getD (k - a) 0 else Tbl.getD b k 0 := by
  induction l generalizing b a with
  | nil =>
    rw [if_neg (by simp only [List.length_nil]; omega)]
    rfl
  | cons v t ih =>
    simp only [bufWrite, ih, getD_bufPut, List.length_cons]
    by_cases h1 : a + 1 ≤ k ∧ k < a + 1 + t.length
    · rw [if_pos h1, if_pos (by omega), show k - a = (k - (a + 1)) + 1 by omega]
      rfl
    · rw [if_neg h1]
      by_cases h2 : a = k
      · subst h2
        rw [if_pos rfl, if_pos (by omega), Nat.sub_self]
        rfl
      · rw [if_neg h2, if_neg (by omega)]

/-- A byte after a store to the buffers. -/
theorem bufByte_bufStore (s : State) (a k : Nat) (l : List Byte) :
    (s.bufStore a l).bufByte k = if a ≤ k ∧ k < a + l.length then l.getD (k - a) 0 else s.bufByte k :=
  getD_bufWrite s.eng.buf a k l

/-! ## Contexts -/

/-- The keys of two contexts are equal only if the contexts are. -/
theorem ctxKey_inj {e c f d : Nat} (hc : c < 32) (hd : d < 32) (h : ctxKey e c = ctxKey f d) : e = f ∧ c = d := by
  unfold ctxKey at h
  omega

/-- Reading a context after a put. -/
theorem ctx_putCtx (s : State) (e c f d : Nat) (x : Ctx) :
    (s.putCtx e c x).ctx f d = if ctxKey e c = ctxKey f d then x else s.ctx f d := by
  unfold State.ctx State.putCtx Tbl.getD
  dsimp only
  rw [find_put]
  split <;> rfl

/-- The context that was put. -/
@[simp] theorem ctx_putCtx_self (s : State) (e c : Nat) (x : Ctx) : (s.putCtx e c x).ctx e c = x := by
  rw [ctx_putCtx, if_pos rfl]

/-- The context that was changed. -/
@[simp] theorem ctx_updCtx_self (s : State) (e c : Nat) (f : Ctx → Ctx) : (s.updCtx e c f).ctx e c = f (s.ctx e c) :=
  ctx_putCtx_self s e c _

/-- Every other context stays. -/
theorem ctx_updCtx_other {s : State} {e c f d : Nat} (g : Ctx → Ctx) (h : ctxKey e c ≠ ctxKey f d) :
    (s.updCtx e c g).ctx f d = s.ctx f d := by
  unfold State.updCtx
  rw [ctx_putCtx, if_neg h]

/-! ## Ports -/

/-- Two changes of a port that agree on that port are one. -/
theorem updPort_congr {s : State} {p : Nat} {f g : Port → Port} (h : f (s.port p) = g (s.port p)) :
    s.updPort p f = s.updPort p g := by
  simp only [State.updPort, updAt]
  congr 1
  apply List.ext_getElem?
  intro i
  rw [List.getElem?_modify, List.getElem?_modify]
  by_cases e : p = i
  · subst e
    simp only [State.port, List.getD_eq_getElem?_getD] at h
    cases hh : s.ports[p]? with
    | none => rfl
    | some y =>
      rw [hh] at h
      simpa using h
  · simp [e]

end Sys2Proof.Laws
end

