-- ==== Sys2Proof/Laws/Link.lean ====
section
/-! SUPPORT. What arriving flits leave of a port, and what a management transaction that a session may send does. -/

namespace Sys2Proof.Laws

open Sys2Proof Sys2Proof.Machine

/-! ## A port after arriving flits -/

/-- A change of a port that keeps its sessions keeps the sessions of every port. -/
theorem sessions_updPort {s : State} {p q : Nat} {f : Port → Port} (h : ∀ x, (f x).sessions = x.sessions) :
    ((s.updPort p f).port q).sessions = (s.port q).sessions := by
  simp only [State.updPort, updAt, State.port]
  rw [List.getD_eq_getElem?_getD, List.getD_eq_getElem?_getD, List.getElem?_modify]
  cases s.ports[q]? with
  | none => rfl
  | some y => by_cases e : p = q <;> simp [e, h]

/-- A change of a port that keeps its outstanding tags keeps the tags of every port. -/
theorem outTags_updPort {s : State} {p q : Nat} {f : Port → Port} (h : ∀ x, (f x).outTags = x.outTags) :
    ((s.updPort p f).port q).outTags = (s.port q).outTags := by
  simp only [State.updPort, updAt, State.port]
  rw [List.getD_eq_getElem?_getD, List.getD_eq_getElem?_getD, List.getElem?_modify]
  cases s.ports[q]? with
  | none => rfl
  | some y => by_cases e : p = q <;> simp [e, h]

/-- Arriving flits keep the sessions. -/
@[simp] theorem sess_rxFlits (s : State) (p n q k : Nat) : (rxFlits s p n).sess q k = s.sess q k := by
  unfold State.sess rxFlits
  rw [sessions_updPort (by intro; rfl)]

/-- Arriving flits keep the outstanding tags. -/
@[simp] theorem outTags_rxFlits (s : State) (p n q : Nat) : ((rxFlits s p n).port q).outTags = (s.port q).outTags := by
  unfold rxFlits
  rw [outTags_updPort (by intro; rfl)]

/-- Credit given back keeps the sessions. -/
@[simp] theorem sessions_giveBack (x : Port) (vc n : Nat) : (x.giveBack vc n).sessions = x.sessions := by
  unfold Port.giveBack
  dsimp only
  split <;> rfl

/-- Credit given back keeps the outstanding tags. -/
@[simp] theorem outTags_giveBack (x : Port) (vc n : Nat) : (x.giveBack vc n).outTags = x.outTags := by
  unfold Port.giveBack
  dsimp only
  split <;> rfl

/-- Freed credit keeps the sessions. -/
@[simp] theorem sess_freeCredit (s : State) (p vc n q k : Nat) : (freeCredit s p vc n).sess q k = s.sess q k := by
  unfold State.sess freeCredit
  rw [sessions_updPort (by intro; simp)]

/-- Freed credit keeps the outstanding tags. -/
@[simp] theorem outTags_freeCredit (s : State) (p vc n q : Nat) :
    ((freeCredit s p vc n).port q).outTags = (s.port q).outTags := by
  unfold freeCredit
  rw [outTags_updPort (by intro; simp)]

/-- An arriving management transaction keeps the sessions. -/
@[simp] theorem sess_mgtArrived (s : State) (p tag words q k : Nat) : (s.mgtArrived p tag words).sess q k = s.sess q k := by
  unfold State.mgtArrived
  rw [State.sess, sessions_updPort (by intro; rfl), ← State.sess, sess_freeCredit, sess_rxFlits]

/-! ## Management transactions -/

/-- A management transaction of an open session acts in the state after its arrival, and its completion leaves on VC3. -/
theorem mgt_eq {s : State} {p n tag words : Nat} (go : State → MgtAns) (h : s.serves = true) (h1 : s.hears p tag = true)
    (h2 : (s.sess p n).isOpen = true) :
    mgt s p n tag words go
      = sendCpl (go (s.mgtArrived p tag words)).state p n tag 3 (go (s.mgtArrived p tag words)).status
          (go (s.mgtArrived p tag words)).words.length (wordsLine (go (s.mgtArrived p tag words)).words) := by
  simp only [State.hears, Bool.and_eq_true, decide_eq_true_eq, Bool.not_eq_true'] at h1
  obtain ⟨⟨a1, a2⟩, a3⟩ := h1
  unfold mgt
  dsimp only
  rw [if_pos (by simp [h, a1, a2]), if_neg (by rw [outTags_freeCredit, outTags_rxFlits, a3]; exact Bool.false_ne_true), if_pos]
  · rfl
  · rw [sess_freeCredit, sess_rxFlits]
    exact h2

/-- Reading a number of words answers that many. -/
@[simp] theorem csrReads_length (s : State) (p n a k : Nat) : (csrReads s p n a k).2.length = k := by
  induction k generalizing s a with
  | zero => rfl
  | succ k ih => simp [csrReads, ih]

/-- The one word of a write that may be written is written. -/
theorem worst_one {s : State} {p n a : Nat} {v : W32} (h : s.putStatus p n a v = Config.OK) :
    worst (s.putStatuses p n a [v]) = Config.OK := by
  simp only [State.putStatuses, List.mapIdx_cons, List.mapIdx_nil, Nat.mul_zero, Nat.add_zero, h]
  rfl

/-! ## The configuration of R25 -/

/-- An occurrence in the recorder keeps the configuration. -/
@[simp] theorem setup_record (s : State) (cls detail : Nat) : (record s cls detail).setup = s.setup := by
  unfold record
  split <;> rfl

/-- Installing a section keeps the configuration. -/
@[simp] theorem setup_installSection (s : State) (x : BootSection) : (installSection s x).setup = s.setup := by
  unfold installSection
  split
  · split
    · rfl
    · exact setup_record _ _ _
  · rfl

/-- Installing an image keeps the configuration. -/
@[simp] theorem setup_installImage (s : State) (l : List BootSection) (k : Nat) : (installImage s l k).setup = s.setup := by
  have e : ∀ (l : List BootSection) (s : State), (l.foldl installSection s).setup = s.setup := by
    intro l
    induction l with
    | nil => intro s; rfl
    | cons x l ih => intro s; exact (ih _).trans (setup_installSection s x)
  exact e l s

/-- Burning the owner key hash keeps the configuration. -/
@[simp] theorem setup_bootFuse (s : State) : (bootFuse s).setup = s.setup := by
  unfold bootFuse
  split
  · rfl
  · exact setup_record _ _ _

/-- Committing a boot image keeps the configuration. -/
@[simp] theorem setup_bootGo (s : State) (n : Nat) : (bootGo s n).setup = s.setup := by
  unfold bootGo
  dsimp only
  split
  · rfl
  · split
    · rfl
    · split
      · unfold bootFailed irq
        rfl
      · exact setup_installImage s _ 2

/-! ## Requests from descriptors -/

/-- A descriptor that may be fetched runs in the state after its fetch. -/
theorem withDesc_runs {s : State} {e c q : Nat} {x : Queue} {d : BitVec 512} (mine : Nat → Bool)
    (go : State → Queue → TaskDesc → State) (h : s.live = true) (h1 : e < 16) (h2 : c < 32) (h3 : (s.ctx e c).state = 0)
    (h4 : s.nextQueue e = some q) (h5 : s.queue q = some x) (h6 : (taskDesc d).order = false ∨ x.busy = 0)
    (h7 : (taskDesc d).reservedOk = true) (h8 : mine (taskDesc d).kind = true) :
    withDesc s e c q d mine go = go (fetchDesc s e c q x (taskDesc d)) x (taskDesc d) := by
  unfold withDesc
  dsimp only
  rw [if_pos (by simp [h, h1, h2, h3, h4, h8])]
  simp only [h5]
  rw [if_neg (by rcases h6 with h6 | h6 <;> simp [h6]), if_neg (by simp [h7])]

end Sys2Proof.Laws
end

