-- ==== Sys2Proof/Laws/Access.lean ====
section
/-! SUPPORT. A host request that passes its checks reaches its lookup. -/

namespace Sys2Proof.Laws

open Sys2Proof Sys2Proof.Machine

/-- What a request meets at its lookup, by what it is (Table 1-7). -/
def lookupOf (u : State) (r : Req) : State :=
  if r.op.isRead then lookupRead u r
  else if !u.cache.on || !u.cache.wback then lookupThru u r
  else if r.op.isFull then lookupFull u r
  else if r.op.isPartial then lookupPartial u r
  else lookupAcc u r

/-- Asking for the lane keeps whether a request's region check is made. -/
@[simp] theorem laneTake_looked (s : State) (r : Req) : (laneTake s r).2.looked = r.looked := by
  unfold laneTake
  split
  · dsimp only
    split <;> rfl
  · rfl

/-- Asking for the lane keeps what a request is. -/
theorem laneTake_kept (s : State) (r : Req) :
    (laneTake s r).2.op = r.op ∧ (laneTake s r).2.addr = r.addr ∧ (laneTake s r).2.who = r.who
      ∧ (laneTake s r).2.label = r.label := by
  unfold laneTake
  split
  · dsimp only
    split <;> exact ⟨rfl, rfl, rfl, rfl⟩
  · exact ⟨rfl, rfl, rfl, rfl⟩

/-- A request that reaches its lookup is there what it was at its bucket. -/
theorem atLookup_kept {s u : State} {r q : Req} (h : s.atLookup r = some (u, q)) :
    q.op = r.op ∧ q.addr = r.addr ∧ q.who = r.who ∧ q.label = r.label := by
  unfold State.atLookup at h
  split at h
  · cases h
  split at h
  · cases h
  dsimp only at h
  split at h
  · cases h
  split at h
  · cases h
  split at h
  · cases h
  simp only [Option.some.injEq, Prod.mk.injEq] at h
  obtain ⟨rfl, rfl⟩ := h
  exact laneTake_kept _ _

/-- A request that reaches its lookup is looked up there. -/
theorem atBucket_lookup {s u : State} {r q : Req} (hl : r.looked = false) (h : s.atLookup r = some (u, q)) :
    atBucket s r = lookupOf u q := by
  unfold State.atLookup at h
  split at h
  · cases h
  rename_i hb
  split at h
  · cases h
  rename_i t ht
  dsimp only at h
  split at h
  · cases h
  rename_i hc
  split at h
  · cases h
  rename_i hq
  split at h
  · cases h
  rename_i hx
  simp only [Bool.or_eq_true, Bool.and_eq_true, Bool.not_eq_true', bne_iff_ne, not_or, ne_eq, not_and, Bool.not_eq_false,
    Decidable.not_not, Bool.not_eq_true] at hb hc hq hx
  obtain ⟨c1, c2⟩ := hc
  obtain ⟨⟨q1, q2⟩, q3⟩ := hq
  obtain ⟨x1, x2⟩ := hx
  simp only [Option.some.injEq, Prod.mk.injEq] at h
  obtain ⟨rfl, rfl⟩ := h
  have k : (laneTake (r.release t) r).2.looked = false := (laneTake_looked _ _).trans hl
  have e1 : (false = true) = False := by simp
  unfold atBucket
  rw [hb]
  dsimp only
  rw [if_neg (by simp), ht]
  dsimp only
  unfold enterTable
  rw [if_pos (by simp [c1, c2])]
  unfold access
  dsimp only
  rw [if_neg (by simp [q1]), if_neg (by simp [q2]), if_neg (by simp [q2]), if_pos (by simp [k, q3])]
  unfold lookup
  rw [if_neg (by simpa using x1)]
  dsimp only
  have e : ∀ (v : State) (q : Req) (a : State), v.lineHeld q.line = false → (if v.lineHeld q.line then a else lookupOf v q) = lookupOf v q :=
    fun v q a hv => by rw [if_neg (by simp [hv])]
  exact e _ { (laneTake (r.release t) r).2 with looked := true, rways := _, dram := .ok } _ x2

/-! ## Arrival -/

/-- Counting keeps who sent a request, what its DRAM access meets, its operation, its address, its lane and its checks. -/
theorem countReq_kept (s : State) (r : Req) (ev unit n : Nat) :
    (countReq s r ev unit n).2.who = r.who ∧ (countReq s r ev unit n).2.dram = r.dram
      ∧ (countReq s r ev unit n).2.op = r.op ∧ (countReq s r ev unit n).2.addr = r.addr
      ∧ (countReq s r ev unit n).2.lane = r.lane ∧ (countReq s r ev unit n).2.looked = r.looked := by
  unfold countReq
  dsimp only
  split <;> simp

/-- A request that has arrived is the one that was sent; it holds no lane yet and no check of it is made. -/
theorem arrived_kept (s : State) (p n tag addr : Nat) (op : MemOp) (dram : Dram) :
    (s.arrived p n tag addr op dram).2.who = .host p n tag ∧ (s.arrived p n tag addr op dram).2.dram = dram
      ∧ (s.arrived p n tag addr op dram).2.op = op ∧ (s.arrived p n tag addr op dram).2.addr = addr
      ∧ (s.arrived p n tag addr op dram).2.lane = false ∧ (s.arrived p n tag addr op dram).2.looked = false := by
  simp [State.arrived, countReq_kept]

/-- A request of an open session whose tag is free reaches its token bucket as it arrived. -/
theorem hostRequest_arrives {s : State} {p n tag addr : Nat} {op : MemOp} {dram : Dram} (h : s.live = true)
    (h1 : s.hears p tag = true) (h2 : (s.sess p n).isOpen = true) :
    hostRequest s p n tag addr op dram = atBucket (s.arrived p n tag addr op dram).1 (s.arrived p n tag addr op dram).2 := by
  simp only [State.hears, Bool.and_eq_true, decide_eq_true_eq, Bool.not_eq_true'] at h1
  obtain ⟨⟨a1, a2⟩, a3⟩ := h1
  unfold hostRequest
  dsimp only
  rw [if_pos (by simp [h, a1, a2]), if_neg (by rw [outTags_rxFlits, a3]; exact Bool.false_ne_true)]
  rw [sess_rxFlits, if_neg (by simp [h2])]
  simp only [State.arrived]
  rfl

/-- A request whose tag is outstanding is counted, recorded and discarded (R370). -/
theorem hostRequest_duplicate {s : State} {p n tag addr : Nat} {op : MemOp} {dram : Dram} (h : s.live = true)
    (h1 : p < s.portCount) (h2 : (s.port p).up = true) (h3 : (s.port p).outTags.contains tag = true) :
    hostRequest s p n tag addr op dram = record
      (freeCredit ((rxFlits s p op.flits).updPort p (fun x => { x with tagDup := (x.tagDup + 1) % 2 ^ 16 })) p op.vc op.flits)
      (Config.evClass 12 0) p := by
  unfold hostRequest
  dsimp only
  rw [if_pos (by simp [h, h1, h2]), if_pos (by rw [outTags_rxFlits]; exact h3)]

/-! ## Lookup -/

/-- A host request that reaches its lookup meets there what it is. -/
theorem hostRequest_lookup {s u : State} {q : Req} {p n tag addr : Nat} {op : MemOp} {dram : Dram} (h : s.live = true)
    (h1 : s.hears p tag = true) (h2 : (s.sess p n).isOpen = true)
    (hq : (s.arrived p n tag addr op dram).1.atLookup (s.arrived p n tag addr op dram).2 = some (u, q)) :
    hostRequest s p n tag addr op dram = lookupOf u q := by
  rw [hostRequest_arrives h h1 h2, atBucket_lookup (arrived_kept ..).2.2.2.2.2 hq]

/-- A read that no fill awaits and that the device's lines answer completes. -/
theorem lookupRead_hits {u : State} {r : Req} {d : Line} {bad : Bool} (hg : u.cache.filling r.line = false)
    (hf : u.cache.full r.line = some (d, bad)) :
    lookupRead u r = deliver (touch (count u 0x04 0x3F none 1) r.line) r (if bad then Config.POISON else Config.OK) d false := by
  simp only [lookupRead, hg, hf, Bool.false_eq_true, if_false]

/-- A write that finds a way gives its lane back, installs its line and completes. -/
theorem writeLine_installs {s v : State} {r : Req} {d : Line} {delta : Bool}
    (hi : install (laneFree s r) r.line d true delta false r.rways r.label = some v) :
    writeLine s r d delta = deliver v { r with lane := false } Config.OK 0 false := by
  have k : install (laneFree s r) ({ r with lane := false } : Req).line d true delta false r.rways r.label = some v := hi
  unfold writeLine
  dsimp only at k ⊢
  rw [k]

/-- A whole-line write that no fill awaits is installed and completes. -/
theorem lookupFull_installs {u v : State} {r : Req} (hf : Tbl.find u.cache.fills r.line = none)
    (hi : install (laneFree u r) r.line (r.op.merge r.addr 0) true false false r.rways r.label = some v) :
    lookupFull u r = deliver v { r with lane := false } Config.OK 0 false := by
  simp only [lookupFull, hf, writeLine_installs hi]

/-- A partial write of a line that the device holds is merged and completes. -/
theorem lookupPartial_hits {u v : State} {r : Req} {d : Line} (hg : u.cache.filling r.line = false)
    (hf : u.cache.full r.line = some (d, false))
    (hi : install (laneFree (count u 0x04 0x3F none 1) r) r.line (r.op.merge r.addr d) true false false r.rways r.label = some v) :
    lookupPartial u r = deliver v { r with lane := false } Config.OK 0 false := by
  simp only [lookupPartial, hg, hf, Bool.false_eq_true, if_false, writeLine_installs hi]

/-- An accumulate into a line of the cache is merged and completes. -/
theorem lookupAcc_hits {u v : State} {r : Req} {x : CLine} (hg : u.cache.filling r.line = false) (hf : u.cache.hit r.line = some x)
    (hp : x.poison = false)
    (hi : install (laneFree (count u 0x04 0x3F none 1) r) r.line (r.op.merge r.addr x.data) true x.delta false r.rways r.label
      = some v) :
    lookupAcc u r = deliver v { r with lane := false } Config.OK 0 false := by
  simp only [lookupAcc, hg, hf, hp, Bool.false_eq_true, if_false, writeLine_installs hi]

end Sys2Proof.Laws
end

