-- ==== Sys2Proof/Laws/Ctx.lean ====
section
/-! SUPPORT. A context after each of its updates: one lemma a part and update; registers and st read back as written. -/

namespace Sys2Proof.Laws

open Sys2Proof Sys2Proof.Machine

/-! ## st -/

/-- The flags of st read back as written. -/
@[simp] theorem flagsOf_stWord (a : Nat) (f : Flg) (n : Nat) : flagsOf (stWord a f n) = f := by
  obtain ⟨z, m, c⟩ := f
  simp only [flagsOf, stWord, Flg.mk.injEq, BitVec.getLsbD_append]
  simp

/-- STATUS of st reads back as written. -/
@[simp] theorem statusOf_stWord (a : Nat) (f : Flg) (n : Nat) : statusOf (stWord a f n) = a % 256 := by
  simp only [statusOf, stWord, BitVec.toNat_append]
  have e : ∀ h : Nat, (h <<< 8 ||| (BitVec.ofNat 8 a).toNat) % 256 = a % 256 := by
    intro h
    rw [← Nat.shiftLeft_add_eq_or_of_lt (BitVec.ofNat 8 a).isLt, Nat.shiftLeft_eq, BitVec.toNat_ofNat]
    omega
  exact e _

/-- COUNT of st reads back as written. -/
@[simp] theorem countOf_stWord (a : Nat) (f : Flg) (n : Nat) : countOf (stWord a f n) = n % 2 ^ 32 := by
  have e : stWord a f n >>> 32 = (BitVec.ofNat 32 n).setWidth 64 := by
    apply BitVec.eq_of_getLsbD_eq
    intro i hi
    simp only [stWord, BitVec.getLsbD_ushiftRight, BitVec.getLsbD_append, BitVec.getLsbD_setWidth]
    simp only [show ¬ 32 + i < 8 by omega, show ¬ 32 + i - 8 < 1 by omega, show ¬ 32 + i - 8 - 1 < 1 by omega,
      show ¬ 32 + i - 8 - 1 - 1 < 1 by omega, show ¬ 32 + i - 8 - 1 - 1 - 1 < 21 by omega, if_false, hi, decide_true,
      Bool.true_and, show 32 + i - 8 - 1 - 1 - 1 - 21 = i by omega]
  have h := congrArg BitVec.toNat e
  rw [BitVec.toNat_ushiftRight, Nat.shiftRight_eq_div_pow, BitVec.toNat_setWidth, BitVec.toNat_ofNat,
    Nat.mod_eq_of_lt (by omega)] at h
  exact h

/-- The flags after a completion's status. -/
@[simp] theorem withStatus_flags (x : Ctx) (a n : Nat) : flagsOf (x.withStatus a n).st = flagsOf x.st :=
  flagsOf_stWord a _ n

/-- The flags an instruction wrote. -/
@[simp] theorem withFlags_flags (x : Ctx) (f : Flg) : flagsOf (x.withFlags f).st = f :=
  flagsOf_stWord _ f _

/-! ## Registers -/

/-- A register after a write. -/
theorem reg_setReg (x : Ctx) (i k : BitVec 5) (v : W64) : (x.setReg i v).reg k = if k = i then v else x.reg k := by
  unfold Ctx.reg Ctx.setReg
  simp only [List.getD_eq_getElem?_getD, List.getElem?_map, List.getElem?_range k.isLt, Option.map_some, Option.getD_some,
    BitVec.toNat_inj]

/-! ## Fields -/

@[simp] theorem withStatus_state (x : Ctx) (a n : Nat) : (x.withStatus a n).state = x.state := rfl
@[simp] theorem withStatus_g (x : Ctx) (a n : Nat) : (x.withStatus a n).g = x.g := rfl
@[simp] theorem withStatus_pc (x : Ctx) (a n : Nat) : (x.withStatus a n).pc = x.pc := rfl
@[simp] theorem withStatus_stack (x : Ctx) (a n : Nat) : (x.withStatus a n).stack = x.stack := rfl
@[simp] theorem withStatus_queue (x : Ctx) (a n : Nat) : (x.withStatus a n).queue = x.queue := rfl
@[simp] theorem withStatus_didx (x : Ctx) (a n : Nat) : (x.withStatus a n).didx = x.didx := rfl
@[simp] theorem withStatus_tag (x : Ctx) (a n : Nat) : (x.withStatus a n).tag = x.tag := rfl
@[simp] theorem withStatus_notify (x : Ctx) (a n : Nat) : (x.withStatus a n).notify = x.notify := rfl
@[simp] theorem withStatus_limit (x : Ctx) (a n : Nat) : (x.withStatus a n).limit = x.limit := rfl
@[simp] theorem withStatus_expired (x : Ctx) (a n : Nat) : (x.withStatus a n).expired = x.expired := rfl
@[simp] theorem withStatus_label (x : Ctx) (a n : Nat) : (x.withStatus a n).label = x.label := rfl
@[simp] theorem withStatus_wait (x : Ctx) (a n : Nat) : (x.withStatus a n).wait = x.wait := rfl
@[simp] theorem withStatus_posted (x : Ctx) (a n : Nat) : (x.withStatus a n).posted = x.posted := rfl
@[simp] theorem withStatus_postFail (x : Ctx) (a n : Nat) : (x.withStatus a n).postFail = x.postFail := rfl
@[simp] theorem withStatus_postCode (x : Ctx) (a n : Nat) : (x.withStatus a n).postCode = x.postCode := rfl
@[simp] theorem withStatus_postAddr (x : Ctx) (a n : Nat) : (x.withStatus a n).postAddr = x.postAddr := rfl
@[simp] theorem withStatus_house (x : Ctx) (a n : Nat) : (x.withStatus a n).house = x.house := rfl
@[simp] theorem withStatus_houseStep (x : Ctx) (a n : Nat) : (x.withStatus a n).houseStep = x.houseStep := rfl
@[simp] theorem withStatus_lastArg (x : Ctx) (a n : Nat) : (x.withStatus a n).lastArg = x.lastArg := rfl
@[simp] theorem withStatus_hcall (x : Ctx) (a n : Nat) : (x.withStatus a n).hcall = x.hcall := rfl
@[simp] theorem withStatus_endCode (x : Ctx) (a n : Nat) : (x.withStatus a n).endCode = x.endCode := rfl
@[simp] theorem withStatus_lastPc (x : Ctx) (a n : Nat) : (x.withStatus a n).lastPc = x.lastPc := rfl

@[simp] theorem withFlags_state (x : Ctx) (f : Flg) : (x.withFlags f).state = x.state := rfl
@[simp] theorem withFlags_g (x : Ctx) (f : Flg) : (x.withFlags f).g = x.g := rfl
@[simp] theorem withFlags_pc (x : Ctx) (f : Flg) : (x.withFlags f).pc = x.pc := rfl
@[simp] theorem withFlags_stack (x : Ctx) (f : Flg) : (x.withFlags f).stack = x.stack := rfl
@[simp] theorem withFlags_queue (x : Ctx) (f : Flg) : (x.withFlags f).queue = x.queue := rfl
@[simp] theorem withFlags_didx (x : Ctx) (f : Flg) : (x.withFlags f).didx = x.didx := rfl
@[simp] theorem withFlags_tag (x : Ctx) (f : Flg) : (x.withFlags f).tag = x.tag := rfl
@[simp] theorem withFlags_notify (x : Ctx) (f : Flg) : (x.withFlags f).notify = x.notify := rfl
@[simp] theorem withFlags_limit (x : Ctx) (f : Flg) : (x.withFlags f).limit = x.limit := rfl
@[simp] theorem withFlags_expired (x : Ctx) (f : Flg) : (x.withFlags f).expired = x.expired := rfl
@[simp] theorem withFlags_label (x : Ctx) (f : Flg) : (x.withFlags f).label = x.label := rfl
@[simp] theorem withFlags_wait (x : Ctx) (f : Flg) : (x.withFlags f).wait = x.wait := rfl
@[simp] theorem withFlags_posted (x : Ctx) (f : Flg) : (x.withFlags f).posted = x.posted := rfl
@[simp] theorem withFlags_postFail (x : Ctx) (f : Flg) : (x.withFlags f).postFail = x.postFail := rfl
@[simp] theorem withFlags_postCode (x : Ctx) (f : Flg) : (x.withFlags f).postCode = x.postCode := rfl
@[simp] theorem withFlags_postAddr (x : Ctx) (f : Flg) : (x.withFlags f).postAddr = x.postAddr := rfl
@[simp] theorem withFlags_house (x : Ctx) (f : Flg) : (x.withFlags f).house = x.house := rfl
@[simp] theorem withFlags_houseStep (x : Ctx) (f : Flg) : (x.withFlags f).houseStep = x.houseStep := rfl
@[simp] theorem withFlags_lastArg (x : Ctx) (f : Flg) : (x.withFlags f).lastArg = x.lastArg := rfl
@[simp] theorem withFlags_hcall (x : Ctx) (f : Flg) : (x.withFlags f).hcall = x.hcall := rfl
@[simp] theorem withFlags_endCode (x : Ctx) (f : Flg) : (x.withFlags f).endCode = x.endCode := rfl
@[simp] theorem withFlags_lastPc (x : Ctx) (f : Flg) : (x.withFlags f).lastPc = x.lastPc := rfl

@[simp] theorem setReg_state (x : Ctx) (i : BitVec 5) (v : W64) : (x.setReg i v).state = x.state := rfl
@[simp] theorem setReg_st (x : Ctx) (i : BitVec 5) (v : W64) : (x.setReg i v).st = x.st := rfl
@[simp] theorem setReg_pc (x : Ctx) (i : BitVec 5) (v : W64) : (x.setReg i v).pc = x.pc := rfl
@[simp] theorem setReg_stack (x : Ctx) (i : BitVec 5) (v : W64) : (x.setReg i v).stack = x.stack := rfl
@[simp] theorem setReg_queue (x : Ctx) (i : BitVec 5) (v : W64) : (x.setReg i v).queue = x.queue := rfl
@[simp] theorem setReg_didx (x : Ctx) (i : BitVec 5) (v : W64) : (x.setReg i v).didx = x.didx := rfl
@[simp] theorem setReg_tag (x : Ctx) (i : BitVec 5) (v : W64) : (x.setReg i v).tag = x.tag := rfl
@[simp] theorem setReg_notify (x : Ctx) (i : BitVec 5) (v : W64) : (x.setReg i v).notify = x.notify := rfl
@[simp] theorem setReg_limit (x : Ctx) (i : BitVec 5) (v : W64) : (x.setReg i v).limit = x.limit := rfl
@[simp] theorem setReg_expired (x : Ctx) (i : BitVec 5) (v : W64) : (x.setReg i v).expired = x.expired := rfl
@[simp] theorem setReg_label (x : Ctx) (i : BitVec 5) (v : W64) : (x.setReg i v).label = x.label := rfl
@[simp] theorem setReg_wait (x : Ctx) (i : BitVec 5) (v : W64) : (x.setReg i v).wait = x.wait := rfl
@[simp] theorem setReg_posted (x : Ctx) (i : BitVec 5) (v : W64) : (x.setReg i v).posted = x.posted := rfl
@[simp] theorem setReg_postFail (x : Ctx) (i : BitVec 5) (v : W64) : (x.setReg i v).postFail = x.postFail := rfl
@[simp] theorem setReg_postCode (x : Ctx) (i : BitVec 5) (v : W64) : (x.setReg i v).postCode = x.postCode := rfl
@[simp] theorem setReg_postAddr (x : Ctx) (i : BitVec 5) (v : W64) : (x.setReg i v).postAddr = x.postAddr := rfl
@[simp] theorem setReg_house (x : Ctx) (i : BitVec 5) (v : W64) : (x.setReg i v).house = x.house := rfl
@[simp] theorem setReg_houseStep (x : Ctx) (i : BitVec 5) (v : W64) : (x.setReg i v).houseStep = x.houseStep := rfl
@[simp] theorem setReg_lastArg (x : Ctx) (i : BitVec 5) (v : W64) : (x.setReg i v).lastArg = x.lastArg := rfl
@[simp] theorem setReg_hcall (x : Ctx) (i : BitVec 5) (v : W64) : (x.setReg i v).hcall = x.hcall := rfl
@[simp] theorem setReg_endCode (x : Ctx) (i : BitVec 5) (v : W64) : (x.setReg i v).endCode = x.endCode := rfl
@[simp] theorem setReg_lastPc (x : Ctx) (i : BitVec 5) (v : W64) : (x.setReg i v).lastPc = x.lastPc := rfl

/-- Registers do not change with a status. -/
@[simp] theorem withStatus_reg (x : Ctx) (a n : Nat) (k : BitVec 5) : (x.withStatus a n).reg k = x.reg k := rfl

/-- Registers do not change with the flags. -/
@[simp] theorem withFlags_reg (x : Ctx) (f : Flg) (k : BitVec 5) : (x.withFlags f).reg k = x.reg k := rfl

end Sys2Proof.Laws
end

