-- ==== Sys2Proof/Laws/Ops.lean ====
section
/-! SUPPORT. What the shared operations over the recorder and the counters can do to the state. -/

namespace Sys2Proof.Laws

open Sys2Proof Sys2Proof.Machine

/-- Two states agree but for the recorder, the buffers' bytes, the TRIG balls, which context of an engine took a step last and the
count of free values taken. -/
def CountersOnly (s t : State) : Prop :=
  ∃ (r : Records) (b : List (Nat × Byte)) (g : List Nat) (l : Tbl Nat) (n : Nat),
    t = { s with recs := r, eng := { s.eng with buf := b, trig := g, lastStep := l }, free := n }

/-- A state agrees with itself. -/
theorem CountersOnly.refl (s : State) : CountersOnly s s := ⟨s.recs, s.eng.buf, s.eng.trig, s.eng.lastStep, s.free, rfl⟩

/-- Agreement composes. -/
theorem CountersOnly.trans {s t u : State} (h : CountersOnly s t) (k : CountersOnly t u) : CountersOnly s u := by
  obtain ⟨r, b, g, l, n, rfl⟩ := h
  obtain ⟨r', b', g', l', n', rfl⟩ := k
  exact ⟨r', b', g', l', n', rfl⟩

/-- A change of the recorder alone. -/
theorem CountersOnly.onRecs {s t : State} (h : CountersOnly s t) (f : Records → Records) : CountersOnly s (t.onRecs f) :=
  h.trans ⟨f t.recs, t.eng.buf, t.eng.trig, t.eng.lastStep, t.free, rfl⟩

/-- A write to the buffers alone. -/
theorem CountersOnly.bufStore {s t : State} (h : CountersOnly s t) (a : Nat) (l : List Byte) :
    CountersOnly s (t.bufStore a l) :=
  h.trans ⟨t.recs, bufWrite t.eng.buf a l, t.eng.trig, t.eng.lastStep, t.free, rfl⟩

/-- Taking free values alone. -/
theorem CountersOnly.burn {s t : State} (h : CountersOnly s t) (n : Nat) : CountersOnly s (t.burn n) :=
  h.trans ⟨t.recs, t.eng.buf, t.eng.trig, t.eng.lastStep, t.free + n, rfl⟩

/-- Driving a TRIG ball alone. -/
theorem CountersOnly.trigHigh {s t : State} (h : CountersOnly s t) (b : Nat) : CountersOnly s (trigHigh t b) :=
  h.trans ⟨t.recs, t.eng.buf, updAt t.eng.trig b (fun _ => 2), t.eng.lastStep, t.free, rfl⟩

/-- Noting a step alone. -/
theorem CountersOnly.took {s t : State} (h : CountersOnly s t) (e c : Nat) : CountersOnly s (took t e c) :=
  h.trans ⟨t.recs, t.eng.buf, t.eng.trig, Tbl.put t.eng.lastStep e c, t.free, rfl⟩

/-- Records put in the ring change the recorder and buffer bytes only. -/
theorem CountersOnly.ringPut {s t : State} (h : CountersOnly s t) (q kind units : Nat) (body : List Byte) :
    CountersOnly s (ringPut t q kind units body) := by
  unfold Machine.ringPut
  cases t.queue q with
  | none => exact h
  | some qu =>
    dsimp only
    cases qu.ring with
    | none => exact h
    | some p =>
      dsimp only
      repeat' split
      all_goals
        repeat' first
          | with_reducible assumption
          | with_reducible apply CountersOnly.onRecs
          | with_reducible apply CountersOnly.bufStore

/-- A sample record changes the recorder, buffer bytes and free values only. -/
theorem CountersOnly.sampleRecord {s t : State} (h : CountersOnly s t) (kind : Nat) :
    CountersOnly s (sampleRecord t kind) := by
  unfold Machine.sampleRecord
  split
  · exact h
  · exact (h.burn 96).ringPut _ _ _ _

/-- Counting an event changes the counters, their ring, TRIG balls and free values only. -/
theorem CountersOnly.countTag {s t : State} (h : CountersOnly s t) (ev unit : Nat) (label : Option Nat) (n : Nat) :
    CountersOnly s (countTag t ev unit label n).1 := by
  unfold Machine.countTag
  dsimp only
  repeat' split
  all_goals
    repeat' first
      | with_reducible assumption
      | with_reducible apply CountersOnly.onRecs
      | with_reducible apply CountersOnly.trigHigh
      | with_reducible apply CountersOnly.sampleRecord

/-- The same of `count`. -/
theorem CountersOnly.count {s t : State} (h : CountersOnly s t) (ev unit : Nat) (label : Option Nat) (n : Nat) :
    CountersOnly s (count t ev unit label n) := by
  unfold Machine.count
  have k := h.countTag ev unit label n
  split
  rename_i u tag heq
  rw [heq] at k
  split
  · exact k.sampleRecord 2
  · exact k

/-- A histogram's sample changes the recorder only. -/
theorem CountersOnly.sample {s t : State} (k : CountersOnly s t) (h v : Nat) : CountersOnly s (sample t h v) := by
  unfold Machine.sample
  split
  · exact k
  · exact k.onRecs _

/-- An occurrence changes the recorder, or, while it is frozen, the events the Goose island keeps (R495, R498). -/
theorem record_cases (s : State) (cls detail : Nat) :
    (s.recs.frozen = true ∧ record s cls detail = s.onGoose (fun g => { g with held := g.held ++ [⟨cls, detail⟩] }))
    ∨ (s.recs.frozen = false ∧ ∃ f, record s cls detail = s.onRecs f) := by
  unfold record
  split
  · rename_i h
    exact .inl ⟨h, rfl⟩
  · rename_i h
    exact .inr ⟨by simpa using h, _, rfl⟩

end Sys2Proof.Laws
end

