-- ==== Sys2Proof/Laws/Task.lean ====
section
/-! SUPPORT. What a program's step does: an issued word runs its own part in the counted state. -/

namespace Sys2Proof.Laws

open Sys2Proof Sys2Proof.Machine

/-- What the counting of an issued instruction leaves: everything but the recorder, buffer bytes, TRIG balls, the engine's last
step and free values. -/
theorem countersOnly_issued (s : State) (e c : Nat) : CountersOnly s (s.issued e c) :=
  ((CountersOnly.refl s).took e c).count 0x12 e none 1

/-- An issued word of a command runs the command's own part in the counted state. -/
theorem synStep_issues {s : State} {e c op : Nat} {w : SWord} {mine : SWord → Bool} {body : State → SWord → State}
    (h : s.issues e c w op = true) (hm : mine w = true) : synStep s e c mine body = body (s.issued e c) w := by
  simp only [State.issues, Bool.and_eq_true, beq_iff_eq] at h
  obtain ⟨⟨⟨⟨⟨⟨h1, h2⟩, h3⟩, h4⟩, h5⟩, h6⟩, h7⟩ := h
  subst h4
  cases hr : opRow w.op with
  | none => simp [hr] at h7
  | some row =>
    simp only [hr, Bool.and_eq_true, Bool.or_eq_true, Bool.not_eq_true'] at h7
    obtain ⟨⟨h7, h8⟩, h9⟩ := h7
    obtain ⟨r, b, g, l, n, hc⟩ := countersOnly_issued s e c
    have k1 : (s.issued e c).issueOk (s.ctx e c).queue row w = true := by rw [hc]; exact h7
    have k2 : (s.issued e c).fullService = s.fullService := by rw [hc]; rfl
    have k3 : (s.issued e c).maps.readOnly = s.maps.readOnly := by rw [hc]
    simp only [State.issued] at k1 k2 k3
    simp only [synStep, h1, h2, h3, hm, h5, h6, hr, k1, k2, k3, State.issued, h9]
    cases hs : s.fullService <;> cases hl : row.lamb <;> simp_all

/-- The opcode of an issued word. -/
theorem issues_op {s : State} {e c op : Nat} {w : SWord} (h : s.issues e c w op = true) : w.op = op := by
  simp only [State.issues, Bool.and_eq_true, beq_iff_eq] at h
  exact h.1.1.1.2

/-- A context in a house routine takes that routine's next step. -/
theorem houseStepOf_inHouse {s : State} {e c n : Nat} (body : State → Nat → State) (h : s.inHouse e c n = true) :
    houseStepOf s e c n body = body (took s e c) (s.ctx e c).houseStep := by
  unfold houseStepOf
  exact if_pos h

end Sys2Proof.Laws
end

