-- ==== Sys2Proof/Laws/Frame.lean ====
section
/-! SUPPORT. What completing, jumping and ending a task leave alone; what counting leaves of the buffers. -/

namespace Sys2Proof.Laws

open Sys2Proof Sys2Proof.Machine

/-! ## Counting, with no ring of counters -/

/-- Counters keep the ring. -/
theorem ringQ_addCounters (l : List (Nat × Select)) (n : Nat) (r : Records) :
    (l.foldl (fun r p => addCounter r p.1 n) r).ringQ = r.ringQ := by
  induction l generalizing r with
  | nil => rfl
  | cons a l ih =>
    rw [List.foldl_cons, ih]
    unfold addCounter
    dsimp only
    repeat' split
    all_goals rfl

/-- With no ring of counters, counting keeps every buffer byte. -/
theorem buf_count {s : State} (h : s.recs.ringQ = none) (ev unit : Nat) (label : Option Nat) (n : Nat) :
    (count s ev unit label n).eng.buf = s.eng.buf := by
  have h2 : ∀ k, sampleRecord s k = s := by
    intro k
    simp [sampleRecord, h]
  have k : (countTag s ev unit label n).1.eng.buf = s.eng.buf ∧ (countTag s ev unit label n).1.recs.ringQ = none := by
    unfold countTag
    dsimp only
    rw [h2]
    repeat' split
    all_goals simp only [State.onRecs, trigHigh, ringQ_addCounters, h, and_self]
  unfold count
  generalize countTag s ev unit label n = z at k ⊢
  obtain ⟨t, tag⟩ := z
  dsimp only at k ⊢
  split
  · rw [show sampleRecord t 2 = t by simp only [sampleRecord, k.2]]
    exact k.1
  · exact k.1

/-- With no ring of counters, issuing an instruction keeps every buffer byte. -/
theorem buf_issued {s : State} (h : s.recs.ringQ = none) (e c : Nat) : (s.issued e c).eng.buf = s.eng.buf :=
  buf_count (s := took s e c) h _ _ _ _

/-! ## Nothing but one context -/

/-- Two states differ in one context only. -/
structure CtxOnly (e c : Nat) (s t : State) : Prop where
  rest : ∃ x, t = { s with eng := { s.eng with ctx := x } }
  other : ∀ f d, d < 32 → c < 32 → (f ≠ e ∨ d ≠ c) → t.ctx f d = s.ctx f d

/-- A state differs from itself in nothing. -/
theorem CtxOnly.refl {e c : Nat} {s : State} : CtxOnly e c s s := ⟨⟨_, rfl⟩, fun _ _ _ _ _ => rfl⟩

/-- Putting the context. -/
theorem CtxOnly.putCtx {e c : Nat} {s t : State} (h : CtxOnly e c s t) (x : Ctx) : CtxOnly e c s (t.putCtx e c x) := by
  obtain ⟨⟨y, rfl⟩, h2⟩ := h
  refine ⟨⟨_, rfl⟩, ?_⟩
  intro f d hd hc hn
  rw [ctx_putCtx, if_neg, h2 f d hd hc hn]
  intro k
  have := ctxKey_inj hc hd k
  omega

/-- Changing the context. -/
theorem CtxOnly.updCtx {e c : Nat} {s t : State} (h : CtxOnly e c s t) (f : Ctx → Ctx) : CtxOnly e c s (t.updCtx e c f) :=
  h.putCtx _

/-- Ending its task. -/
theorem CtxOnly.endTask {e c : Nat} {s t : State} (h : CtxOnly e c s t) (st : Nat) (b : Bool) :
    CtxOnly e c s (endTask t e c st b) := h.updCtx _

/-- Step control. -/
theorem CtxOnly.advance {e c : Nat} {s t : State} (h : CtxOnly e c s t) (st : Nat) : CtxOnly e c s (advance t e c st) := by
  unfold Machine.advance
  dsimp only
  repeat' split
  all_goals
    first
    | apply CtxOnly.putCtx
      exact h
    | exact h.endTask _ _

/-- Completing its instruction. -/
theorem CtxOnly.complete {e c : Nat} {s t : State} (h : CtxOnly e c s t) (st n : Nat) :
    CtxOnly e c s (complete t e c st n) := by
  unfold Machine.complete
  dsimp only
  repeat' split
  all_goals
    repeat' first
      | exact h
      | apply CtxOnly.putCtx
      | apply CtxOnly.endTask
      | apply CtxOnly.advance
      | apply CtxOnly.updCtx

/-- Writing a register and completing. -/
theorem CtxOnly.completeD {e c : Nat} {s t : State} (h : CtxOnly e c s t) (d : BitVec 5) (v : W64) (st n : Nat) :
    CtxOnly e c s (completeD t e c d v st n) := (h.updCtx _).complete st n

/-- Jumping. -/
theorem CtxOnly.jumpTo {e c : Nat} {s t : State} (h : CtxOnly e c s t) (g : Nat) : CtxOnly e c s (jumpTo t e c g) := by
  unfold Machine.jumpTo
  dsimp only
  split
  · exact (h.putCtx _).endTask _ _
  · exact h.putCtx _

/-- Completing keeps the buffers. -/
@[simp] theorem buf_complete (s : State) (e c st n : Nat) : (complete s e c st n).eng.buf = s.eng.buf := by
  obtain ⟨x, hx⟩ := ((CtxOnly.refl (e := e) (c := c) (s := s)).complete st n).rest
  rw [hx]

/-! ## Registers and flags -/

/-- Ending a task keeps registers and st. -/
theorem endTask_regs (s : State) (e c st : Nat) (b : Bool) :
    ((endTask s e c st b).ctx e c).g = (s.ctx e c).g ∧ ((endTask s e c st b).ctx e c).st = (s.ctx e c).st := by
  unfold endTask
  rw [ctx_updCtx_self]
  split <;> exact ⟨rfl, rfl⟩

/-- Step control keeps registers and st. -/
theorem advance_regs (s : State) (e c st : Nat) :
    ((advance s e c st).ctx e c).g = (s.ctx e c).g ∧ ((advance s e c st).ctx e c).st = (s.ctx e c).st := by
  unfold advance
  dsimp only
  repeat' split
  all_goals
    first
    | exact endTask_regs ..
    | rw [ctx_putCtx_self]
      exact ⟨rfl, rfl⟩

/-- Completing keeps registers and flags. -/
theorem complete_regs (s : State) (e c st n : Nat) :
    ((complete s e c st n).ctx e c).g = (s.ctx e c).g
      ∧ flagsOf ((complete s e c st n).ctx e c).st = flagsOf (s.ctx e c).st := by
  unfold complete
  dsimp only
  repeat' split
  all_goals
    first
    | rw [(endTask_regs ..).1, (endTask_regs ..).2]
    | rw [(advance_regs ..).1, (advance_regs ..).2]
    | skip
  all_goals simp

/-- Jumping keeps registers and flags. -/
theorem jumpTo_regs (s : State) (e c n : Nat) :
    ((jumpTo s e c n).ctx e c).g = (s.ctx e c).g ∧ flagsOf ((jumpTo s e c n).ctx e c).st = flagsOf (s.ctx e c).st := by
  unfold jumpTo
  dsimp only
  split
  · rw [(endTask_regs ..).1, (endTask_regs ..).2]
    simp
  · simp

/-! ## The frame of a program's step -/

/-- From s to t only context c of engine e changes, and of it the registers that A names and, where F holds, the flags stay. -/
structure CtxFrame (e c : Nat) (A : BitVec 5 → Prop) (F : Prop) (s t : State) : Prop where
  only : CtxOnly e c s t
  regs : ∀ k, A k → (t.ctx e c).reg k = (s.ctx e c).reg k
  flags : F → flagsOf (t.ctx e c).st = flagsOf (s.ctx e c).st

/-- Nothing changes. -/
theorem CtxFrame.refl {e c : Nat} {A : BitVec 5 → Prop} {F : Prop} {s : State} : CtxFrame e c A F s s :=
  ⟨CtxOnly.refl, fun _ _ => rfl, fun _ => rfl⟩

/-- Ending the task. -/
theorem CtxFrame.endTask {e c : Nat} {A : BitVec 5 → Prop} {F : Prop} {s t : State} (h : CtxFrame e c A F s t) (st : Nat)
    (b : Bool) : CtxFrame e c A F s (endTask t e c st b) :=
  ⟨h.only.endTask _ _, fun k hk => by rw [← h.regs k hk]; unfold Ctx.reg; rw [(endTask_regs ..).1],
    fun hf => by rw [(endTask_regs ..).2, h.flags hf]⟩

/-- Completing. -/
theorem CtxFrame.complete {e c : Nat} {A : BitVec 5 → Prop} {F : Prop} {s t : State} (h : CtxFrame e c A F s t) (st n : Nat) :
    CtxFrame e c A F s (complete t e c st n) :=
  ⟨h.only.complete _ _, fun k hk => by rw [← h.regs k hk]; unfold Ctx.reg; rw [(complete_regs ..).1],
    fun hf => by rw [(complete_regs ..).2, h.flags hf]⟩

/-- Jumping. -/
theorem CtxFrame.jumpTo {e c : Nat} {A : BitVec 5 → Prop} {F : Prop} {s t : State} (h : CtxFrame e c A F s t) (n : Nat) :
    CtxFrame e c A F s (jumpTo t e c n) :=
  ⟨h.only.jumpTo _, fun k hk => by rw [← h.regs k hk]; unfold Ctx.reg; rw [(jumpTo_regs ..).1],
    fun hf => by rw [(jumpTo_regs ..).2, h.flags hf]⟩

/-- A change of the context that keeps what must stay. -/
theorem CtxFrame.updCtx {e c : Nat} {A : BitVec 5 → Prop} {F : Prop} {s t : State} (h : CtxFrame e c A F s t) (f : Ctx → Ctx)
    (h1 : ∀ x k, A k → (f x).reg k = x.reg k) (h2 : ∀ x, F → flagsOf (f x).st = flagsOf x.st) :
    CtxFrame e c A F s (t.updCtx e c f) :=
  ⟨h.only.updCtx _, fun k hk => by rw [ctx_updCtx_self, h1 _ _ hk, h.regs k hk],
    fun hf => by rw [ctx_updCtx_self, h2 _ hf, h.flags hf]⟩

/-- Writing a register that need not stay, and completing. -/
theorem CtxFrame.completeD {e c : Nat} {A : BitVec 5 → Prop} {F : Prop} {s t : State} (h : CtxFrame e c A F s t)
    {d : BitVec 5} (hd : ∀ k, A k → k ≠ d) (v : W64) (st n : Nat) : CtxFrame e c A F s (completeD t e c d v st n) :=
  (h.updCtx (fun x => x.setReg d v) (fun x k hk => by rw [reg_setReg, if_neg (hd k hk)]) (fun _ _ => rfl)).complete st n

/-- A step whose own part keeps a frame: every other outcome of the checks of R328 keeps it too, from the state itself, from the state
that has noted the step, or from the state that has counted the issue. -/
theorem synStep_frame {e c : Nat} {A : BitVec 5 → Prop} {F : Prop} {s : State} {mine : SWord → Bool}
    {body : State → SWord → State} (hb : ∀ u, CtxFrame e c A F u (body u (s.wordAt e c))) :
    CtxFrame e c A F s (synStep s e c mine body) ∨ CtxFrame e c A F (took s e c) (synStep s e c mine body)
      ∨ CtxFrame e c A F (s.issued e c) (synStep s e c mine body) := by
  unfold synStep
  split
  · dsimp only
    split
    · exact .inr (.inl (CtxFrame.refl.endTask _ _))
    · split
      · exact .inl .refl
      · rw [show count (took s e c) 0x12 e none 1 = s.issued e c from rfl]
        split
        · exact .inr (.inr .refl)
        · repeat' split
          all_goals
            first
            | exact .inr (.inr (CtxFrame.refl.complete _ _))
            | exact .inr (.inr (hb _))
  · exact .inl .refl

end Sys2Proof.Laws
end

