-- ==== Sys2Proof/Laws/Keeps.lean ====
section
/-! SUPPORT. What every operation of the model keeps: the queue of waiting commands, the fuses of the owner key hash once they are
burned, the canonical form of the queue buffers, and the order in which free values are taken; the tables under it. -/

namespace Sys2Proof.Laws

open Sys2Proof Sys2Proof.Machine

/-! ## The queue buffers' canonical form -/

/-- Every key of a table is above a bound. -/
theorem tbl_wf_cons {α : Type} {a : Nat} {b : α} {t : Tbl α} :
    Tbl.wf ((a, b) :: t) = true ↔ (∀ p ∈ t, a < p.1) ∧ Tbl.wf t = true := by
  induction t generalizing a b with
  | nil => simp [Tbl.wf]
  | cons q t ih =>
    obtain ⟨c, d⟩ := q
    rw [Tbl.wf, Bool.and_eq_true, decide_eq_true_eq, ih]
    constructor
    · rintro ⟨h1, h2, h3⟩
      refine ⟨?_, h2, h3⟩
      intro p hp
      rcases List.mem_cons.mp hp with rfl | hp
      · exact h1
      · exact Nat.lt_trans h1 (h2 p hp)
    · rintro ⟨h1, h2, h3⟩
      exact ⟨h1 (c, d) (List.mem_cons_self ..), h2, h3⟩

/-- Filtering keeps the keys of a table rising. -/
theorem tbl_wf_filter {α : Type} (t : Tbl α) (f : Nat × α → Bool) (h : Tbl.wf t = true) : Tbl.wf (t.filter f) = true := by
  induction t with
  | nil => rfl
  | cons q t ih =>
    obtain ⟨c, d⟩ := q
    obtain ⟨h1, h2⟩ := tbl_wf_cons.mp h
    rw [List.filter_cons]
    split
    · exact tbl_wf_cons.mpr ⟨fun p hp => h1 p ((List.mem_filter.mp hp).1), ih h2⟩
    · exact ih h2

/-- What a put leaves in a table: the new entry and entries of the old one. -/
theorem tbl_mem_put {α : Type} {t : Tbl α} {k : Nat} {v : α} {p : Nat × α} (h : p ∈ Tbl.put t k v) : p = (k, v) ∨ p ∈ t := by
  induction t with
  | nil => simpa [Tbl.put] using h
  | cons q t ih =>
    obtain ⟨c, d⟩ := q
    simp only [Tbl.put] at h
    split at h
    · rcases List.mem_cons.mp h with h | h
      · exact .inl h
      · exact .inr h
    · split at h
      · rcases List.mem_cons.mp h with h | h
        · exact .inl h
        · exact .inr (List.mem_cons_of_mem _ h)
      · rcases List.mem_cons.mp h with h | h
        · exact .inr (h ▸ List.mem_cons_self ..)
        · rcases ih h with h | h
          · exact .inl h
          · exact .inr (List.mem_cons_of_mem _ h)

/-- A put keeps the keys of a table rising. -/
theorem tbl_wf_put {α : Type} (t : Tbl α) (k : Nat) (v : α) (h : Tbl.wf t = true) : Tbl.wf (Tbl.put t k v) = true := by
  induction t with
  | nil => rfl
  | cons q t ih =>
    obtain ⟨c, d⟩ := q
    obtain ⟨h1, h2⟩ := tbl_wf_cons.mp h
    simp only [Tbl.put]
    split
    · rename_i hk
      refine tbl_wf_cons.mpr ⟨?_, h⟩
      intro p hp
      rcases List.mem_cons.mp hp with rfl | hp
      · exact hk
      · exact Nat.lt_trans hk (h1 p hp)
    · split
      · rename_i hk
        subst hk
        exact tbl_wf_cons.mpr ⟨h1, h2⟩
      · rename_i hk hc
        refine tbl_wf_cons.mpr ⟨?_, ih h2⟩
        intro p hp
        rcases tbl_mem_put hp with rfl | hp
        · show c < k
          omega
        · exact h1 p hp

/-- The canonical form of the buffers as a proposition. -/
theorem buf_wf_iff {b : List (Nat × Byte)} : Buf.wf b = true ↔ Tbl.wf b = true ∧ ∀ p ∈ b, p.2 ≠ 0 := by
  simp [Buf.wf, List.all_eq_true]

/-- Filtering keeps the canonical form. -/
theorem buf_wf_filter {b : List (Nat × Byte)} (f : Nat × Byte → Bool) (h : Buf.wf b = true) : Buf.wf (b.filter f) = true := by
  obtain ⟨h1, h2⟩ := buf_wf_iff.mp h
  exact buf_wf_iff.mpr ⟨tbl_wf_filter b f h1, fun p hp => h2 p ((List.mem_filter.mp hp).1)⟩

/-- Writing a byte keeps the canonical form. -/
theorem buf_wf_bufPut {b : List (Nat × Byte)} (a : Nat) (v : Byte) (h : Buf.wf b = true) : Buf.wf (bufPut b a v) = true := by
  unfold bufPut
  split
  · exact buf_wf_filter _ h
  · rename_i hv
    obtain ⟨h1, h2⟩ := buf_wf_iff.mp h
    refine buf_wf_iff.mpr ⟨tbl_wf_put b a v h1, fun p hp => ?_⟩
    rcases tbl_mem_put hp with rfl | hp
    · exact hv
    · exact h2 p hp

/-- Writing bytes keeps the canonical form. -/
theorem buf_wf_bufWrite {b : List (Nat × Byte)} (a : Nat) (l : List Byte) (h : Buf.wf b = true) :
    Buf.wf (bufWrite b a l) = true := by
  induction l generalizing b a with
  | nil => exact h
  | cons v t ih => exact ih (a + 1) (buf_wf_bufPut a v h)

/-! ## The relation -/

/-- From a state on, these five parts are as `Keeps` says. -/
structure KeepsParts (s0 : State) (pending : List Instr) (set : Bool) (okh : BitVec 384) (buf : List (Nat × Byte)) (free : Nat) :
    Prop where
  queue : pending = s0.pending
  fuses : s0.boot.okhSet = true → set = true ∧ okh = s0.boot.okh
  canon : Buf.wf s0.eng.buf = true → Buf.wf buf = true
  onward : s0.free ≤ free

/-- A state t that the model reaches from s0 holds the same queue, keeps a burned owner key hash, keeps the buffers canonical and
has taken free values only onward. -/
def Keeps (s0 t : State) : Prop := KeepsParts s0 t.pending t.boot.okhSet t.boot.okh t.eng.buf t.free

/-- Every state keeps itself. -/
theorem Keeps.refl (s : State) : Keeps s s := ⟨rfl, fun h => ⟨h, rfl⟩, fun h => h, Nat.le_refl _⟩

/-- The five parts are those of one state. -/
theorem Keeps.parts {s0 t : State} (h : Keeps s0 t) : KeepsParts s0 t.pending t.boot.okhSet t.boot.okh t.eng.buf t.free := h

/-- A state is judged by its five parts. -/
theorem Keeps.of {s0 t : State} (h : KeepsParts s0 t.pending t.boot.okhSet t.boot.okh t.eng.buf t.free) : Keeps s0 t := h

/-- Keeping composes. -/
theorem Keeps.trans {s t u : State} (h : Keeps s t) (k : Keeps t u) : Keeps s u := by
  refine ⟨k.queue.trans h.queue, fun hs => ?_, fun hb => k.canon (h.canon hb), Nat.le_trans h.onward k.onward⟩
  obtain ⟨a, b⟩ := h.fuses hs
  obtain ⟨c, d⟩ := k.fuses a
  exact ⟨c, d.trans b⟩

/-- A state that agrees in everything but the recorder, TRIG balls, free values and canonical buffers. -/
theorem Keeps.more {s0 t : State} {n : Nat} {b : List (Nat × Byte)} (h : Keeps s0 t)
    (hb : Buf.wf t.eng.buf = true → Buf.wf b = true) (hn : t.free ≤ n) :
    KeepsParts s0 t.pending t.boot.okhSet t.boot.okh b n :=
  ⟨h.queue, h.fuses, fun k => hb (h.canon k), Nat.le_trans h.onward hn⟩

/-- A fold of operations that keep. -/
theorem Keeps.foldl {α : Type} {s0 s : State} {f : State → α → State} {l : List α} (h : Keeps s0 s)
    (hf : ∀ t x, Keeps s0 t → Keeps s0 (f t x)) : Keeps s0 (l.foldl f s) := by
  induction l generalizing s with
  | nil => exact h
  | cons a t ih => exact ih (hf s a h)

/-- A fold that carries a value beside the state. -/
theorem Keeps.foldlPair {α β : Type} {s0 : State} {f : State × β → α → State × β} {l : List α} {p : State × β}
    (h : Keeps s0 p.1) (hf : ∀ q x, Keeps s0 q.1 → Keeps s0 (f q x).1) : Keeps s0 (l.foldl f p).1 := by
  induction l generalizing p with
  | nil => exact h
  | cons a t ih => exact ih (hf p a h)

end Sys2Proof.Laws
end

