-- ==== Sys2Proof/Laws/KeepsTask.lean ====
section
/-! SUPPORT. What the shared operations, the tasks, the flow and register instructions keep (see Laws/Keeps.lean): one lemma per operation. -/

namespace Sys2Proof.Laws

open Sys2Proof Sys2Proof.Machine

/-! ## Machine/Ops.lean -/

theorem keeps_updPort {z0 s : State} (h : Keeps z0 s) (p : Nat) (f : Port → Port) :
    Keeps z0 (State.updPort s p f) := by
  unfold State.updPort
  try dsimp only
  repeat' first
    | with_reducible assumption
    | split
    | (refine Keeps.of ?_; dsimp only; with_reducible refine Keeps.parts ?_)

theorem keeps_updSess {z0 s : State} (h : Keeps z0 s) (p n : Nat) (f : Session → Session) :
    Keeps z0 (State.updSess s p n f) := by
  unfold State.updSess
  try dsimp only
  repeat' first
    | with_reducible assumption
    | with_reducible apply keeps_updPort
    | split
    | (refine Keeps.of ?_; dsimp only; with_reducible refine Keeps.parts ?_)

theorem keeps_putCtx {z0 s : State} (h : Keeps z0 s) (e c : Nat) (x : Ctx) :
    Keeps z0 (State.putCtx s e c x) := by
  unfold State.putCtx
  try dsimp only
  repeat' first
    | with_reducible assumption
    | split
    | (refine Keeps.of ?_; dsimp only; with_reducible refine Keeps.parts ?_)

theorem keeps_updCtx {z0 s : State} (h : Keeps z0 s) (e c : Nat) (f : Ctx → Ctx) :
    Keeps z0 (State.updCtx s e c f) := by
  unfold State.updCtx
  try dsimp only
  repeat' first
    | with_reducible assumption
    | with_reducible apply keeps_putCtx
    | split
    | (refine Keeps.of ?_; dsimp only; with_reducible refine Keeps.parts ?_)

theorem keeps_updChan {z0 s : State} (h : Keeps z0 s) (c : Nat) (f : Chan → Chan) :
    Keeps z0 (State.updChan s c f) := by
  unfold State.updChan
  try dsimp only
  repeat' first
    | with_reducible assumption
    | split
    | (refine Keeps.of ?_; dsimp only; with_reducible refine Keeps.parts ?_)

theorem keeps_updQueue {z0 s : State} (h : Keeps z0 s) (q : Nat) (f : Queue → Queue) :
    Keeps z0 (State.updQueue s q f) := by
  unfold State.updQueue
  try dsimp only
  repeat' first
    | with_reducible assumption
    | split
    | (refine Keeps.of ?_; dsimp only; with_reducible refine Keeps.parts ?_)

theorem keeps_onCache {z0 s : State} (h : Keeps z0 s) (f : Cache → Cache) :
    Keeps z0 (State.onCache s f) := by
  unfold State.onCache
  try dsimp only
  repeat' first
    | with_reducible assumption
    | split
    | (refine Keeps.of ?_; dsimp only; with_reducible refine Keeps.parts ?_)

theorem keeps_onMaps {z0 s : State} (h : Keeps z0 s) (f : MapSt → MapSt) :
    Keeps z0 (State.onMaps s f) := by
  unfold State.onMaps
  try dsimp only
  repeat' first
    | with_reducible assumption
    | split
    | (refine Keeps.of ?_; dsimp only; with_reducible refine Keeps.parts ?_)

theorem keeps_onPers {z0 s : State} (h : Keeps z0 s) (f : Persist → Persist) :
    Keeps z0 (State.onPers s f) := by
  unfold State.onPers
  try dsimp only
  repeat' first
    | with_reducible assumption
    | split
    | (refine Keeps.of ?_; dsimp only; with_reducible refine Keeps.parts ?_)

theorem keeps_onGoose {z0 s : State} (h : Keeps z0 s) (f : Goose → Goose) :
    Keeps z0 (State.onGoose s f) := by
  unfold State.onGoose
  try dsimp only
  repeat' first
    | with_reducible assumption
    | split
    | (refine Keeps.of ?_; dsimp only; with_reducible refine Keeps.parts ?_)

theorem keeps_onRecs {z0 s : State} (h : Keeps z0 s) (f : Records → Records) :
    Keeps z0 (State.onRecs s f) := by
  unfold State.onRecs
  try dsimp only
  repeat' first
    | with_reducible assumption
    | split
    | (refine Keeps.of ?_; dsimp only; with_reducible refine Keeps.parts ?_)

theorem keeps_burn {s0 s : State} (h : Keeps s0 s) (n : Nat) : Keeps s0 (s.burn n) :=
  Keeps.of (Keeps.more (t := s) h (fun k => k) (Nat.le_add_right _ _))

theorem keeps_record {z0 s : State} (h : Keeps z0 s) (cls detail : Nat) :
    Keeps z0 (record s cls detail) := by
  unfold record
  try dsimp only
  repeat' first
    | with_reducible assumption
    | with_reducible apply keeps_onGoose
    | with_reducible apply keeps_onRecs
    | split
    | (refine Keeps.of ?_; dsimp only; with_reducible refine Keeps.parts ?_)

theorem keeps_sample {z0 s : State} (hh : Keeps z0 s) (h v : Nat) :
    Keeps z0 (sample s h v) := by
  unfold sample
  try dsimp only
  repeat' first
    | with_reducible assumption
    | with_reducible apply keeps_onRecs
    | split
    | (refine Keeps.of ?_; dsimp only; with_reducible refine Keeps.parts ?_)

theorem keeps_irq {z0 s : State} (h : Keeps z0 s) (i : Nat) :
    Keeps z0 (irq s i) := by
  unfold irq
  try dsimp only
  repeat' first
    | with_reducible assumption
    | split
    | (refine Keeps.of ?_; dsimp only; with_reducible refine Keeps.parts ?_)

theorem keeps_bufStore {s0 s : State} (h : Keeps s0 s) (a : Nat) (l : List Byte) : Keeps s0 (s.bufStore a l) :=
  Keeps.of (Keeps.more (t := s) h (buf_wf_bufWrite a l) (Nat.le_refl _))

theorem keeps_ringPut {z0 s : State} (h : Keeps z0 s) (q : Nat) (kind units : Nat) (body : List Byte) :
    Keeps z0 (ringPut s q kind units body) := by
  unfold ringPut
  try dsimp only
  repeat' first
    | with_reducible assumption
    | with_reducible apply keeps_bufStore
    | with_reducible apply keeps_onRecs
    | split
    | (refine Keeps.of ?_; dsimp only; with_reducible refine Keeps.parts ?_)

theorem keeps_sampleRecord {z0 s : State} (h : Keeps z0 s) (kind : Nat) :
    Keeps z0 (sampleRecord s kind) := by
  unfold sampleRecord
  try dsimp only
  repeat' first
    | with_reducible assumption
    | with_reducible apply keeps_ringPut
    | with_reducible apply keeps_burn
    | split
    | (refine Keeps.of ?_; dsimp only; with_reducible refine Keeps.parts ?_)

theorem keeps_trigHigh {z0 s : State} (h : Keeps z0 s) (b : Nat) :
    Keeps z0 (trigHigh s b) := by
  unfold trigHigh
  try dsimp only
  repeat' first
    | with_reducible assumption
    | split
    | (refine Keeps.of ?_; dsimp only; with_reducible refine Keeps.parts ?_)

theorem keeps_countTag {s0 s : State} (h : Keeps s0 s) (ev unit : Nat) (label : Option Nat) (n : Nat) :
    Keeps s0 (countTag s ev unit label n).1 := by
  unfold countTag
  dsimp only
  repeat' first
    | with_reducible assumption
    | with_reducible apply keeps_onRecs
    | with_reducible apply keeps_trigHigh
    | with_reducible apply keeps_sampleRecord
    | split

theorem keeps_countTag_eq {z0 s out : State} {ev unit : Nat} {label : Option Nat} {n : Nat} {res : Bool} (h : Keeps z0 s)
    (hu : countTag s ev unit label n = (out, res)) : Keeps z0 out := by
  have k := keeps_countTag h ev unit label n
  rw [hu] at k
  exact k

theorem keeps_count {s0 s : State} (h : Keeps s0 s) (ev unit : Nat) (label : Option Nat) (n : Nat) :
    Keeps s0 (count s ev unit label n) := by
  have k := keeps_countTag h ev unit label n
  unfold count
  split
  rename_i heq
  rw [heq] at k
  split
  · exact keeps_sampleRecord k _
  · exact k

theorem keeps_countReq {s0 s : State} (h : Keeps s0 s) (r : Req) (ev unit n : Nat) :
    Keeps s0 (countReq s r ev unit n).1 := by
  have k := keeps_countTag h ev unit (some r.label) n
  unfold countReq
  split
  rename_i heq
  rw [heq] at k
  exact k

theorem keeps_countReq_eq {z0 s out : State} {r : Req} {ev unit : Nat} {n : Nat} {res : Req} (h : Keeps z0 s)
    (hu : countReq s r ev unit n = (out, res)) : Keeps z0 out := by
  have k := keeps_countReq h r ev unit n
  rw [hu] at k
  exact k

theorem keeps_sendMsg {z0 s : State} (h : Keeps z0 s) (p : Nat) (m : Msg) :
    Keeps z0 (sendMsg s p m) := by
  unfold sendMsg
  try dsimp only
  repeat' first
    | with_reducible assumption
    | with_reducible apply keeps_updPort
    | split
    | (refine Keeps.of ?_; dsimp only; with_reducible refine Keeps.parts ?_)

theorem keeps_sendCpl {z0 s : State} (h : Keeps z0 s) (p n tag vc status dlen : Nat) (data : Line) :
    Keeps z0 (sendCpl s p n tag vc status dlen data) := by
  unfold sendCpl
  try dsimp only
  repeat' first
    | with_reducible assumption
    | with_reducible apply keeps_sendMsg
    | split
    | (refine Keeps.of ?_; dsimp only; with_reducible refine Keeps.parts ?_)

theorem keeps_putArb {z0 s : State} (h : Keeps z0 s) (a : Nat) (x : Arb) :
    Keeps z0 (State.putArb s a x) := by
  unfold State.putArb
  try dsimp only
  repeat' first
    | with_reducible assumption
    | split
    | (refine Keeps.of ?_; dsimp only; with_reducible refine Keeps.parts ?_)

theorem keeps_arbWant {z0 s : State} (h : Keeps z0 s) (a q : Nat) :
    Keeps z0 (arbWant s a q) := by
  unfold arbWant
  try dsimp only
  repeat' first
    | with_reducible assumption
    | with_reducible apply keeps_putArb
    | split
    | (refine Keeps.of ?_; dsimp only; with_reducible refine Keeps.parts ?_)

theorem keeps_arbDrop {z0 s : State} (h : Keeps z0 s) (a q : Nat) :
    Keeps z0 (arbDrop s a q) := by
  unfold arbDrop
  try dsimp only
  repeat' first
    | with_reducible assumption
    | with_reducible apply keeps_putArb
    | split
    | (refine Keeps.of ?_; dsimp only; with_reducible refine Keeps.parts ?_)

/-! ## Machine/Flags.lean -/

/-! ## Machine/Operands.lean -/

/-! ## Machine/Task.lean -/

theorem keeps_endTask {z0 s : State} (h : Keeps z0 s) (e c status : Nat) (forced : Bool) :
    Keeps z0 (endTask s e c status forced) := by
  unfold endTask
  try dsimp only
  repeat' first
    | with_reducible assumption
    | with_reducible apply keeps_updCtx
    | split
    | (refine Keeps.of ?_; dsimp only; with_reducible refine Keeps.parts ?_)

theorem keeps_advance {z0 s : State} (h : Keeps z0 s) (e c st : Nat) :
    Keeps z0 (advance s e c st) := by
  unfold advance
  try dsimp only
  repeat' first
    | with_reducible assumption
    | with_reducible apply keeps_putCtx
    | with_reducible apply keeps_endTask
    | split
    | (refine Keeps.of ?_; dsimp only; with_reducible refine Keeps.parts ?_)

theorem keeps_complete {z0 s : State} (h : Keeps z0 s) (e c st cnt : Nat) :
    Keeps z0 (complete s e c st cnt) := by
  unfold complete
  try dsimp only
  repeat' first
    | with_reducible assumption
    | with_reducible apply keeps_putCtx
    | with_reducible apply keeps_endTask
    | with_reducible apply keeps_advance
    | with_reducible apply keeps_updCtx
    | split
    | (refine Keeps.of ?_; dsimp only; with_reducible refine Keeps.parts ?_)

theorem keeps_completeD {z0 s : State} (h : Keeps z0 s) (e c : Nat) (d : BitVec 5) (v : W64) (st cnt : Nat) :
    Keeps z0 (completeD s e c d v st cnt) := by
  unfold completeD
  try dsimp only
  repeat' first
    | with_reducible assumption
    | with_reducible apply keeps_complete
    | with_reducible apply keeps_updCtx
    | split
    | (refine Keeps.of ?_; dsimp only; with_reducible refine Keeps.parts ?_)

theorem keeps_jumpTo {z0 s : State} (h : Keeps z0 s) (e c target : Nat) :
    Keeps z0 (jumpTo s e c target) := by
  unfold jumpTo
  try dsimp only
  repeat' first
    | with_reducible assumption
    | with_reducible apply keeps_putCtx
    | with_reducible apply keeps_endTask
    | split
    | (refine Keeps.of ?_; dsimp only; with_reducible refine Keeps.parts ?_)

theorem keeps_suspend {z0 s : State} (h : Keeps z0 s) (e c : Nat) (w : Wait) :
    Keeps z0 (suspend s e c w) := by
  unfold suspend
  try dsimp only
  repeat' first
    | with_reducible assumption
    | with_reducible apply keeps_updCtx
    | split
    | (refine Keeps.of ?_; dsimp only; with_reducible refine Keeps.parts ?_)

theorem keeps_took {z0 s : State} (h : Keeps z0 s) (e c : Nat) :
    Keeps z0 (took s e c) := by
  unfold took
  try dsimp only
  repeat' first
    | with_reducible assumption
    | split
    | (refine Keeps.of ?_; dsimp only; with_reducible refine Keeps.parts ?_)

theorem keeps_synStep {s0 s : State} (h : Keeps s0 s) (e c : Nat) (mine : SWord → Bool) (body : State → SWord → State)
    (hb : ∀ t w, Keeps s0 t → Keeps s0 (body t w)) : Keeps s0 (synStep s e c mine body) := by
  unfold synStep
  dsimp only
  repeat' first
    | with_reducible assumption
    | with_reducible apply keeps_complete
    | with_reducible apply keeps_count
    | with_reducible apply keeps_endTask
    | with_reducible apply keeps_took
    | with_reducible apply hb
    | split

theorem keeps_houseStepOf {s0 s : State} (h : Keeps s0 s) (e c n : Nat) (body : State → Nat → State)
    (hb : ∀ t k, Keeps s0 t → Keeps s0 (body t k)) : Keeps s0 (houseStepOf s e c n body) := by
  unfold houseStepOf
  split
  · exact hb _ _ (keeps_took h _ _)
  · exact h

theorem keeps_resumeAll {z0 s : State} (h : Keeps z0 s) (f : Wait → Bool) (st cnt : Nat) :
    Keeps z0 (resumeAll s f st cnt) := by
  unfold resumeAll
  try dsimp only
  repeat' first
    | with_reducible assumption
    | with_reducible apply keeps_complete
    | with_reducible apply Keeps.foldl
    | with_reducible apply Keeps.foldlPair
    | (intro _; intros; try dsimp only)
    | split
    | (refine Keeps.of ?_; dsimp only; with_reducible refine Keeps.parts ?_)

theorem keeps_wakeNotify {z0 s : State} (h : Keeps z0 s) (q : Nat) :
    Keeps z0 (wakeNotify s q) := by
  unfold wakeNotify
  try dsimp only
  repeat' first
    | with_reducible assumption
    | with_reducible apply keeps_updQueue
    | with_reducible apply keeps_updCtx
    | with_reducible apply keeps_complete
    | split
    | (refine Keeps.of ?_; dsimp only; with_reducible refine Keeps.parts ?_)

theorem keeps_latchAt {z0 s : State} (h : Keeps z0 s) (q : Nat) (n : Ntf) :
    Keeps z0 (latchAt s q n) := by
  unfold latchAt
  try dsimp only
  repeat' first
    | with_reducible assumption
    | with_reducible apply keeps_wakeNotify
    | with_reducible apply keeps_updQueue
    | split
    | (refine Keeps.of ?_; dsimp only; with_reducible refine Keeps.parts ?_)

theorem keeps_notify {z0 s : State} (h : Keeps z0 s) (q kind status subject : Nat) :
    Keeps z0 (notify s q kind status subject) := by
  unfold notify
  try dsimp only
  repeat' first
    | with_reducible assumption
    | with_reducible apply keeps_latchAt
    | with_reducible apply keeps_updSess
    | split
    | (refine Keeps.of ?_; dsimp only; with_reducible refine Keeps.parts ?_)

theorem keeps_notifyDevice {z0 s : State} (h : Keeps z0 s) (status subject : Nat) (latched : Bool) :
    Keeps z0 (notifyDevice s status subject latched) := by
  unfold notifyDevice
  try dsimp only
  repeat' first
    | with_reducible assumption
    | with_reducible apply keeps_latchAt
    | with_reducible apply Keeps.foldl
    | with_reducible apply Keeps.foldlPair
    | (intro _; intros; try dsimp only)
    | split
    | (refine Keeps.of ?_; dsimp only; with_reducible refine Keeps.parts ?_)

theorem keeps_notifyCommit {z0 s : State} (h : Keeps z0 s) (owner : Option Nat) (status subject : Nat) :
    Keeps z0 (notifyCommit s owner status subject) := by
  unfold notifyCommit
  try dsimp only
  repeat' first
    | with_reducible assumption
    | with_reducible apply keeps_notify
    | with_reducible apply Keeps.foldl
    | with_reducible apply Keeps.foldlPair
    | (intro _; intros; try dsimp only)
    | split
    | (refine Keeps.of ?_; dsimp only; with_reducible refine Keeps.parts ?_)

theorem keeps_claimFor {z0 s : State} (h : Keeps z0 s) (q r : Nat) :
    Keeps z0 (claimFor s q r) := by
  unfold claimFor
  try dsimp only
  repeat' first
    | with_reducible assumption
    | split
    | (refine Keeps.of ?_; dsimp only; with_reducible refine Keeps.parts ?_)

theorem keeps_dropUses {z0 s : State} (h : Keeps z0 s) (r : Nat) :
    Keeps z0 (dropUses s r) := by
  unfold dropUses
  try dsimp only
  repeat' first
    | with_reducible assumption
    | split
    | (refine Keeps.of ?_; dsimp only; with_reducible refine Keeps.parts ?_)

theorem keeps_freeClaim {z0 s0 : State} (h : Keeps z0 s0) (r : Nat) :
    Keeps z0 (freeClaim s0 r) := by
  unfold freeClaim
  try dsimp only
  repeat' first
    | with_reducible assumption
    | with_reducible apply keeps_dropUses
    | split
    | (refine Keeps.of ?_; dsimp only; with_reducible refine Keeps.parts ?_)

theorem keeps_trigIdle {z0 s : State} (h : Keeps z0 s) (b : Nat) :
    Keeps z0 (trigIdle s b) := by
  unfold trigIdle
  try dsimp only
  repeat' first
    | with_reducible assumption
    | split
    | (refine Keeps.of ?_; dsimp only; with_reducible refine Keeps.parts ?_)

theorem keeps_takeRes {z0 s : State} (h : Keeps z0 s) (q r : Nat) :
    Keeps z0 (takeRes s q r) := by
  unfold takeRes
  try dsimp only
  repeat' first
    | with_reducible assumption
    | with_reducible apply keeps_claimFor
    | with_reducible apply keeps_trigIdle
    | split
    | (refine Keeps.of ?_; dsimp only; with_reducible refine Keeps.parts ?_)

theorem keeps_armTimer {z0 s : State} (h : Keeps z0 s) (t us e c : Nat) :
    Keeps z0 (armTimer s t us e c) := by
  unfold armTimer
  try dsimp only
  repeat' first
    | with_reducible assumption
    | with_reducible apply keeps_resumeAll
    | split
    | (refine Keeps.of ?_; dsimp only; with_reducible refine Keeps.parts ?_)

/-! ## Machine/Flow.lean -/

theorem keeps_stepBody {z0 s : State} (h : Keeps z0 s) (e c : Nat) (w : SWord) :
    Keeps z0 (stepBody e c s w) := by
  unfold stepBody
  try dsimp only
  repeat' first
    | with_reducible assumption
    | with_reducible apply keeps_complete
    | split
    | (refine Keeps.of ?_; dsimp only; with_reducible refine Keeps.parts ?_)

theorem keeps_execStep {z0 s : State} (h : Keeps z0 s) (e c : Nat) :
    ∃ t, execStep e c s = .next t ∧ Keeps z0 t := by
  unfold execStep
  refine ⟨_, rfl, ?_⟩
  try dsimp only
  repeat' first
    | with_reducible assumption
    | with_reducible apply keeps_synStep
    | with_reducible apply keeps_stepBody
    | (intro _; intros; try dsimp only)
    | split
    | (refine Keeps.of ?_; dsimp only; with_reducible refine Keeps.parts ?_)

theorem keeps_execJmp {z0 s : State} (h : Keeps z0 s) (e c : Nat) :
    ∃ t, execJmp e c s = .next t ∧ Keeps z0 t := by
  unfold execJmp
  refine ⟨_, rfl, ?_⟩
  try dsimp only
  repeat' first
    | with_reducible assumption
    | with_reducible apply keeps_synStep
    | with_reducible apply keeps_jumpTo
    | (intro _; intros; try dsimp only)
    | split
    | (refine Keeps.of ?_; dsimp only; with_reducible refine Keeps.parts ?_)

theorem keeps_brBody {z0 s : State} (h : Keeps z0 s) (e c : Nat) (w : SWord) :
    Keeps z0 (brBody e c s w) := by
  unfold brBody
  try dsimp only
  repeat' first
    | with_reducible assumption
    | with_reducible apply keeps_complete
    | with_reducible apply keeps_jumpTo
    | split
    | (refine Keeps.of ?_; dsimp only; with_reducible refine Keeps.parts ?_)

theorem keeps_execBr {z0 s : State} (h : Keeps z0 s) (e c : Nat) :
    ∃ t, execBr e c s = .next t ∧ Keeps z0 t := by
  unfold execBr
  refine ⟨_, rfl, ?_⟩
  try dsimp only
  repeat' first
    | with_reducible assumption
    | with_reducible apply keeps_synStep
    | with_reducible apply keeps_brBody
    | (intro _; intros; try dsimp only)
    | split
    | (refine Keeps.of ?_; dsimp only; with_reducible refine Keeps.parts ?_)

theorem keeps_loopBody {z0 s : State} (h : Keeps z0 s) (e c : Nat) (w : SWord) :
    Keeps z0 (loopBody e c s w) := by
  unfold loopBody
  try dsimp only
  repeat' first
    | with_reducible assumption
    | with_reducible apply keeps_updCtx
    | with_reducible apply keeps_complete
    | with_reducible apply keeps_jumpTo
    | split
    | (refine Keeps.of ?_; dsimp only; with_reducible refine Keeps.parts ?_)

theorem keeps_execLoop {z0 s : State} (h : Keeps z0 s) (e c : Nat) :
    ∃ t, execLoop e c s = .next t ∧ Keeps z0 t := by
  unfold execLoop
  refine ⟨_, rfl, ?_⟩
  try dsimp only
  repeat' first
    | with_reducible assumption
    | with_reducible apply keeps_synStep
    | with_reducible apply keeps_loopBody
    | (intro _; intros; try dsimp only)
    | split
    | (refine Keeps.of ?_; dsimp only; with_reducible refine Keeps.parts ?_)

theorem keeps_waitTimerBody {z0 s : State} (h : Keeps z0 s) (e c : Nat) (w : SWord) :
    Keeps z0 (waitTimerBody e c s w) := by
  unfold waitTimerBody
  try dsimp only
  repeat' first
    | with_reducible assumption
    | with_reducible apply keeps_complete
    | with_reducible apply keeps_suspend
    | with_reducible apply keeps_armTimer
    | with_reducible apply keeps_claimFor
    | split
    | (refine Keeps.of ?_; dsimp only; with_reducible refine Keeps.parts ?_)

theorem keeps_execWaitTimer {z0 s : State} (h : Keeps z0 s) (e c : Nat) :
    ∃ t, execWaitTimer e c s = .next t ∧ Keeps z0 t := by
  unfold execWaitTimer
  refine ⟨_, rfl, ?_⟩
  try dsimp only
  repeat' first
    | with_reducible assumption
    | with_reducible apply keeps_synStep
    | with_reducible apply keeps_waitTimerBody
    | (intro _; intros; try dsimp only)
    | split
    | (refine Keeps.of ?_; dsimp only; with_reducible refine Keeps.parts ?_)

theorem keeps_waitNotifyBody {z0 s : State} (h : Keeps z0 s) (e c : Nat) (w : SWord) :
    Keeps z0 (waitNotifyBody e c s w) := by
  unfold waitNotifyBody
  try dsimp only
  repeat' first
    | with_reducible assumption
    | with_reducible apply keeps_wakeNotify
    | with_reducible apply keeps_suspend
    | with_reducible apply keeps_notify
    | with_reducible apply keeps_complete
    | with_reducible apply keeps_armTimer
    | with_reducible apply keeps_claimFor
    | split
    | (refine Keeps.of ?_; dsimp only; with_reducible refine Keeps.parts ?_)

theorem keeps_execWaitNotify {z0 s : State} (h : Keeps z0 s) (e c : Nat) :
    ∃ t, execWaitNotify e c s = .next t ∧ Keeps z0 t := by
  unfold execWaitNotify
  refine ⟨_, rfl, ?_⟩
  try dsimp only
  repeat' first
    | with_reducible assumption
    | with_reducible apply keeps_synStep
    | with_reducible apply keeps_waitNotifyBody
    | (intro _; intros; try dsimp only)
    | split
    | (refine Keeps.of ?_; dsimp only; with_reducible refine Keeps.parts ?_)

theorem keeps_callBody {z0 s : State} (h : Keeps z0 s) (e c : Nat) (w : SWord) :
    Keeps z0 (callBody e c s w) := by
  unfold callBody
  try dsimp only
  repeat' first
    | with_reducible assumption
    | with_reducible apply keeps_endTask
    | with_reducible apply keeps_jumpTo
    | with_reducible apply keeps_updCtx
    | split
    | (refine Keeps.of ?_; dsimp only; with_reducible refine Keeps.parts ?_)

theorem keeps_execCall {z0 s : State} (h : Keeps z0 s) (e c : Nat) :
    ∃ t, execCall e c s = .next t ∧ Keeps z0 t := by
  unfold execCall
  refine ⟨_, rfl, ?_⟩
  try dsimp only
  repeat' first
    | with_reducible assumption
    | with_reducible apply keeps_synStep
    | with_reducible apply keeps_callBody
    | (intro _; intros; try dsimp only)
    | split
    | (refine Keeps.of ?_; dsimp only; with_reducible refine Keeps.parts ?_)

theorem keeps_callHouseBody {z0 s : State} (h : Keeps z0 s) (e c : Nat) (w : SWord) :
    Keeps z0 (callHouseBody e c s w) := by
  unfold callHouseBody
  try dsimp only
  repeat' first
    | with_reducible assumption
    | with_reducible apply keeps_complete
    | with_reducible apply keeps_updCtx
    | split
    | (refine Keeps.of ?_; dsimp only; with_reducible refine Keeps.parts ?_)

theorem keeps_execCallHouse {z0 s : State} (h : Keeps z0 s) (e c : Nat) :
    ∃ t, execCallHouse e c s = .next t ∧ Keeps z0 t := by
  unfold execCallHouse
  refine ⟨_, rfl, ?_⟩
  try dsimp only
  repeat' first
    | with_reducible assumption
    | with_reducible apply keeps_synStep
    | with_reducible apply keeps_callHouseBody
    | (intro _; intros; try dsimp only)
    | split
    | (refine Keeps.of ?_; dsimp only; with_reducible refine Keeps.parts ?_)

theorem keeps_retBody {z0 s : State} (h : Keeps z0 s) (e c : Nat) (u2 : SWord) :
    Keeps z0 (retBody e c s u2) := by
  unfold retBody
  try dsimp only
  repeat' first
    | with_reducible assumption
    | with_reducible apply keeps_endTask
    | with_reducible apply keeps_jumpTo
    | with_reducible apply keeps_updCtx
    | split
    | (refine Keeps.of ?_; dsimp only; with_reducible refine Keeps.parts ?_)

theorem keeps_execRet {z0 s : State} (h : Keeps z0 s) (e c : Nat) :
    ∃ t, execRet e c s = .next t ∧ Keeps z0 t := by
  unfold execRet
  refine ⟨_, rfl, ?_⟩
  try dsimp only
  repeat' first
    | with_reducible assumption
    | with_reducible apply keeps_synStep
    | with_reducible apply keeps_retBody
    | (intro _; intros; try dsimp only)
    | split
    | (refine Keeps.of ?_; dsimp only; with_reducible refine Keeps.parts ?_)

theorem keeps_execEndTask {z0 s : State} (h : Keeps z0 s) (e c : Nat) :
    ∃ t, execEndTask e c s = .next t ∧ Keeps z0 t := by
  unfold execEndTask
  refine ⟨_, rfl, ?_⟩
  try dsimp only
  repeat' first
    | with_reducible assumption
    | with_reducible apply keeps_synStep
    | with_reducible apply keeps_endTask
    | (intro _; intros; try dsimp only)
    | split
    | (refine Keeps.of ?_; dsimp only; with_reducible refine Keeps.parts ?_)

theorem keeps_yieldBody {z0 s : State} (h : Keeps z0 s) (e c : Nat) (u2 : SWord) :
    Keeps z0 (yieldBody e c s u2) := by
  unfold yieldBody
  try dsimp only
  repeat' first
    | with_reducible assumption
    | with_reducible apply keeps_complete
    | split
    | (refine Keeps.of ?_; dsimp only; with_reducible refine Keeps.parts ?_)

theorem keeps_execYield {z0 s : State} (h : Keeps z0 s) (e c : Nat) :
    ∃ t, execYield e c s = .next t ∧ Keeps z0 t := by
  unfold execYield
  refine ⟨_, rfl, ?_⟩
  try dsimp only
  repeat' first
    | with_reducible assumption
    | with_reducible apply keeps_synStep
    | with_reducible apply keeps_yieldBody
    | (intro _; intros; try dsimp only)
    | split
    | (refine Keeps.of ?_; dsimp only; with_reducible refine Keeps.parts ?_)

theorem keeps_timerExpiry {z0 s : State} (h : Keeps z0 s) (n : Nat) :
    Keeps z0 (timerExpiry n s) := by
  unfold timerExpiry
  try dsimp only
  repeat' first
    | with_reducible assumption
    | with_reducible apply keeps_complete
    | with_reducible apply keeps_notify
    | split
    | (refine Keeps.of ?_; dsimp only; with_reducible refine Keeps.parts ?_)

theorem keeps_execTimerExpiry {z0 s : State} (h : Keeps z0 s) (n : Nat) :
    ∃ t, execTimerExpiry n s = .next t ∧ Keeps z0 t := by
  unfold execTimerExpiry
  refine ⟨_, rfl, ?_⟩
  try dsimp only
  repeat' first
    | with_reducible assumption
    | with_reducible apply keeps_timerExpiry
    | split
    | (refine Keeps.of ?_; dsimp only; with_reducible refine Keeps.parts ?_)

theorem keeps_limitMsExpiry {z0 s : State} (h : Keeps z0 s) (e c : Nat) :
    Keeps z0 (limitMsExpiry e c s) := by
  unfold limitMsExpiry
  try dsimp only
  repeat' first
    | with_reducible assumption
    | with_reducible apply keeps_updCtx
    | with_reducible apply keeps_endTask
    | split
    | (refine Keeps.of ?_; dsimp only; with_reducible refine Keeps.parts ?_)

theorem keeps_execLimitMsExpiry {z0 s : State} (h : Keeps z0 s) (e c : Nat) :
    ∃ t, execLimitMsExpiry e c s = .next t ∧ Keeps z0 t := by
  unfold execLimitMsExpiry
  refine ⟨_, rfl, ?_⟩
  try dsimp only
  repeat' first
    | with_reducible assumption
    | with_reducible apply keeps_limitMsExpiry
    | split
    | (refine Keeps.of ?_; dsimp only; with_reducible refine Keeps.parts ?_)

theorem keeps_contextStallRecord {z0 s : State} (h : Keeps z0 s) (e c : Nat) :
    Keeps z0 (contextStallRecord e c s) := by
  unfold contextStallRecord
  try dsimp only
  repeat' first
    | with_reducible assumption
    | with_reducible apply keeps_record
    | split
    | (refine Keeps.of ?_; dsimp only; with_reducible refine Keeps.parts ?_)

theorem keeps_execContextStallRecord {z0 s : State} (h : Keeps z0 s) (e c : Nat) :
    ∃ t, execContextStallRecord e c s = .next t ∧ Keeps z0 t := by
  unfold execContextStallRecord
  refine ⟨_, rfl, ?_⟩
  try dsimp only
  repeat' first
    | with_reducible assumption
    | with_reducible apply keeps_contextStallRecord
    | split
    | (refine Keeps.of ?_; dsimp only; with_reducible refine Keeps.parts ?_)

theorem keeps_trigPulseEnd {z0 s : State} (h : Keeps z0 s) (ball : Nat) :
    Keeps z0 (trigPulseEnd ball s) := by
  unfold trigPulseEnd
  try dsimp only
  repeat' first
    | with_reducible assumption
    | split
    | (refine Keeps.of ?_; dsimp only; with_reducible refine Keeps.parts ?_)

theorem keeps_execTrigPulseEnd {z0 s : State} (h : Keeps z0 s) (ball : Nat) :
    ∃ t, execTrigPulseEnd ball s = .next t ∧ Keeps z0 t := by
  unfold execTrigPulseEnd
  refine ⟨_, rfl, ?_⟩
  try dsimp only
  repeat' first
    | with_reducible assumption
    | with_reducible apply keeps_trigPulseEnd
    | split
    | (refine Keeps.of ?_; dsimp only; with_reducible refine Keeps.parts ?_)

/-! ## Machine/Register.lean -/

theorem keeps_aluBody {z0 s : State} (h : Keeps z0 s) (e c : Nat) (f : W64 → W64 → W64 × Flg) (w : SWord) :
    Keeps z0 (aluBody e c f s w) := by
  unfold aluBody
  try dsimp only
  repeat' first
    | with_reducible assumption
    | with_reducible apply keeps_completeD
    | with_reducible apply keeps_updCtx
    | split
    | (refine Keeps.of ?_; dsimp only; with_reducible refine Keeps.parts ?_)

theorem keeps_setBody {z0 s : State} (h : Keeps z0 s) (e c : Nat) (w : SWord) :
    Keeps z0 (setBody e c s w) := by
  unfold setBody
  try dsimp only
  repeat' first
    | with_reducible assumption
    | with_reducible apply keeps_completeD
    | split
    | (refine Keeps.of ?_; dsimp only; with_reducible refine Keeps.parts ?_)

theorem keeps_execSet {z0 s : State} (h : Keeps z0 s) (e c : Nat) :
    ∃ t, execSet e c s = .next t ∧ Keeps z0 t := by
  unfold execSet
  refine ⟨_, rfl, ?_⟩
  try dsimp only
  repeat' first
    | with_reducible assumption
    | with_reducible apply keeps_synStep
    | with_reducible apply keeps_setBody
    | (intro _; intros; try dsimp only)
    | split
    | (refine Keeps.of ?_; dsimp only; with_reducible refine Keeps.parts ?_)

theorem keeps_execAdd {z0 s : State} (h : Keeps z0 s) (e c : Nat) :
    ∃ t, execAdd e c s = .next t ∧ Keeps z0 t := by
  unfold execAdd
  refine ⟨_, rfl, ?_⟩
  try dsimp only
  repeat' first
    | with_reducible assumption
    | with_reducible apply keeps_synStep
    | with_reducible apply keeps_aluBody
    | (intro _; intros; try dsimp only)
    | split
    | (refine Keeps.of ?_; dsimp only; with_reducible refine Keeps.parts ?_)

theorem keeps_execAnd {z0 s : State} (h : Keeps z0 s) (e c : Nat) :
    ∃ t, execAnd e c s = .next t ∧ Keeps z0 t := by
  unfold execAnd
  refine ⟨_, rfl, ?_⟩
  try dsimp only
  repeat' first
    | with_reducible assumption
    | with_reducible apply keeps_synStep
    | with_reducible apply keeps_aluBody
    | (intro _; intros; try dsimp only)
    | split
    | (refine Keeps.of ?_; dsimp only; with_reducible refine Keeps.parts ?_)

theorem keeps_execOr {z0 s : State} (h : Keeps z0 s) (e c : Nat) :
    ∃ t, execOr e c s = .next t ∧ Keeps z0 t := by
  unfold execOr
  refine ⟨_, rfl, ?_⟩
  try dsimp only
  repeat' first
    | with_reducible assumption
    | with_reducible apply keeps_synStep
    | with_reducible apply keeps_aluBody
    | (intro _; intros; try dsimp only)
    | split
    | (refine Keeps.of ?_; dsimp only; with_reducible refine Keeps.parts ?_)

theorem keeps_execXor {z0 s : State} (h : Keeps z0 s) (e c : Nat) :
    ∃ t, execXor e c s = .next t ∧ Keeps z0 t := by
  unfold execXor
  refine ⟨_, rfl, ?_⟩
  try dsimp only
  repeat' first
    | with_reducible assumption
    | with_reducible apply keeps_synStep
    | with_reducible apply keeps_aluBody
    | (intro _; intros; try dsimp only)
    | split
    | (refine Keeps.of ?_; dsimp only; with_reducible refine Keeps.parts ?_)

theorem keeps_shfBody {z0 s : State} (h : Keeps z0 s) (e c : Nat) (w : SWord) :
    Keeps z0 (shfBody e c s w) := by
  unfold shfBody
  try dsimp only
  repeat' first
    | with_reducible assumption
    | with_reducible apply keeps_completeD
    | with_reducible apply keeps_updCtx
    | split
    | (refine Keeps.of ?_; dsimp only; with_reducible refine Keeps.parts ?_)

theorem keeps_execShf {z0 s : State} (h : Keeps z0 s) (e c : Nat) :
    ∃ t, execShf e c s = .next t ∧ Keeps z0 t := by
  unfold execShf
  refine ⟨_, rfl, ?_⟩
  try dsimp only
  repeat' first
    | with_reducible assumption
    | with_reducible apply keeps_synStep
    | with_reducible apply keeps_shfBody
    | (intro _; intros; try dsimp only)
    | split
    | (refine Keeps.of ?_; dsimp only; with_reducible refine Keeps.parts ?_)

theorem keeps_cmpBody {z0 s : State} (h : Keeps z0 s) (e c : Nat) (w : SWord) :
    Keeps z0 (cmpBody e c s w) := by
  unfold cmpBody
  try dsimp only
  repeat' first
    | with_reducible assumption
    | with_reducible apply keeps_complete
    | with_reducible apply keeps_updCtx
    | split
    | (refine Keeps.of ?_; dsimp only; with_reducible refine Keeps.parts ?_)

theorem keeps_execCmp {z0 s : State} (h : Keeps z0 s) (e c : Nat) :
    ∃ t, execCmp e c s = .next t ∧ Keeps z0 t := by
  unfold execCmp
  refine ⟨_, rfl, ?_⟩
  try dsimp only
  repeat' first
    | with_reducible assumption
    | with_reducible apply keeps_synStep
    | with_reducible apply keeps_cmpBody
    | (intro _; intros; try dsimp only)
    | split
    | (refine Keeps.of ?_; dsimp only; with_reducible refine Keeps.parts ?_)

end Sys2Proof.Laws
end

