-- ==== Sys2Proof/Laws/KeepsAccess.lean ====
section
/-! SUPPORT. What frames, lines, memory requests and fills keep (see Laws/Keeps.lean): one lemma per operation. -/

namespace Sys2Proof.Laws

open Sys2Proof Sys2Proof.Machine

/-! ## Machine/Frames.lean -/

theorem keeps_putFrame {z0 s : State} (h : Keeps z0 s) (fx : Nat) (f : Frame) :
    Keeps z0 (State.putFrame s fx f) := by
  unfold State.putFrame
  try dsimp only
  repeat' first
    | with_reducible assumption
    | split
    | (refine Keeps.of ?_; dsimp only; with_reducible refine Keeps.parts ?_)

theorem keeps_updFrame {z0 s : State} (h : Keeps z0 s) (fx : Nat) (f : Frame → Frame) :
    Keeps z0 (State.updFrame s fx f) := by
  unfold State.updFrame
  try dsimp only
  repeat' first
    | with_reducible assumption
    | with_reducible apply keeps_putFrame
    | split
    | (refine Keeps.of ?_; dsimp only; with_reducible refine Keeps.parts ?_)

theorem keeps_pin {z0 s : State} (h : Keeps z0 s) (ppn : Nat) :
    Keeps z0 (pin s ppn) := by
  unfold pin
  try dsimp only
  repeat' first
    | with_reducible assumption
    | with_reducible apply keeps_updFrame
    | split
    | (refine Keeps.of ?_; dsimp only; with_reducible refine Keeps.parts ?_)

theorem keeps_unpin {z0 s : State} (h : Keeps z0 s) (ppn : Nat) :
    Keeps z0 (unpin s ppn) := by
  unfold unpin
  try dsimp only
  repeat' first
    | with_reducible assumption
    | with_reducible apply keeps_updFrame
    | split
    | (refine Keeps.of ?_; dsimp only; with_reducible refine Keeps.parts ?_)

theorem keeps_treeUpdate {z0 s : State} (h : Keeps z0 s) (fx : Nat) :
    Keeps z0 (treeUpdate s fx) := by
  unfold treeUpdate
  try dsimp only
  repeat' first
    | with_reducible assumption
    | with_reducible apply keeps_updChan
    | split
    | (refine Keeps.of ?_; dsimp only; with_reducible refine Keeps.parts ?_)

theorem keeps_treeBuild {z0 s : State} (h : Keeps z0 s) (ch : Nat) :
    Keeps z0 (treeBuild s ch) := by
  unfold treeBuild
  try dsimp only
  repeat' first
    | with_reducible assumption
    | with_reducible apply keeps_treeUpdate
    | with_reducible apply keeps_updChan
    | with_reducible apply Keeps.foldl
    | with_reducible apply Keeps.foldlPair
    | (intro _; intros; try dsimp only)
    | split
    | (refine Keeps.of ?_; dsimp only; with_reducible refine Keeps.parts ?_)

theorem keeps_groupsBuild {z0 s : State} (h : Keeps z0 s) (ch : Nat) :
    Keeps z0 (groupsBuild s ch) := by
  unfold groupsBuild
  try dsimp only
  repeat' first
    | with_reducible assumption
    | with_reducible apply keeps_updChan
    | split
    | (refine Keeps.of ?_; dsimp only; with_reducible refine Keeps.parts ?_)

theorem keeps_openFrame {z0 s out : State} {ch u : Nat}  (h : Keeps z0 s)
    (hu : openFrame s ch u = some out) : Keeps z0 out := by
  unfold openFrame at hu
  try dsimp only at hu
  repeat' first
    | (split at hu)
    | contradiction
    | (injection hu; done)
  all_goals (first | contradiction | (cases hu; done) | (injections; subst_vars))
  all_goals
    try dsimp only
  all_goals
    repeat' first
      | with_reducible assumption
      | with_reducible apply keeps_updFrame
      | with_reducible apply keeps_updChan
      | split
      | (refine Keeps.of ?_; dsimp only; with_reducible refine Keeps.parts ?_)

theorem keeps_closeFrame {z0 s : State} (h : Keeps z0 s) (ch u fx : Nat) :
    Keeps z0 (closeFrame s ch u fx) := by
  unfold closeFrame
  try dsimp only
  repeat' first
    | with_reducible assumption
    | with_reducible apply keeps_treeUpdate
    | with_reducible apply keeps_updFrame
    | with_reducible apply keeps_updChan
    | split
    | (refine Keeps.of ?_; dsimp only; with_reducible refine Keeps.parts ?_)

theorem keeps_allocPos {z0 s out : State} {num ch u : Nat} (h : Keeps z0 s) (hu : allocPos s ch u = some (num, out)) :
    Keeps z0 out := by
  unfold allocPos at hu
  dsimp only at hu
  split at hu
  · contradiction
  · rename_i t fx heq
    have ht : Keeps z0 t := by
      split at heq
      · simp only [Option.some.injEq, Prod.mk.injEq] at heq
        exact heq.1 ▸ h
      · split at heq
        · contradiction
        · rename_i v ho
          obtain ⟨y, _, hy⟩ := Option.map_eq_some_iff.mp heq
          simp only [Prod.mk.injEq] at hy
          exact hy.1 ▸ keeps_openFrame h ho
    simp only [Option.some.injEq, Prod.mk.injEq] at hu
    obtain ⟨_, rfl⟩ := hu
    split
    · exact keeps_updFrame ht _ _
    · exact keeps_closeFrame (keeps_updFrame ht _ _) _ _ _

theorem keeps_allocUse {z0 s out : State} {ch u r0 r1 : Nat} (h : Keeps z0 s) (hu : allocUse s ch u = some (r0, r1, out)) :
    Keeps z0 out := by
  unfold allocUse at hu
  obtain ⟨y, hy, hz⟩ := Option.map_eq_some_iff.mp hu
  simp only [Prod.mk.injEq] at hz
  exact hz.2.2 ▸ keeps_allocPos h hy

theorem keeps_allocStage {z0 s out : State} {ch r0 r1 : Nat} (h : Keeps z0 s) (hu : allocStage s ch = some (r0, r1, out)) :
    Keeps z0 out := by
  unfold allocStage at hu
  obtain ⟨d, _, hd⟩ := List.exists_of_findSome?_eq_some hu
  obtain ⟨y, hy, hz⟩ := Option.map_eq_some_iff.mp hd
  simp only [Prod.mk.injEq] at hz
  exact hz.2.2 ▸ keeps_updChan (keeps_allocPos h hy) _ _

theorem keeps_allocCopy {z0 s out : State} {ch mode : Nat} {integ migration : Bool} {r0 : Nat} {r1 : Nat} (h : Keeps z0 s)
    (hu : allocCopy s ch mode integ migration = some (r0, r1, out)) : Keeps z0 out := by
  unfold allocCopy at hu
  try dsimp only at hu
  repeat' first
    | (split at hu)
    | contradiction
    | (injection hu; done)
  all_goals (first | contradiction | (cases hu; done) | (injections; subst_vars))
  all_goals
    try dsimp only
  all_goals
    repeat' first
      | with_reducible assumption
      | (with_reducible refine keeps_allocUse ?_ (by with_reducible assumption))
      | split
      | (refine Keeps.of ?_; dsimp only; with_reducible refine Keeps.parts ?_)

theorem keeps_putKey {z0 s : State} (h : Keeps z0 s) (k : Nat) (x : KeyRec) :
    Keeps z0 (putKey s k x) := by
  unfold putKey
  try dsimp only
  repeat' first
    | with_reducible assumption
    | split
    | (refine Keeps.of ?_; dsimp only; with_reducible refine Keeps.parts ?_)

theorem keeps_keyFatal {z0 s : State} (h : Keeps z0 s) (k : Nat) :
    Keeps z0 (keyFatal s k) := by
  unfold keyFatal
  try dsimp only
  repeat' first
    | with_reducible assumption
    | with_reducible apply keeps_irq
    | with_reducible apply keeps_notifyDevice
    | with_reducible apply keeps_putKey
    | split
    | (refine Keeps.of ?_; dsimp only; with_reducible refine Keeps.parts ?_)

theorem keeps_issueVersion {z0 s : State} (h : Keeps z0 s) (k v : Nat) :
    Keeps z0 (issueVersion s k v) := by
  unfold issueVersion
  try dsimp only
  repeat' first
    | with_reducible assumption
    | with_reducible apply keeps_putKey
    | with_reducible apply keeps_keyFatal
    | split
    | (refine Keeps.of ?_; dsimp only; with_reducible refine Keeps.parts ?_)

theorem keeps_raiseFloor {z0 s : State} (h : Keeps z0 s) (k : Nat) :
    Keeps z0 (raiseFloor s k) := by
  unfold raiseFloor
  try dsimp only
  repeat' first
    | with_reducible assumption
    | with_reducible apply keeps_putKey
    | with_reducible apply keeps_keyFatal
    | split
    | (refine Keeps.of ?_; dsimp only; with_reducible refine Keeps.parts ?_)

theorem keeps_onMedium {z0 s : State} (h : Keeps z0 s) (f : Medium → Medium) :
    Keeps z0 (State.onMedium s f) := by
  unfold State.onMedium
  try dsimp only
  repeat' first
    | with_reducible assumption
    | split
    | (refine Keeps.of ?_; dsimp only; with_reducible refine Keeps.parts ?_)

theorem keeps_queueReloc {z0 s : State} (h : Keeps z0 s) (page ppn : Nat) (head : Bool) :
    Keeps z0 (queueReloc s page ppn head) := by
  unfold queueReloc
  try dsimp only
  repeat' first
    | with_reducible assumption
    | with_reducible apply keeps_updChan
    | split
    | (refine Keeps.of ?_; dsimp only; with_reducible refine Keeps.parts ?_)

theorem keeps_addTally {z0 s : State} (h : Keeps z0 s) (page : Nat) :
    Keeps z0 (addTally s page) := by
  unfold addTally
  try dsimp only
  repeat' first
    | with_reducible assumption
    | with_reducible apply keeps_onMedium
    | with_reducible apply keeps_queueReloc
    | with_reducible apply Keeps.foldl
    | with_reducible apply Keeps.foldlPair
    | (intro _; intros; try dsimp only)
    | split
    | (refine Keeps.of ?_; dsimp only; with_reducible refine Keeps.parts ?_)

theorem keeps_queuePage {z0 s : State} (h : Keeps z0 s) (page : Nat) (head : Bool) :
    Keeps z0 (queuePage s page head) := by
  unfold queuePage
  try dsimp only
  repeat' first
    | with_reducible assumption
    | with_reducible apply keeps_queueReloc
    | split
    | (refine Keeps.of ?_; dsimp only; with_reducible refine Keeps.parts ?_)

theorem keeps_addPatch {z0 s : State} (h : Keeps z0 s) (page ppn line bits : Nat) :
    Keeps z0 (addPatch s page ppn line bits) := by
  unfold addPatch
  try dsimp only
  repeat' first
    | with_reducible assumption
    | with_reducible apply keeps_updChan
    | with_reducible apply keeps_queuePage
    | split
    | (refine Keeps.of ?_; dsimp only; with_reducible refine Keeps.parts ?_)

theorem keeps_noteSlot {z0 s : State} (h : Keeps z0 s) (line ppn bits reread : Nat) :
    Keeps z0 (noteSlot s line ppn bits reread) := by
  unfold noteSlot
  try dsimp only
  repeat' first
    | with_reducible assumption
    | with_reducible apply keeps_count
    | with_reducible apply keeps_sample
    | with_reducible apply keeps_addPatch
    | split
    | (refine Keeps.of ?_; dsimp only; with_reducible refine Keeps.parts ?_)

theorem keeps_noteDecode {z0 s : State} (h : Keeps z0 s) (line ppn bits reread : Nat) :
    Keeps z0 (noteDecode s line ppn bits reread) := by
  unfold noteDecode
  try dsimp only
  repeat' first
    | with_reducible assumption
    | with_reducible apply keeps_addTally
    | with_reducible apply keeps_queuePage
    | with_reducible apply keeps_noteSlot
    | split
    | (refine Keeps.of ?_; dsimp only; with_reducible refine Keeps.parts ?_)

theorem keeps_poisonLine {z0 s : State} (h : Keeps z0 s) (line : Nat) :
    Keeps z0 (poisonLine s line) := by
  unfold poisonLine
  try dsimp only
  repeat' first
    | with_reducible assumption
    | with_reducible apply keeps_record
    | with_reducible apply keeps_updChan
    | with_reducible apply keeps_queuePage
    | split
    | (refine Keeps.of ?_; dsimp only; with_reducible refine Keeps.parts ?_)

theorem keeps_recordPagePoison {z0 s : State} (h : Keeps z0 s) (page : Nat) :
    Keeps z0 (recordPagePoison s page) := by
  unfold recordPagePoison
  try dsimp only
  repeat' first
    | with_reducible assumption
    | with_reducible apply keeps_record
    | split
    | (refine Keeps.of ?_; dsimp only; with_reducible refine Keeps.parts ?_)

theorem keeps_leavePoisonSet {z0 s : State} (h : Keeps z0 s) (page : Nat) (gone : Nat → Bool) :
    Keeps z0 (leavePoisonSet s page gone) := by
  unfold leavePoisonSet
  try dsimp only
  repeat' first
    | with_reducible assumption
    | with_reducible apply keeps_updChan
    | split
    | (refine Keeps.of ?_; dsimp only; with_reducible refine Keeps.parts ?_)

theorem keeps_slotRead {z0 s : State} (h : Keeps z0 s) (line ppn : Nat) (found : List (Nat × Decoded)) :
    Keeps z0 (slotRead s line ppn found).1 := by
  unfold slotRead
  try dsimp only
  repeat' first
    | with_reducible assumption
    | with_reducible apply keeps_count
    | with_reducible apply keeps_updChan
    | split
    | (refine Keeps.of ?_; dsimp only; with_reducible refine Keeps.parts ?_)

theorem keeps_slotRead_eq {z0 s out : State} {line ppn : Nat} {found : List (Nat × Decoded)} {res : SlotEnd} (h : Keeps z0 s)
    (hu : slotRead s line ppn found = (out, res)) : Keeps z0 out := by
  have k := keeps_slotRead h line ppn found
  rw [hu] at k
  exact k

/-! ## Machine/Lines.lean -/

theorem keeps_touch {z0 s : State} (h : Keeps z0 s) (line : Nat) :
    Keeps z0 (touch s line) := by
  unfold touch
  try dsimp only
  repeat' first
    | with_reducible assumption
    | with_reducible apply keeps_onCache
    | split
    | (refine Keeps.of ?_; dsimp only; with_reducible refine Keeps.parts ?_)

theorem keeps_evict {z0 s : State} (h : Keeps z0 s) (line : Nat) (x : CLine) :
    Keeps z0 (evict s line x) := by
  unfold evict
  try dsimp only
  repeat' first
    | with_reducible assumption
    | with_reducible apply keeps_onCache
    | with_reducible apply keeps_count
    | split
    | (refine Keeps.of ?_; dsimp only; with_reducible refine Keeps.parts ?_)

theorem keeps_dropLine {z0 s : State} (h : Keeps z0 s) (line : Nat) :
    Keeps z0 (dropLine s line) := by
  unfold dropLine
  try dsimp only
  repeat' first
    | with_reducible assumption
    | with_reducible apply keeps_onCache
    | with_reducible apply keeps_onPers
    | split
    | (refine Keeps.of ?_; dsimp only; with_reducible refine Keeps.parts ?_)

theorem keeps_install {z0 s out : State} {line : Nat} {data : Line} {dirty delta poison : Bool} {ways : BitVec 16} {label : Nat}  (h : Keeps z0 s)
    (hu : install s line data dirty delta poison ways label = some out) : Keeps z0 out := by
  unfold install at hu
  try dsimp only at hu
  repeat' first
    | (split at hu)
    | contradiction
    | (injection hu; done)
  all_goals (first | contradiction | (cases hu; done) | (injections; subst_vars))
  all_goals
    try dsimp only
  all_goals
    repeat' first
      | with_reducible assumption
      | with_reducible apply keeps_onCache
      | with_reducible apply keeps_evict
      | split
      | (refine Keeps.of ?_; dsimp only; with_reducible refine Keeps.parts ?_)

theorem keeps_installClean {z0 s : State} (h : Keeps z0 s) (line : Nat) (data : Line) (ways : BitVec 16) (label : Nat) :
    Keeps z0 (installClean s line data ways label) := by
  unfold installClean
  split
  · cases hi : install s line data false false false ways label with
    | none => exact h
    | some t => exact keeps_install h hi
  · exact h

theorem keeps_loseSet {z0 s : State} (h : Keeps z0 s) (set : Nat) :
    Keeps z0 (loseSet s set).1 := by
  unfold loseSet
  try dsimp only
  repeat' first
    | with_reducible assumption
    | with_reducible apply keeps_dropLine
    | with_reducible apply keeps_burn
    | with_reducible apply keeps_evict
    | with_reducible apply keeps_onCache
    | with_reducible apply keeps_record
    | with_reducible apply Keeps.foldl
    | with_reducible apply Keeps.foldlPair
    | (intro _; intros; try dsimp only)
    | split
    | (refine Keeps.of ?_; dsimp only; with_reducible refine Keeps.parts ?_)

theorem keeps_loseSet_eq {z0 s out : State} {set : Nat} {res : List Nat} (h : Keeps z0 s)
    (hu : loseSet s set = (out, res)) : Keeps z0 out := by
  have k := keeps_loseSet h set
  rw [hu] at k
  exact k

/-! ## Machine/Change.lean -/

theorem keeps_startChange {z0 s : State} (h : Keeps z0 s) (page : Nat) (k : MoveKind) :
    Keeps z0 (startChange s page k) := by
  unfold startChange
  try dsimp only
  repeat' first
    | with_reducible assumption
    | with_reducible apply keeps_onMaps
    | with_reducible apply keeps_raiseFloor
    | split
    | (refine Keeps.of ?_; dsimp only; with_reducible refine Keeps.parts ?_)

theorem keeps_startWaiting {z0 s : State} (h : Keeps z0 s) (page : Nat) :
    Keeps z0 (startWaiting s page) := by
  unfold startWaiting
  try dsimp only
  repeat' first
    | with_reducible assumption
    | with_reducible apply keeps_startChange
    | with_reducible apply keeps_onMaps
    | split
    | (refine Keeps.of ?_; dsimp only; with_reducible refine Keeps.parts ?_)

theorem keeps_dropMove {z0 s : State} (h : Keeps z0 s) (page : Nat) :
    Keeps z0 (dropMove s page) := by
  unfold dropMove
  try dsimp only
  repeat' first
    | with_reducible assumption
    | with_reducible apply keeps_startWaiting
    | with_reducible apply keeps_onCache
    | with_reducible apply keeps_onMaps
    | split
    | (refine Keeps.of ?_; dsimp only; with_reducible refine Keeps.parts ?_)

theorem keeps_poisonPage {z0 s : State} (h : Keeps z0 s) (page : Nat) :
    Keeps z0 (poisonPage s page) := by
  unfold poisonPage
  try dsimp only
  repeat' first
    | with_reducible assumption
    | with_reducible apply keeps_startChange
    | with_reducible apply keeps_recordPagePoison
    | split
    | (refine Keeps.of ?_; dsimp only; with_reducible refine Keeps.parts ?_)

theorem keeps_poisonPages {z0 s : State} (h : Keeps z0 s) (l : List Nat) :
    Keeps z0 (poisonPages s l) := by
  unfold poisonPages
  try dsimp only
  repeat' first
    | with_reducible assumption
    | with_reducible apply keeps_poisonPage
    | with_reducible apply Keeps.foldl
    | with_reducible apply Keeps.foldlPair
    | (intro _; intros; try dsimp only)
    | split
    | (refine Keeps.of ?_; dsimp only; with_reducible refine Keeps.parts ?_)

/-! ## Machine/Access.lean -/

theorem keeps_engOutcome {z0 s : State} (h : Keeps z0 s) (e c : Nat) (r : Req) (st : Nat) (d : Line) :
    Keeps z0 (engOutcome s e c r st d) := by
  unfold engOutcome
  try dsimp only
  repeat' first
    | with_reducible assumption
    | with_reducible apply keeps_putCtx
    | with_reducible apply keeps_completeD
    | with_reducible apply keeps_complete
    | with_reducible apply keeps_updCtx
    | split
    | (refine Keeps.of ?_; dsimp only; with_reducible refine Keeps.parts ?_)

theorem keeps_laneFree {z0 s : State} (h : Keeps z0 s) (r : Req) :
    Keeps z0 (laneFree s r) := by
  unfold laneFree
  try dsimp only
  repeat' first
    | with_reducible assumption
    | with_reducible apply keeps_updChan
    | split
    | (refine Keeps.of ?_; dsimp only; with_reducible refine Keeps.parts ?_)

theorem keeps_deliver {z0 s0 : State} (h : Keeps z0 s0) (r : Req) (st : Nat) (d : Line) (media : Bool) :
    Keeps z0 (deliver s0 r st d media) := by
  unfold deliver
  try dsimp only
  repeat' first
    | with_reducible assumption
    | with_reducible apply keeps_laneFree
    | with_reducible apply keeps_sample
    | with_reducible apply keeps_updChan
    | with_reducible apply keeps_sampleRecord
    | with_reducible apply keeps_count
    | with_reducible apply keeps_sendCpl
    | with_reducible apply keeps_engOutcome
    | with_reducible apply keeps_updCtx
    | split
    | (refine Keeps.of ?_; dsimp only; with_reducible refine Keeps.parts ?_)

theorem keeps_laneTake {z0 s : State} (h : Keeps z0 s) (r : Req) :
    Keeps z0 (laneTake s r).1 := by
  unfold laneTake
  try dsimp only
  repeat' first
    | with_reducible assumption
    | with_reducible apply keeps_count
    | with_reducible apply keeps_updChan
    | split
    | (refine Keeps.of ?_; dsimp only; with_reducible refine Keeps.parts ?_)

theorem keeps_laneTake_eq {z0 s out : State} {r : Req} {res : Req} (h : Keeps z0 s)
    (hu : laneTake s r = (out, res)) : Keeps z0 out := by
  have k := keeps_laneTake h r
  rw [hu] at k
  exact k

theorem keeps_updDie {z0 s : State} (h : Keeps z0 s) (ch die : Nat) (f : Die → Die) :
    Keeps z0 (State.updDie s ch die f) := by
  unfold State.updDie
  try dsimp only
  repeat' first
    | with_reducible assumption
    | with_reducible apply keeps_updChan
    | split
    | (refine Keeps.of ?_; dsimp only; with_reducible refine Keeps.parts ?_)

theorem keeps_issueRead {z0 s : State} (h : Keeps z0 s) (x : Nat × Fill) (hit : Bool) :
    Keeps z0 (issueRead s x hit) := by
  unfold issueRead
  try dsimp only
  repeat' first
    | with_reducible assumption
    | with_reducible apply keeps_onCache
    | split
    | (refine Keeps.of ?_; dsimp only; with_reducible refine Keeps.parts ?_)

theorem keeps_suspendDie {z0 s : State} (h : Keeps z0 s) (ch die n : Nat) :
    Keeps z0 (suspendDie s ch die n) := by
  unfold suspendDie
  try dsimp only
  repeat' first
    | with_reducible assumption
    | with_reducible apply keeps_count
    | with_reducible apply keeps_updChan
    | with_reducible apply keeps_updDie
    | split
    | (refine Keeps.of ?_; dsimp only; with_reducible refine Keeps.parts ?_)

theorem keeps_pumpDie {z0 s : State} (h : Keeps z0 s) (ch die : Nat) :
    Keeps z0 (pumpDie s ch die) := by
  unfold pumpDie
  try dsimp only
  repeat' first
    | with_reducible assumption
    | with_reducible apply keeps_updDie
    | with_reducible apply keeps_onCache
    | with_reducible apply keeps_issueRead
    | with_reducible apply keeps_suspendDie
    | split
    | (refine Keeps.of ?_; dsimp only; with_reducible refine Keeps.parts ?_)

theorem keeps_pumpDies {z0 s : State} (h : Keeps z0 s) :
    Keeps z0 (pumpDies s) := by
  unfold pumpDies
  try dsimp only
  repeat' first
    | with_reducible assumption
    | with_reducible apply keeps_pumpDie
    | with_reducible apply Keeps.foldl
    | with_reducible apply Keeps.foldlPair
    | (intro _; intros; try dsimp only)
    | split
    | (refine Keeps.of ?_; dsimp only; with_reducible refine Keeps.parts ?_)

theorem keeps_pumpAt {z0 s : State} (h : Keeps z0 s) (ppn : Nat) :
    Keeps z0 (pumpAt s ppn) := by
  unfold pumpAt
  try dsimp only
  repeat' first
    | with_reducible assumption
    | with_reducible apply keeps_pumpDie
    | split
    | (refine Keeps.of ?_; dsimp only; with_reducible refine Keeps.parts ?_)

theorem keeps_houseRead {z0 s : State} (h : Keeps z0 s) (ppn : Nat) :
    Keeps z0 (houseRead s ppn) := by
  unfold houseRead
  try dsimp only
  repeat' first
    | with_reducible assumption
    | with_reducible apply keeps_suspendDie
    | with_reducible apply keeps_updDie
    | split
    | (refine Keeps.of ?_; dsimp only; with_reducible refine Keeps.parts ?_)

theorem keeps_waitReq {z0 s : State} (h : Keeps z0 s) (r : Req) :
    Keeps z0 (waitReq s r) := by
  unfold waitReq
  try dsimp only
  repeat' first
    | with_reducible assumption
    | with_reducible apply keeps_onCache
    | split
    | (refine Keeps.of ?_; dsimp only; with_reducible refine Keeps.parts ?_)

theorem keeps_arbFill {z0 s : State} (h : Keeps z0 s) (line : Nat) (f : Fill) :
    Keeps z0 (arbFill s line f) := by
  unfold arbFill
  try dsimp only
  repeat' first
    | with_reducible assumption
    | with_reducible apply keeps_arbWant
    | with_reducible apply keeps_updChan
    | split
    | (refine Keeps.of ?_; dsimp only; with_reducible refine Keeps.parts ?_)

theorem keeps_startFill {z0 s : State} (h : Keeps z0 s) (r : Req) (merge : Bool) :
    Keeps z0 (startFill s r merge) := by
  unfold startFill
  try dsimp only
  repeat' first
    | with_reducible assumption
    | with_reducible apply keeps_deliver
    | with_reducible apply keeps_pin
    | with_reducible apply keeps_onCache
    | with_reducible apply keeps_count
    | with_reducible apply keeps_arbFill
    | with_reducible apply keeps_pumpAt
    | split
    | (refine Keeps.of ?_; dsimp only; with_reducible refine Keeps.parts ?_)

theorem keeps_joinFill {z0 s : State} (h : Keeps z0 s) (r : Req) :
    Keeps z0 (joinFill s r) := by
  unfold joinFill
  try dsimp only
  repeat' first
    | with_reducible assumption
    | with_reducible apply keeps_onCache
    | with_reducible apply keeps_laneFree
    | with_reducible apply keeps_pumpAt
    | with_reducible apply keeps_arbWant
    | with_reducible apply keeps_arbDrop
    | with_reducible apply keeps_updChan
    | split
    | (refine Keeps.of ?_; dsimp only; with_reducible refine Keeps.parts ?_)

theorem keeps_doomFill {z0 s : State} (h : Keeps z0 s) (line : Nat) :
    Keeps z0 (doomFill s line) := by
  unfold doomFill
  try dsimp only
  repeat' first
    | with_reducible assumption
    | with_reducible apply keeps_onCache
    | split
    | (refine Keeps.of ?_; dsimp only; with_reducible refine Keeps.parts ?_)

theorem keeps_lookupRead {z0 s : State} (h : Keeps z0 s) (r : Req) :
    Keeps z0 (lookupRead s r) := by
  unfold lookupRead
  try dsimp only
  repeat' first
    | with_reducible assumption
    | with_reducible apply keeps_joinFill
    | with_reducible apply keeps_deliver
    | with_reducible apply keeps_touch
    | with_reducible apply keeps_count
    | with_reducible apply keeps_waitReq
    | with_reducible apply keeps_startFill
    | with_reducible apply keeps_installClean
    | split
    | (refine Keeps.of ?_; dsimp only; with_reducible refine Keeps.parts ?_)

theorem keeps_writeLine {z0 s0 : State} (h : Keeps z0 s0) (r0 : Req) (d : Line) (delta : Bool) :
    Keeps z0 (writeLine s0 r0 d delta) := by
  unfold writeLine
  try dsimp only
  repeat' first
    | with_reducible assumption
    | with_reducible apply keeps_laneFree
    | (with_reducible refine keeps_install ?_ (by with_reducible assumption))
    | with_reducible apply keeps_deliver
    | with_reducible apply keeps_waitReq
    | split
    | (refine Keeps.of ?_; dsimp only; with_reducible refine Keeps.parts ?_)

theorem keeps_lookupFull {z0 s : State} (h : Keeps z0 s) (r : Req) :
    Keeps z0 (lookupFull s r) := by
  unfold lookupFull
  try dsimp only
  repeat' first
    | with_reducible assumption
    | with_reducible apply keeps_joinFill
    | with_reducible apply keeps_writeLine
    | with_reducible apply keeps_doomFill
    | split
    | (refine Keeps.of ?_; dsimp only; with_reducible refine Keeps.parts ?_)

theorem keeps_lookupPartial {z0 s : State} (h : Keeps z0 s) (r : Req) :
    Keeps z0 (lookupPartial s r) := by
  unfold lookupPartial
  try dsimp only
  repeat' first
    | with_reducible assumption
    | with_reducible apply keeps_joinFill
    | with_reducible apply keeps_deliver
    | with_reducible apply keeps_writeLine
    | with_reducible apply keeps_count
    | with_reducible apply keeps_waitReq
    | with_reducible apply keeps_startFill
    | split
    | (refine Keeps.of ?_; dsimp only; with_reducible refine Keeps.parts ?_)

theorem keeps_lookupAcc {z0 s : State} (h : Keeps z0 s) (r : Req) :
    Keeps z0 (lookupAcc s r) := by
  unfold lookupAcc
  try dsimp only
  repeat' first
    | with_reducible assumption
    | with_reducible apply keeps_joinFill
    | with_reducible apply keeps_deliver
    | with_reducible apply keeps_writeLine
    | with_reducible apply keeps_count
    | with_reducible apply keeps_waitReq
    | split
    | (refine Keeps.of ?_; dsimp only; with_reducible refine Keeps.parts ?_)

theorem keeps_lookupThru {z0 s : State} (h : Keeps z0 s) (r : Req) :
    Keeps z0 (lookupThru s r) := by
  unfold lookupThru
  try dsimp only
  repeat' first
    | with_reducible assumption
    | with_reducible apply keeps_laneFree
    | with_reducible apply keeps_onCache
    | with_reducible apply keeps_doomFill
    | with_reducible apply keeps_waitReq
    | with_reducible apply keeps_deliver
    | split
    | (refine Keeps.of ?_; dsimp only; with_reducible refine Keeps.parts ?_)

theorem keeps_dramFinding {z0 s : State} (h : Keeps z0 s) (r : Req) :
    Keeps z0 (dramFinding s r) := by
  unfold dramFinding
  try dsimp only
  repeat' first
    | with_reducible assumption
    | with_reducible apply keeps_onCache
    | with_reducible apply keeps_loseSet
    | (with_reducible refine keeps_loseSet_eq ?_ (by with_reducible assumption))
    | with_reducible apply keeps_poisonPages
    | with_reducible apply keeps_record
    | with_reducible apply keeps_dropLine
    | with_reducible apply keeps_onMaps
    | with_reducible apply keeps_onMedium
    | split
    | (refine Keeps.of ?_; dsimp only; with_reducible refine Keeps.parts ?_)

theorem keeps_lookup {z0 s0 : State} (h : Keeps z0 s0) (r0 : Req) :
    Keeps z0 (lookup s0 r0) := by
  unfold lookup
  try dsimp only
  repeat' first
    | with_reducible assumption
    | with_reducible apply keeps_waitReq
    | with_reducible apply keeps_dramFinding
    | with_reducible apply keeps_onCache
    | with_reducible apply keeps_lookupRead
    | with_reducible apply keeps_lookupThru
    | with_reducible apply keeps_lookupFull
    | with_reducible apply keeps_lookupPartial
    | with_reducible apply keeps_lookupAcc
    | split
    | (refine Keeps.of ?_; dsimp only; with_reducible refine Keeps.parts ?_)

theorem keeps_dramReads {z0 s : State} (h : Keeps z0 s) (r : Req) :
    Keeps z0 (dramReads s r) := by
  unfold dramReads
  try dsimp only
  repeat' first
    | with_reducible assumption
    | with_reducible apply keeps_arbWant
    | with_reducible apply keeps_onMaps
    | split
    | (refine Keeps.of ?_; dsimp only; with_reducible refine Keeps.parts ?_)

theorem keeps_checkSlotRead {z0 s : State} (h : Keeps z0 s) (r : Req) :
    Keeps z0 (checkSlotRead s r) := by
  unfold checkSlotRead
  try dsimp only
  repeat' first
    | with_reducible assumption
    | with_reducible apply keeps_count
    | with_reducible apply keeps_arbWant
    | with_reducible apply keeps_houseRead
    | split
    | (refine Keeps.of ?_; dsimp only; with_reducible refine Keeps.parts ?_)

theorem keeps_access {z0 s0 : State} (h : Keeps z0 s0) (r0 : Req) :
    Keeps z0 (access s0 r0) := by
  unfold access
  try dsimp only
  repeat' first
    | with_reducible assumption
    | with_reducible apply keeps_laneTake
    | (with_reducible refine keeps_laneTake_eq ?_ (by with_reducible assumption))
    | with_reducible apply keeps_deliver
    | with_reducible apply keeps_onPers
    | with_reducible apply keeps_checkSlotRead
    | with_reducible apply keeps_lookup
    | with_reducible apply keeps_dramReads
    | with_reducible apply keeps_arbWant
    | split
    | (refine Keeps.of ?_; dsimp only; with_reducible refine Keeps.parts ?_)

theorem keeps_retryWaiting {z0 s : State} (h : Keeps z0 s) :
    Keeps z0 (retryWaiting s) := by
  unfold retryWaiting
  try dsimp only
  repeat' first
    | with_reducible assumption
    | with_reducible apply keeps_lookup
    | with_reducible apply keeps_onCache
    | with_reducible apply Keeps.foldl
    | with_reducible apply Keeps.foldlPair
    | (intro _; intros; try dsimp only)
    | split
    | (refine Keeps.of ?_; dsimp only; with_reducible refine Keeps.parts ?_)

theorem keeps_freeCredit {z0 s : State} (h : Keeps z0 s) (p vc n : Nat) :
    Keeps z0 (freeCredit s p vc n) := by
  unfold freeCredit
  try dsimp only
  repeat' first
    | with_reducible assumption
    | with_reducible apply keeps_updPort
    | split
    | (refine Keeps.of ?_; dsimp only; with_reducible refine Keeps.parts ?_)

theorem keeps_release {z0 s : State} (h : Keeps z0 s) (r : Req) :
    Keeps z0 (Req.release r s) := by
  unfold Req.release
  try dsimp only
  repeat' first
    | with_reducible assumption
    | with_reducible apply keeps_freeCredit
    | split
    | (refine Keeps.of ?_; dsimp only; with_reducible refine Keeps.parts ?_)

theorem keeps_drainPort {z0 s : State} (h : Keeps z0 s) :
    Keeps z0 (drainPort s) := by
  unfold drainPort
  try dsimp only
  repeat' first
    | with_reducible assumption
    | with_reducible apply keeps_access
    | with_reducible apply keeps_release
    | with_reducible apply Keeps.foldl
    | with_reducible apply Keeps.foldlPair
    | (intro _; intros; try dsimp only)
    | split
    | (refine Keeps.of ?_; dsimp only; with_reducible refine Keeps.parts ?_)

theorem keeps_enterTable {z0 s : State} (h : Keeps z0 s) (r : Req) :
    Keeps z0 (enterTable s r) := by
  unfold enterTable
  try dsimp only
  repeat' first
    | with_reducible assumption
    | with_reducible apply keeps_access
    | with_reducible apply keeps_release
    | with_reducible apply keeps_updPort
    | split
    | (refine Keeps.of ?_; dsimp only; with_reducible refine Keeps.parts ?_)

theorem keeps_takeTokens {z0 s out : State} {master label bytes : Nat}  (h : Keeps z0 s)
    (hu : takeTokens s master label bytes = some out) : Keeps z0 out := by
  unfold takeTokens at hu
  try dsimp only at hu
  repeat' first
    | (split at hu)
    | contradiction
    | (injection hu; done)
  all_goals (first | contradiction | (cases hu; done) | (injections; subst_vars))
  all_goals
    try dsimp only
  all_goals
    repeat' first
      | with_reducible assumption
      | split
      | (refine Keeps.of ?_; dsimp only; with_reducible refine Keeps.parts ?_)

theorem keeps_atBucket {z0 s : State} (h : Keeps z0 s) (r : Req) : Keeps z0 (atBucket s r) := by
  unfold atBucket
  dsimp only
  split
  · rename_i t heq
    split at heq
    · contradiction
    · exact keeps_enterTable (keeps_takeTokens h heq) r
  · repeat' first
      | with_reducible assumption
      | with_reducible apply keeps_freeCredit
      | with_reducible apply keeps_updCtx
      | with_reducible apply keeps_count
      | split
      | (refine Keeps.of ?_; dsimp only; with_reducible refine Keeps.parts ?_)

theorem keeps_engAccess {z0 s : State} (h : Keeps z0 s) (who : Who) (e c : Nat) (op : MemOp) (addr : Nat) (charged looked : Bool) (dram : Dram) :
    Keeps z0 (engAccess s who e c op addr charged looked dram) := by
  unfold engAccess
  try dsimp only
  repeat' first
    | with_reducible assumption
    | with_reducible apply keeps_atBucket
    | split
    | (refine Keeps.of ?_; dsimp only; with_reducible refine Keeps.parts ?_)

theorem keeps_rxFlits {z0 s : State} (h : Keeps z0 s) (p n : Nat) :
    Keeps z0 (rxFlits s p n) := by
  unfold rxFlits
  try dsimp only
  repeat' first
    | with_reducible assumption
    | with_reducible apply keeps_updPort
    | split
    | (refine Keeps.of ?_; dsimp only; with_reducible refine Keeps.parts ?_)

theorem keeps_hostRequest {z0 s0 : State} (h : Keeps z0 s0) (p n tag addr : Nat) (op : MemOp) (dram : Dram) :
    Keeps z0 (hostRequest s0 p n tag addr op dram) := by
  unfold hostRequest
  try dsimp only
  repeat' first
    | with_reducible assumption
    | with_reducible apply keeps_rxFlits
    | with_reducible apply keeps_record
    | with_reducible apply keeps_freeCredit
    | with_reducible apply keeps_updPort
    | with_reducible apply keeps_deliver
    | with_reducible apply keeps_countReq
    | (with_reducible refine keeps_countReq_eq ?_ (by with_reducible assumption))
    | with_reducible apply keeps_count
    | with_reducible apply keeps_atBucket
    | split
    | (refine Keeps.of ?_; dsimp only; with_reducible refine Keeps.parts ?_)

theorem keeps_withdraw {z0 s0 : State} (h : Keeps z0 s0) (f : Req → Bool) :
    Keeps z0 (withdraw s0 f) := by
  unfold withdraw
  try dsimp only
  repeat' first
    | with_reducible assumption
    | with_reducible apply keeps_laneFree
    | with_reducible apply Keeps.foldl
    | with_reducible apply Keeps.foldlPair
    | (intro _; intros; try dsimp only)
    | split
    | (refine Keeps.of ?_; dsimp only; with_reducible refine Keeps.parts ?_)

/-! ## Machine/Settle.lean -/

theorem keeps_sealRestored {z0 s : State} (h : Keeps z0 s) (line : Nat) :
    Keeps z0 (sealRestored s line) := by
  unfold sealRestored
  try dsimp only
  repeat' first
    | with_reducible assumption
    | with_reducible apply keeps_onPers
    | split
    | (refine Keeps.of ?_; dsimp only; with_reducible refine Keeps.parts ?_)

theorem keeps_completeDone {z0 s : State} (h : Keeps z0 s) (line : Nat) :
    Keeps z0 (completeDone s line) := by
  unfold completeDone
  try dsimp only
  repeat' first
    | with_reducible assumption
    | with_reducible apply keeps_deliver
    | with_reducible apply keeps_onCache
    | with_reducible apply Keeps.foldl
    | with_reducible apply Keeps.foldlPair
    | (intro _; intros; try dsimp only)
    | split
    | (refine Keeps.of ?_; dsimp only; with_reducible refine Keeps.parts ?_)

theorem keeps_discardLine {z0 s0 : State} (h : Keeps z0 s0) (line : Nat) :
    Keeps z0 (discardLine s0 line) := by
  unfold discardLine
  try dsimp only
  repeat' first
    | with_reducible assumption
    | with_reducible apply keeps_completeDone
    | with_reducible apply keeps_dropLine
    | with_reducible apply keeps_sealRestored
    | with_reducible apply keeps_onCache
    | split
    | (refine Keeps.of ?_; dsimp only; with_reducible refine Keeps.parts ?_)

theorem keeps_dropRange {z0 s : State} (h : Keeps z0 s) (f : Nat → CLine → Bool) :
    Keeps z0 (dropRange s f) := by
  unfold dropRange
  try dsimp only
  repeat' first
    | with_reducible assumption
    | with_reducible apply keeps_dropLine
    | with_reducible apply Keeps.foldl
    | with_reducible apply Keeps.foldlPair
    | (intro _; intros; try dsimp only)
    | split
    | (refine Keeps.of ?_; dsimp only; with_reducible refine Keeps.parts ?_)

theorem keeps_finishInval {z0 s : State} (h : Keeps z0 s) (e c lo hi : Nat) (all force : Bool) :
    Keeps z0 (finishInval s e c lo hi all force) := by
  unfold finishInval
  try dsimp only
  repeat' first
    | with_reducible assumption
    | with_reducible apply keeps_complete
    | with_reducible apply keeps_dropRange
    | with_reducible apply keeps_record
    | with_reducible apply keeps_onCache
    | split
    | (refine Keeps.of ?_; dsimp only; with_reducible refine Keeps.parts ?_)

theorem keeps_finishClean {z0 s : State} (h : Keeps z0 s) (e c lo hi : Nat) (inval : Bool) :
    Keeps z0 (finishClean s e c lo hi inval) := by
  unfold finishClean
  try dsimp only
  repeat' first
    | with_reducible assumption
    | with_reducible apply keeps_dropRange
    | with_reducible apply keeps_complete
    | split
    | (refine Keeps.of ?_; dsimp only; with_reducible refine Keeps.parts ?_)

theorem keeps_finishWays {z0 s : State} (h : Keeps z0 s) (e c n : Nat) (masks : List (BitVec 16)) :
    Keeps z0 (finishWays s e c n masks) := by
  unfold finishWays
  try dsimp only
  repeat' first
    | with_reducible assumption
    | with_reducible apply keeps_dropRange
    | with_reducible apply keeps_complete
    | with_reducible apply keeps_onCache
    | split
    | (refine Keeps.of ?_; dsimp only; with_reducible refine Keeps.parts ?_)

theorem keeps_maintainOne {z0 s : State} (h : Keeps z0 s) (k : Nat) :
    Keeps z0 (maintainOne s k) := by
  unfold maintainOne
  try dsimp only
  repeat' first
    | with_reducible assumption
    | with_reducible apply keeps_finishClean
    | with_reducible apply keeps_finishInval
    | with_reducible apply keeps_finishWays
    | with_reducible apply keeps_complete
    | split
    | (refine Keeps.of ?_; dsimp only; with_reducible refine Keeps.parts ?_)

theorem keeps_maintain {z0 s : State} (h : Keeps z0 s) :
    Keeps z0 (maintain s) := by
  unfold maintain
  try dsimp only
  repeat' first
    | with_reducible assumption
    | with_reducible apply keeps_maintainOne
    | with_reducible apply Keeps.foldl
    | with_reducible apply Keeps.foldlPair
    | (intro _; intros; try dsimp only)
    | split
    | (refine Keeps.of ?_; dsimp only; with_reducible refine Keeps.parts ?_)

theorem keeps_serveGood {z0 s : State} (h : Keeps z0 s) (line : Nat) (f : Fill) :
    Keeps z0 (serveGood s line f).1 := by
  unfold serveGood
  try dsimp only
  repeat' first
    | with_reducible assumption
    | with_reducible apply keeps_lookup
    | with_reducible apply keeps_deliver
    | with_reducible apply keeps_laneFree
    | with_reducible apply keeps_onCache
    | (with_reducible refine keeps_install ?_ (by with_reducible assumption))
    | with_reducible apply Keeps.foldl
    | with_reducible apply Keeps.foldlPair
    | (intro _; intros; try dsimp only)
    | split
    | (refine Keeps.of ?_; dsimp only; with_reducible refine Keeps.parts ?_)

theorem keeps_serveGood_eq {z0 s out : State} {line : Nat} {f : Fill} {res : List Req} (h : Keeps z0 s)
    (hu : serveGood s line f = (out, res)) : Keeps z0 out := by
  have k := keeps_serveGood h line f
  rw [hu] at k
  exact k

theorem keeps_serveBad {z0 s : State} (h : Keeps z0 s) (f : Fill) (st : Nat) :
    Keeps z0 (serveBad s f st) := by
  unfold serveBad
  try dsimp only
  repeat' first
    | with_reducible assumption
    | with_reducible apply keeps_lookup
    | with_reducible apply keeps_deliver
    | with_reducible apply Keeps.foldl
    | with_reducible apply Keeps.foldlPair
    | (intro _; intros; try dsimp only)
    | split
    | (refine Keeps.of ?_; dsimp only; with_reducible refine Keeps.parts ?_)

theorem keeps_fillFinish {z0 s : State} (h : Keeps z0 s) (line : Nat) :
    Keeps z0 (fillFinish s line) := by
  unfold fillFinish
  try dsimp only
  repeat' first
    | with_reducible assumption
    | with_reducible apply keeps_onCache
    | with_reducible apply keeps_serveBad
    | with_reducible apply keeps_installClean
    | with_reducible apply keeps_serveGood
    | (with_reducible refine keeps_serveGood_eq ?_ (by with_reducible assumption))
    | with_reducible apply keeps_discardLine
    | split
    | (refine Keeps.of ?_; dsimp only; with_reducible refine Keeps.parts ?_)

theorem keeps_retryFills {z0 s : State} (h : Keeps z0 s) :
    Keeps z0 (retryFills s) := by
  unfold retryFills
  try dsimp only
  repeat' first
    | with_reducible assumption
    | with_reducible apply keeps_fillFinish
    | with_reducible apply Keeps.foldl
    | with_reducible apply Keeps.foldlPair
    | (intro _; intros; try dsimp only)
    | split
    | (refine Keeps.of ?_; dsimp only; with_reducible refine Keeps.parts ?_)

theorem keeps_installThru {z0 s : State} (h : Keeps z0 s) (r : Req) (full : Line) :
    Keeps z0 (installThru s r full) := by
  unfold installThru
  try dsimp only
  repeat' first
    | with_reducible assumption
    | with_reducible apply keeps_deliver
    | with_reducible apply keeps_onCache
    | with_reducible apply keeps_installClean
    | split
    | (refine Keeps.of ?_; dsimp only; with_reducible refine Keeps.parts ?_)

theorem keeps_retryThru {z0 s : State} (h : Keeps z0 s) :
    Keeps z0 (retryThru s) := by
  unfold retryThru
  try dsimp only
  repeat' first
    | with_reducible assumption
    | with_reducible apply keeps_installThru
    | with_reducible apply keeps_onCache
    | with_reducible apply Keeps.foldl
    | with_reducible apply Keeps.foldlPair
    | (intro _; intros; try dsimp only)
    | split
    | (refine Keeps.of ?_; dsimp only; with_reducible refine Keeps.parts ?_)

theorem keeps_settle {z0 s : State} (h : Keeps z0 s) :
    Keeps z0 (settle s) := by
  unfold settle
  try dsimp only
  repeat' first
    | with_reducible assumption
    | with_reducible apply keeps_maintain
    | with_reducible apply keeps_drainPort
    | with_reducible apply keeps_retryWaiting
    | with_reducible apply keeps_retryThru
    | with_reducible apply keeps_retryFills
    | split
    | (refine Keeps.of ?_; dsimp only; with_reducible refine Keeps.parts ?_)

/-! ## Machine/Memory.lean -/

theorem keeps_execRd64 {z0 s : State} (h : Keeps z0 s) (port session tag addr : Nat) (dram : Dram) :
    ∃ t, execRd64 port session tag addr dram s = .next t ∧ Keeps z0 t := by
  unfold execRd64
  refine ⟨_, rfl, ?_⟩
  try dsimp only
  repeat' first
    | with_reducible assumption
    | with_reducible apply keeps_hostRequest
    | split
    | (refine Keeps.of ?_; dsimp only; with_reducible refine Keeps.parts ?_)

theorem keeps_execRd256 {z0 s : State} (h : Keeps z0 s) (port session tag addr : Nat) (dram : Dram) :
    ∃ t, execRd256 port session tag addr dram s = .next t ∧ Keeps z0 t := by
  unfold execRd256
  refine ⟨_, rfl, ?_⟩
  try dsimp only
  repeat' first
    | with_reducible assumption
    | with_reducible apply keeps_hostRequest
    | split
    | (refine Keeps.of ?_; dsimp only; with_reducible refine Keeps.parts ?_)

theorem keeps_execWr64 {z0 s : State} (h : Keeps z0 s) (port session tag addr : Nat) (d : HLine) (dram : Dram) :
    ∃ t, execWr64 port session tag addr d dram s = .next t ∧ Keeps z0 t := by
  unfold execWr64
  refine ⟨_, rfl, ?_⟩
  try dsimp only
  repeat' first
    | with_reducible assumption
    | with_reducible apply keeps_hostRequest
    | split
    | (refine Keeps.of ?_; dsimp only; with_reducible refine Keeps.parts ?_)

theorem keeps_execWr256 {z0 s : State} (h : Keeps z0 s) (port session tag addr : Nat) (d : Line) (dram : Dram) :
    ∃ t, execWr256 port session tag addr d dram s = .next t ∧ Keeps z0 t := by
  unfold execWr256
  refine ⟨_, rfl, ?_⟩
  try dsimp only
  repeat' first
    | with_reducible assumption
    | with_reducible apply keeps_hostRequest
    | split
    | (refine Keeps.of ?_; dsimp only; with_reducible refine Keeps.parts ?_)

theorem keeps_execWrp {z0 s : State} (h : Keeps z0 s) (port session tag addr : Nat) (mask : BitVec 64) (d : HLine) (dram : Dram) :
    ∃ t, execWrp port session tag addr mask d dram s = .next t ∧ Keeps z0 t := by
  unfold execWrp
  refine ⟨_, rfl, ?_⟩
  try dsimp only
  repeat' first
    | with_reducible assumption
    | with_reducible apply keeps_hostRequest
    | split
    | (refine Keeps.of ?_; dsimp only; with_reducible refine Keeps.parts ?_)

theorem keeps_execAcc {z0 s : State} (h : Keeps z0 s) (port session tag addr : Nat) (d : HLine) (dram : Dram) :
    ∃ t, execAcc port session tag addr d dram s = .next t ∧ Keeps z0 t := by
  unfold execAcc
  refine ⟨_, rfl, ?_⟩
  try dsimp only
  repeat' first
    | with_reducible assumption
    | with_reducible apply keeps_hostRequest
    | split
    | (refine Keeps.of ?_; dsimp only; with_reducible refine Keeps.parts ?_)

theorem keeps_endRead {z0 s : State} (h : Keeps z0 s) (line st : Nat) (d : Line) :
    Keeps z0 (endRead s line st d) := by
  unfold endRead
  try dsimp only
  repeat' first
    | with_reducible assumption
    | with_reducible apply keeps_unpin
    | with_reducible apply keeps_onCache
    | with_reducible apply keeps_pumpAt
    | with_reducible apply keeps_updChan
    | split
    | (refine Keeps.of ?_; dsimp only; with_reducible refine Keeps.parts ?_)

theorem keeps_fillDecoded {z0 s : State} (h : Keeps z0 s) (line : Nat) (f : Fill) (bits reread : Nat) :
    Keeps z0 (fillDecoded s line f bits reread) := by
  unfold fillDecoded
  try dsimp only
  repeat' first
    | with_reducible assumption
    | with_reducible apply keeps_endRead
    | with_reducible apply keeps_noteDecode
    | split
    | (refine Keeps.of ?_; dsimp only; with_reducible refine Keeps.parts ?_)

theorem keeps_fillMac {z0 s : State} (h : Keeps z0 s) (line : Nat) (f : Fill) :
    Keeps z0 (fillMac s line f) := by
  unfold fillMac
  try dsimp only
  repeat' first
    | with_reducible assumption
    | with_reducible apply keeps_record
    | with_reducible apply keeps_endRead
    | split
    | (refine Keeps.of ?_; dsimp only; with_reducible refine Keeps.parts ?_)

theorem keeps_autoErr {z0 s : State} (h : Keeps z0 s) (line : Nat) :
    Keeps z0 (autoErr s line) := by
  unfold autoErr
  try dsimp only
  repeat' first
    | with_reducible assumption
    | with_reducible apply keeps_onCache
    | with_reducible apply keeps_record
    | with_reducible apply keeps_updChan
    | split
    | (refine Keeps.of ?_; dsimp only; with_reducible refine Keeps.parts ?_)

theorem keeps_cancelReRead {z0 s : State} (h : Keeps z0 s) (line : Nat) :
    Keeps z0 (cancelReRead s line) := by
  unfold cancelReRead
  try dsimp only
  repeat' first
    | with_reducible assumption
    | with_reducible apply keeps_count
    | with_reducible apply keeps_updChan
    | split
    | (refine Keeps.of ?_; dsimp only; with_reducible refine Keeps.parts ?_)

theorem keeps_startReRead {z0 s : State} (h : Keeps z0 s) (line : Nat) (f : Fill) (n : Nat) :
    Keeps z0 (startReRead s line f n) := by
  unfold startReRead
  try dsimp only
  repeat' first
    | with_reducible assumption
    | with_reducible apply keeps_onCache
    | with_reducible apply keeps_count
    | with_reducible apply keeps_arbFill
    | split
    | (refine Keeps.of ?_; dsimp only; with_reducible refine Keeps.parts ?_)

theorem keeps_mediaReadDecoded {z0 s : State} (h : Keeps z0 s) (line : Nat) (r : Decoded) :
    Keeps z0 (mediaReadDecoded s line r) := by
  unfold mediaReadDecoded
  try dsimp only
  repeat' first
    | with_reducible assumption
    | with_reducible apply keeps_startReRead
    | with_reducible apply keeps_endRead
    | with_reducible apply keeps_poisonLine
    | with_reducible apply keeps_fillDecoded
    | with_reducible apply keeps_cancelReRead
    | with_reducible apply keeps_count
    | with_reducible apply keeps_fillMac
    | with_reducible apply keeps_autoErr
    | split
    | (refine Keeps.of ?_; dsimp only; with_reducible refine Keeps.parts ?_)

theorem keeps_execMediaReadDecoded {z0 s : State} (h : Keeps z0 s) (line : Nat) (r : Decoded) :
    ∃ t, execMediaReadDecoded line r s = .next t ∧ Keeps z0 t := by
  unfold execMediaReadDecoded
  refine ⟨_, rfl, ?_⟩
  try dsimp only
  repeat' first
    | with_reducible assumption
    | with_reducible apply keeps_mediaReadDecoded
    | split
    | (refine Keeps.of ?_; dsimp only; with_reducible refine Keeps.parts ?_)

theorem keeps_reReadDone {z0 s : State} (h : Keeps z0 s) (line : Nat) (r : Decoded) (shifts : List Int) :
    Keeps z0 (reReadDone s line r shifts) := by
  unfold reReadDone
  try dsimp only
  repeat' first
    | with_reducible assumption
    | with_reducible apply keeps_onCache
    | with_reducible apply keeps_startReRead
    | with_reducible apply keeps_updChan
    | with_reducible apply keeps_endRead
    | with_reducible apply keeps_poisonLine
    | with_reducible apply keeps_fillDecoded
    | with_reducible apply keeps_cancelReRead
    | with_reducible apply keeps_fillMac
    | with_reducible apply keeps_autoErr
    | split
    | (refine Keeps.of ?_; dsimp only; with_reducible refine Keeps.parts ?_)

theorem keeps_execReReadDone {z0 s : State} (h : Keeps z0 s) (line : Nat) (r : Decoded) (shifts : List Int) :
    ∃ t, execReReadDone line r shifts s = .next t ∧ Keeps z0 t := by
  unfold execReReadDone
  refine ⟨_, rfl, ?_⟩
  try dsimp only
  repeat' first
    | with_reducible assumption
    | with_reducible apply keeps_reReadDone
    | split
    | (refine Keeps.of ?_; dsimp only; with_reducible refine Keeps.parts ?_)

theorem keeps_fillComplete {z0 s : State} (h : Keeps z0 s) (line : Nat) :
    Keeps z0 (fillComplete s line) := by
  unfold fillComplete
  try dsimp only
  repeat' first
    | with_reducible assumption
    | with_reducible apply keeps_settle
    | with_reducible apply keeps_fillFinish
    | split
    | (refine Keeps.of ?_; dsimp only; with_reducible refine Keeps.parts ?_)

theorem keeps_execFillComplete {z0 s : State} (h : Keeps z0 s) (line : Nat) :
    ∃ t, execFillComplete line s = .next t ∧ Keeps z0 t := by
  unfold execFillComplete
  refine ⟨_, rfl, ?_⟩
  try dsimp only
  repeat' first
    | with_reducible assumption
    | with_reducible apply keeps_fillComplete
    | split
    | (refine Keeps.of ?_; dsimp only; with_reducible refine Keeps.parts ?_)

theorem keeps_execLaneProtectedRunEnd {z0 s : State} (h : Keeps z0 s) (ch : Nat) :
    ∃ t, execLaneProtectedRunEnd ch s = .next t ∧ Keeps z0 t := by
  unfold execLaneProtectedRunEnd
  refine ⟨_, rfl, ?_⟩
  try dsimp only
  repeat' first
    | with_reducible assumption
    | with_reducible apply keeps_updChan
    | split
    | (refine Keeps.of ?_; dsimp only; with_reducible refine Keeps.parts ?_)

theorem keeps_execWbbEntryFreed {z0 s : State} (h : Keeps z0 s) :
    ∃ t, execWbbEntryFreed s = .next t ∧ Keeps z0 t := by
  unfold execWbbEntryFreed
  refine ⟨_, rfl, ?_⟩
  try dsimp only
  repeat' first
    | with_reducible assumption
    | with_reducible apply keeps_settle
    | split
    | (refine Keeps.of ?_; dsimp only; with_reducible refine Keeps.parts ?_)

theorem keeps_releaseHeld {z0 s : State} (h : Keeps z0 s) :
    Keeps z0 (releaseHeld s) := by
  unfold releaseHeld
  try dsimp only
  repeat' first
    | with_reducible assumption
    | (with_reducible refine keeps_takeTokens ?_ (by with_reducible assumption))
    | with_reducible apply keeps_sample
    | with_reducible apply keeps_updCtx
    | with_reducible apply keeps_enterTable
    | with_reducible apply Keeps.foldl
    | with_reducible apply Keeps.foldlPair
    | (intro _; intros; try dsimp only)
    | split
    | (refine Keeps.of ?_; dsimp only; with_reducible refine Keeps.parts ?_)

theorem keeps_tokenRefill {z0 s : State} (h : Keeps z0 s) :
    Keeps z0 (tokenRefill s) := by
  unfold tokenRefill
  try dsimp only
  repeat' first
    | with_reducible assumption
    | with_reducible apply keeps_pumpDies
    | with_reducible apply keeps_releaseHeld
    | split
    | (refine Keeps.of ?_; dsimp only; with_reducible refine Keeps.parts ?_)

theorem keeps_execTokenRefill {z0 s : State} (h : Keeps z0 s) :
    ∃ t, execTokenRefill s = .next t ∧ Keeps z0 t := by
  unfold execTokenRefill
  refine ⟨_, rfl, ?_⟩
  try dsimp only
  repeat' first
    | with_reducible assumption
    | with_reducible apply keeps_tokenRefill
    | split
    | (refine Keeps.of ?_; dsimp only; with_reducible refine Keeps.parts ?_)

theorem keeps_dieDirectoryRebuild {z0 s : State} (h : Keeps z0 s) (fx : Nat) :
    Keeps z0 (dieDirectoryRebuild s fx) := by
  unfold dieDirectoryRebuild
  try dsimp only
  repeat' first
    | with_reducible assumption
    | with_reducible apply keeps_settle
    | with_reducible apply keeps_record
    | with_reducible apply keeps_onMedium
    | split
    | (refine Keeps.of ?_; dsimp only; with_reducible refine Keeps.parts ?_)

theorem keeps_execDieDirectoryRebuild {z0 s : State} (h : Keeps z0 s) (fx : Nat) :
    ∃ t, execDieDirectoryRebuild fx s = .next t ∧ Keeps z0 t := by
  unfold execDieDirectoryRebuild
  refine ⟨_, rfl, ?_⟩
  try dsimp only
  repeat' first
    | with_reducible assumption
    | with_reducible apply keeps_dieDirectoryRebuild
    | split
    | (refine Keeps.of ?_; dsimp only; with_reducible refine Keeps.parts ?_)

theorem keeps_mapEntryRecovery {z0 s : State} (h : Keeps z0 s) (page : Nat) (found : Bool) :
    Keeps z0 (mapEntryRecovery s page found) := by
  unfold mapEntryRecovery
  try dsimp only
  repeat' first
    | with_reducible assumption
    | with_reducible apply keeps_settle
    | with_reducible apply keeps_onMaps
    | with_reducible apply keeps_poisonPage
    | split
    | (refine Keeps.of ?_; dsimp only; with_reducible refine Keeps.parts ?_)

theorem keeps_execMapEntryRecovery {z0 s : State} (h : Keeps z0 s) (page : Nat) (found : Bool) :
    ∃ t, execMapEntryRecovery page found s = .next t ∧ Keeps z0 t := by
  unfold execMapEntryRecovery
  refine ⟨_, rfl, ?_⟩
  try dsimp only
  repeat' first
    | with_reducible assumption
    | with_reducible apply keeps_mapEntryRecovery
    | split
    | (refine Keeps.of ?_; dsimp only; with_reducible refine Keeps.parts ?_)

/-! ## Machine/Wear.lean -/

theorem keeps_recomputeChan {z0 s : State} (h : Keeps z0 s) (c : Nat) :
    Keeps z0 (recomputeChan s c) := by
  unfold recomputeChan
  try dsimp only
  repeat' first
    | with_reducible assumption
    | with_reducible apply keeps_updChan
    | split
    | (refine Keeps.of ?_; dsimp only; with_reducible refine Keeps.parts ?_)

theorem keeps_recompute {z0 s : State} (h : Keeps z0 s) :
    Keeps z0 (recompute s) := by
  unfold recompute
  try dsimp only
  repeat' first
    | with_reducible assumption
    | with_reducible apply keeps_recomputeChan
    | with_reducible apply Keeps.foldl
    | with_reducible apply Keeps.foldlPair
    | (intro _; intros; try dsimp only)
    | split
    | (refine Keeps.of ?_; dsimp only; with_reducible refine Keeps.parts ?_)

theorem keeps_roEnter {z0 s : State} (h : Keeps z0 s) :
    Keeps z0 (roEnter s) := by
  unfold roEnter
  try dsimp only
  repeat' first
    | with_reducible assumption
    | with_reducible apply keeps_count
    | with_reducible apply keeps_irq
    | with_reducible apply keeps_notifyDevice
    | with_reducible apply keeps_updChan
    | with_reducible apply keeps_onMaps
    | with_reducible apply Keeps.foldl
    | with_reducible apply Keeps.foldlPair
    | (intro _; intros; try dsimp only)
    | split
    | (refine Keeps.of ?_; dsimp only; with_reducible refine Keeps.parts ?_)

theorem keeps_roExit {z0 s : State} (h : Keeps z0 s) :
    Keeps z0 (roExit s) := by
  unfold roExit
  try dsimp only
  repeat' first
    | with_reducible assumption
    | with_reducible apply keeps_irq
    | with_reducible apply keeps_notifyDevice
    | with_reducible apply keeps_onMaps
    | split
    | (refine Keeps.of ?_; dsimp only; with_reducible refine Keeps.parts ?_)

theorem keeps_sampleFree {z0 s : State} (hh : Keeps z0 s) (h n : Nat) :
    Keeps z0 (sampleFree s h n) := by
  unfold sampleFree
  try dsimp only
  repeat' first
    | with_reducible assumption
    | with_reducible apply keeps_sample
    | with_reducible apply keeps_burn
    | with_reducible apply Keeps.foldl
    | with_reducible apply Keeps.foldlPair
    | (intro _; intros; try dsimp only)
    | split
    | (refine Keeps.of ?_; dsimp only; with_reducible refine Keeps.parts ?_)

theorem keeps_freeFrame {z0 s : State} (h : Keeps z0 s) (fx : Nat) :
    Keeps z0 (freeFrame s fx) := by
  unfold freeFrame
  try dsimp only
  repeat' first
    | with_reducible assumption
    | with_reducible apply keeps_putFrame
    | with_reducible apply keeps_roExit
    | with_reducible apply keeps_treeUpdate
    | with_reducible apply keeps_updChan
    | split
    | (refine Keeps.of ?_; dsimp only; with_reducible refine Keeps.parts ?_)

theorem keeps_loseCapability {z0 s : State} (h : Keeps z0 s) :
    Keeps z0 (loseCapability s) := by
  unfold loseCapability
  try dsimp only
  repeat' first
    | with_reducible assumption
    | with_reducible apply keeps_recompute
    | split
    | (refine Keeps.of ?_; dsimp only; with_reducible refine Keeps.parts ?_)

theorem keeps_retireFrame {z0 s : State} (h : Keeps z0 s) (fx : Nat) :
    Keeps z0 (retireFrame s fx) := by
  unfold retireFrame
  try dsimp only
  repeat' first
    | with_reducible assumption
    | with_reducible apply keeps_onMedium
    | with_reducible apply keeps_updChan
    | with_reducible apply keeps_resumeAll
    | with_reducible apply keeps_roEnter
    | with_reducible apply keeps_treeUpdate
    | with_reducible apply keeps_putFrame
    | with_reducible apply keeps_loseCapability
    | split
    | (refine Keeps.of ?_; dsimp only; with_reducible refine Keeps.parts ?_)

end Sys2Proof.Laws
end

