-- ==== Sys2Proof/Laws/KeepsPages.lean ====
section
/-! SUPPORT. What write-back, journal, reclaim, transfers keep (see Laws/Keeps.lean): one lemma per operation. -/

namespace Sys2Proof.Laws

open Sys2Proof Sys2Proof.Machine

/-! ## Machine/WriteBack.lean -/

theorem keeps_macFail {z0 s : State} (h : Keeps z0 s) (page : Nat) :
    Keeps z0 (macFail s page) := by
  unfold macFail
  try dsimp only
  repeat' first
    | with_reducible assumption
    | with_reducible apply keeps_record
    | split
    | (refine Keeps.of ?_; dsimp only; with_reducible refine Keeps.parts ?_)

theorem keeps_gatherStored {z0 s : State} (h : Keeps z0 s) (page j : Nat) (found : List (Nat × Decoded)) :
    Keeps z0 (gatherStored s page j found).1 := by
  unfold gatherStored
  try dsimp only
  repeat' first
    | with_reducible assumption
    | with_reducible apply keeps_slotRead
    | (with_reducible refine keeps_slotRead_eq ?_ (by with_reducible assumption))
    | with_reducible apply keeps_noteDecode
    | with_reducible apply keeps_macFail
    | with_reducible apply keeps_poisonLine
    | split
    | (refine Keeps.of ?_; dsimp only; with_reducible refine Keeps.parts ?_)

theorem keeps_gatherStored_eq {z0 s out : State} {page j : Nat} {found : List (Nat × Decoded)} {res : Line × Nat} (h : Keeps z0 s)
    (hu : gatherStored s page j found = (out, res)) : Keeps z0 out := by
  have k := keeps_gatherStored h page j found
  rw [hu] at k
  exact k

theorem keeps_gatherLine {z0 s : State} (h : Keeps z0 s) (page j : Nat) (found : List (Nat × Decoded)) :
    Keeps z0 (gatherLine s page j found).1 := by
  unfold gatherLine
  try dsimp only
  repeat' first
    | with_reducible assumption
    | with_reducible apply keeps_gatherStored
    | (with_reducible refine keeps_gatherStored_eq ?_ (by with_reducible assumption))
    | split
    | (refine Keeps.of ?_; dsimp only; with_reducible refine Keeps.parts ?_)

theorem keeps_gatherLine_eq {z0 s out : State} {page j : Nat} {found : List (Nat × Decoded)} {res : Line × Nat × Option (Line × Bool)} (h : Keeps z0 s)
    (hu : gatherLine s page j found = (out, res)) : Keeps z0 out := by
  have k := keeps_gatherLine h page j found
  rw [hu] at k
  exact k

theorem keeps_thruLine {z0 : State} {g : Gather} (h : Keeps z0 g.s) (line : Nat) (v : Line) (st : Nat) :
    Keeps z0 (thruLine g line v st).1.s := by
  unfold thruLine
  refine List.foldlRecOn (motive := fun (b : Gather × Line × Nat × Bool) => Keeps z0 b.1.s) _ _ h ?_
  intro b hb r _
  obtain ⟨g, d, st, any⟩ := b
  dsimp only at hb ⊢
  split
  · exact keeps_deliver (keeps_onCache hb _) _ _ _ _
  · exact keeps_onCache hb _

theorem keeps_gatherPage {z0 s : State} (h : Keeps z0 s) (page : Nat) (found : List (Nat × Decoded)) :
    Keeps z0 (gatherPage s page found).s := by
  unfold gatherPage
  refine List.foldlRecOn (motive := fun (g : Gather) => Keeps z0 g.s) _ _ h ?_
  intro g hg j _
  exact keeps_thruLine (g := { g with s := (gatherLine g.s page j found).1 }) (keeps_gatherLine hg page j found) _ _ _

theorem keeps_dramLost {z0 s : State} (h : Keeps z0 s) (lines : List Nat) :
    Keeps z0 (dramLost s lines) := by
  unfold dramLost
  try dsimp only
  repeat' first
    | with_reducible assumption
    | with_reducible apply keeps_record
    | with_reducible apply keeps_onCache
    | with_reducible apply keeps_dropLine
    | with_reducible apply Keeps.foldl
    | with_reducible apply Keeps.foldlPair
    | (intro _; intros; try dsimp only)
    | split
    | (refine Keeps.of ?_; dsimp only; with_reducible refine Keeps.parts ?_)

theorem keeps_chargeRegion {z0 s : State} (h : Keeps z0 s) (page n : Nat) :
    Keeps z0 (chargeRegion s page n) := by
  unfold chargeRegion
  try dsimp only
  repeat' first
    | with_reducible assumption
    | with_reducible apply keeps_arbWant
    | with_reducible apply Keeps.foldl
    | with_reducible apply Keeps.foldlPair
    | (intro _; intros; try dsimp only)
    | split
    | (refine Keeps.of ?_; dsimp only; with_reducible refine Keeps.parts ?_)

theorem keeps_allocAbove {z0 s out : State} {ch u : Nat} {r0 : Nat} {r1 : Nat} (h : Keeps z0 s)
    (hu : allocAbove s ch u = some (r0, r1, out)) : Keeps z0 out := by
  unfold allocAbove at hu
  try dsimp only at hu
  repeat' first
    | (split at hu)
    | contradiction
    | (injection hu; done)
  all_goals (first | contradiction | (cases hu; done) | (injections; subst_vars))
  all_goals
    try dsimp only
  all_goals
    repeat' first
      | with_reducible assumption
      | (with_reducible refine keeps_allocUse ?_ (by with_reducible assumption))
      | split
      | (refine Keeps.of ?_; dsimp only; with_reducible refine Keeps.parts ?_)

theorem keeps_allocWrite {z0 s out : State} {ch r0 r1 : Nat} {r : Region} {thru : Bool} (h : Keeps z0 s)
    (hu : allocWrite s ch r thru = some (r0, r1, out)) : Keeps z0 out := by
  unfold allocWrite at hu
  dsimp only at hu
  repeat' split at hu
  all_goals
    first
    | exact keeps_allocAbove h hu
    | exact keeps_allocStage h hu
    | (obtain ⟨d, _, hd⟩ := List.exists_of_findSome?_eq_some hu
       split at hd
       · exact keeps_allocUse h hd
       · cases hd)

theorem keeps_startCopy {z0 s : State} (h : Keeps z0 s) {g : Gather} (hg : Keeps z0 g.s) (page idx : Nat) (r : Region) :
    Keeps z0 (startCopy s g page idx r) := by
  unfold startCopy
  dsimp only
  repeat' first
    | with_reducible assumption
    | with_reducible apply keeps_onMaps
    | with_reducible apply keeps_count
    | with_reducible apply keeps_chargeRegion
    | with_reducible apply keeps_issueVersion
    | (with_reducible refine keeps_allocWrite ?_ (by with_reducible assumption))
    | with_reducible apply keeps_poisonLine
    | with_reducible apply Keeps.foldl
    | (intro _ _ _; try dsimp only)
    | split

theorem keeps_startInPlace {z0 : State} {g : Gather} (hg : Keeps z0 g.s) (page : Nat) (img : PageImg) :
    Keeps z0 (startInPlace g page img) := by
  unfold startInPlace
  dsimp only
  exact keeps_onMaps (keeps_count (keeps_chargeRegion hg _ _) _ _ _ _) _

theorem keeps_moveCursor {z0 s : State} (h : Keeps z0 s) (page : Nat) :
    Keeps z0 (moveCursor s page) := by
  unfold moveCursor
  try dsimp only
  repeat' first
    | with_reducible assumption
    | with_reducible apply keeps_onCache
    | split
    | (refine Keeps.of ?_; dsimp only; with_reducible refine Keeps.parts ?_)

theorem keeps_rewritePage {z0 s : State} (h : Keeps z0 s) (page : Nat) (found : List (Nat × Decoded)) (force : Bool) :
    Keeps z0 (rewritePage s page found force) := by
  unfold rewritePage
  split
  · exact h
  · rename_i idx r _
    dsimp only
    split
    · exact h
    · have hg : Keeps z0 (gatherPage (if s.gathersMedia page then houseRead (chargeRegion s page 1) (s.mapEntry page) else s) page
          found).s := by
        refine keeps_gatherPage ?_ _ _
        split
        · exact keeps_houseRead (keeps_chargeRegion h _ _) _
        · exact h
      have hm := keeps_moveCursor hg page
      generalize gatherPage (if s.gathersMedia page then houseRead (chargeRegion s page 1) (s.mapEntry page) else s) page found = g
        at hg hm ⊢
      split
      · exact hg
      · split
        · exact h
        · split
          · split
            · exact keeps_startInPlace hm _ _
            · exact keeps_startCopy h hm _ _ _
          · exact keeps_startCopy h hm _ _ _

theorem keeps_writeBackStart {z0 s : State} (h : Keeps z0 s) (page : Nat) (found : List (Nat × Decoded)) (dramBad : List Nat) :
    Keeps z0 (writeBackStart s page found dramBad) := by
  unfold writeBackStart
  try dsimp only
  repeat' first
    | with_reducible assumption
    | with_reducible apply keeps_rewritePage
    | with_reducible apply keeps_dramLost
    | split
    | (refine Keeps.of ?_; dsimp only; with_reducible refine Keeps.parts ?_)

theorem keeps_execWriteBackStart {z0 s : State} (h : Keeps z0 s) (page : Nat) (found : List (Nat × Decoded)) (dramBad : List Nat) :
    ∃ t, execWriteBackStart page found dramBad s = .next t ∧ Keeps z0 t := by
  unfold execWriteBackStart
  refine ⟨_, rfl, ?_⟩
  try dsimp only
  repeat' first
    | with_reducible assumption
    | with_reducible apply keeps_writeBackStart
    | split
    | (refine Keeps.of ?_; dsimp only; with_reducible refine Keeps.parts ?_)

theorem keeps_cleanLine {z0 s : State} (h : Keeps z0 s) (p : Snap) (full : Line) (poison : Bool) (buf : List (Nat × Line)) :
    Keeps z0 (cleanLine s p full poison buf) := by
  unfold cleanLine
  try dsimp only
  repeat' first
    | with_reducible assumption
    | with_reducible apply keeps_onCache
    | split
    | (refine Keeps.of ?_; dsimp only; with_reducible refine Keeps.parts ?_)

theorem keeps_completeThru {z0 s : State} (h : Keeps z0 s) (m : Move) (line : Nat) (full : Line) :
    Keeps z0 (completeThru s m line full) := by
  unfold completeThru
  try dsimp only
  repeat' first
    | with_reducible assumption
    | with_reducible apply keeps_installThru
    | with_reducible apply Keeps.foldl
    | with_reducible apply Keeps.foldlPair
    | (intro _; intros; try dsimp only)
    | split
    | (refine Keeps.of ?_; dsimp only; with_reducible refine Keeps.parts ?_)

theorem keeps_frameDue {z0 s : State} (h : Keeps z0 s) (fx : Nat) :
    Keeps z0 (frameDue s fx) := by
  unfold frameDue
  try dsimp only
  repeat' first
    | with_reducible assumption
    | with_reducible apply keeps_onMedium
    | split
    | (refine Keeps.of ?_; dsimp only; with_reducible refine Keeps.parts ?_)

theorem keeps_programFailed {z0 s : State} (h : Keeps z0 s) (fx : Nat) :
    Keeps z0 (programFailed s fx) := by
  unfold programFailed
  try dsimp only
  repeat' first
    | with_reducible assumption
    | with_reducible apply keeps_frameDue
    | with_reducible apply keeps_updChan
    | split
    | (refine Keeps.of ?_; dsimp only; with_reducible refine Keeps.parts ?_)

theorem keeps_updStored {z0 s : State} (h : Keeps z0 s) (ppn line : Nat) (f : LImg → LImg) :
    Keeps z0 (updStored s ppn line f) := by
  unfold updStored
  try dsimp only
  repeat' first
    | with_reducible assumption
    | with_reducible apply keeps_onMedium
    | split
    | (refine Keeps.of ?_; dsimp only; with_reducible refine Keeps.parts ?_)

theorem keeps_monotoneProgramDone {z0 s : State} (h : Keeps z0 s) (page line step : Nat) (pass : Bool) :
    Keeps z0 (monotoneProgramDone s page line step pass) := by
  unfold monotoneProgramDone
  try dsimp only
  repeat' first
    | with_reducible assumption
    | with_reducible apply keeps_programFailed
    | with_reducible apply keeps_updStored
    | with_reducible apply keeps_burn
    | with_reducible apply keeps_settle
    | with_reducible apply keeps_dropMove
    | with_reducible apply keeps_sampleFree
    | with_reducible apply keeps_count
    | with_reducible apply keeps_onMaps
    | with_reducible apply keeps_leavePoisonSet
    | with_reducible apply keeps_cleanLine
    | split
    | (refine Keeps.of ?_; dsimp only; with_reducible refine Keeps.parts ?_)

theorem keeps_execMonotoneProgramDone {z0 s : State} (h : Keeps z0 s) (page line step : Nat) (pass : Bool) :
    ∃ t, execMonotoneProgramDone page line step pass s = .next t ∧ Keeps z0 t := by
  unfold execMonotoneProgramDone
  refine ⟨_, rfl, ?_⟩
  try dsimp only
  repeat' first
    | with_reducible assumption
    | with_reducible apply keeps_monotoneProgramDone
    | split
    | (refine Keeps.of ?_; dsimp only; with_reducible refine Keeps.parts ?_)

theorem keeps_journalMove {z0 s : State} (h : Keeps z0 s) (page : Nat) (m : Move) :
    Keeps z0 (journalMove s page m) := by
  unfold journalMove
  try dsimp only
  repeat' first
    | with_reducible assumption
    | with_reducible apply keeps_onMaps
    | split
    | (refine Keeps.of ?_; dsimp only; with_reducible refine Keeps.parts ?_)

theorem keeps_tagDone {z0 s : State} (h : Keeps z0 s) (page : Nat) (m : Move) :
    Keeps z0 (tagDone s page m) := by
  unfold tagDone
  try dsimp only
  repeat' first
    | with_reducible assumption
    | with_reducible apply keeps_updFrame
    | with_reducible apply keeps_journalMove
    | split
    | (refine Keeps.of ?_; dsimp only; with_reducible refine Keeps.parts ?_)

theorem keeps_releaseTags {z0 s : State} (h : Keeps z0 s) :
    Keeps z0 (releaseTags s) := by
  unfold releaseTags
  try dsimp only
  repeat' first
    | with_reducible assumption
    | with_reducible apply keeps_tagDone
    | with_reducible apply Keeps.foldl
    | with_reducible apply Keeps.foldlPair
    | (intro _; intros; try dsimp only)
    | split
    | (refine Keeps.of ?_; dsimp only; with_reducible refine Keeps.parts ?_)

theorem keeps_skipPair {z0 s : State} (h : Keeps z0 s) (m : Move) :
    Keeps z0 (skipPair s m) := by
  unfold skipPair
  try dsimp only
  repeat' first
    | with_reducible assumption
    | with_reducible apply keeps_updFrame
    | with_reducible apply keeps_closeFrame
    | split
    | (refine Keeps.of ?_; dsimp only; with_reducible refine Keeps.parts ?_)

theorem keeps_dropWalk {z0 s : State} (h : Keeps z0 s) (fx : Nat) :
    Keeps z0 (dropWalk s fx) := by
  unfold dropWalk
  try dsimp only
  repeat' first
    | with_reducible assumption
    | with_reducible apply keeps_dropMove
    | with_reducible apply Keeps.foldl
    | with_reducible apply Keeps.foldlPair
    | (intro _; intros; try dsimp only)
    | split
    | (refine Keeps.of ?_; dsimp only; with_reducible refine Keeps.parts ?_)

theorem keeps_pageCopyProgrammed {z0 s : State} (h : Keeps z0 s) (page : Nat) (pass : Bool) :
    Keeps z0 (pageCopyProgrammed s page pass) := by
  unfold pageCopyProgrammed
  try dsimp only
  repeat' first
    | with_reducible assumption
    | with_reducible apply keeps_onMedium
    | with_reducible apply keeps_sampleFree
    | with_reducible apply keeps_count
    | with_reducible apply keeps_onMaps
    | with_reducible apply keeps_pumpAt
    | with_reducible apply keeps_releaseTags
    | with_reducible apply keeps_skipPair
    | with_reducible apply keeps_programFailed
    | with_reducible apply keeps_updFrame
    | with_reducible apply keeps_settle
    | with_reducible apply keeps_dropWalk
    | (with_reducible refine keeps_allocUse ?_ (by with_reducible assumption))
    | with_reducible apply keeps_dropMove
    | split
    | (refine Keeps.of ?_; dsimp only; with_reducible refine Keeps.parts ?_)

theorem keeps_execPageCopyProgrammed {z0 s : State} (h : Keeps z0 s) (page : Nat) (pass : Bool) :
    ∃ t, execPageCopyProgrammed page pass s = .next t ∧ Keeps z0 t := by
  unfold execPageCopyProgrammed
  refine ⟨_, rfl, ?_⟩
  try dsimp only
  repeat' first
    | with_reducible assumption
    | with_reducible apply keeps_pageCopyProgrammed
    | split
    | (refine Keeps.of ?_; dsimp only; with_reducible refine Keeps.parts ?_)

theorem keeps_integrityFrameClose {z0 s : State} (h : Keeps z0 s) (ch use : Nat) :
    Keeps z0 (integrityFrameClose s ch use) := by
  unfold integrityFrameClose
  try dsimp only
  repeat' first
    | with_reducible assumption
    | with_reducible apply keeps_releaseTags
    | with_reducible apply keeps_closeFrame
    | split
    | (refine Keeps.of ?_; dsimp only; with_reducible refine Keeps.parts ?_)

theorem keeps_execIntegrityFrameClose {z0 s : State} (h : Keeps z0 s) (ch use : Nat) :
    ∃ t, execIntegrityFrameClose ch use s = .next t ∧ Keeps z0 t := by
  unfold execIntegrityFrameClose
  refine ⟨_, rfl, ?_⟩
  try dsimp only
  repeat' first
    | with_reducible assumption
    | with_reducible apply keeps_integrityFrameClose
    | split
    | (refine Keeps.of ?_; dsimp only; with_reducible refine Keeps.parts ?_)

/-! ## Machine/MapPages.lean -/

theorem keeps_addLive {z0 s : State} (h : Keeps z0 s) (ppn : Nat) (up : Bool) :
    Keeps z0 (addLive s ppn up) := by
  unfold addLive
  try dsimp only
  repeat' first
    | with_reducible assumption
    | with_reducible apply keeps_updFrame
    | split
    | (refine Keeps.of ?_; dsimp only; with_reducible refine Keeps.parts ?_)

theorem keeps_sysLive {z0 t : State} (h : Keeps z0 t) (was : List Nat) :
    Keeps z0 (sysLive was t) := by
  unfold sysLive
  try dsimp only
  repeat' first
    | with_reducible assumption
    | with_reducible apply keeps_addLive
    | with_reducible apply keeps_freeFrame
    | with_reducible apply Keeps.foldl
    | with_reducible apply Keeps.foldlPair
    | (intro _; intros; try dsimp only)
    | split
    | (refine Keeps.of ?_; dsimp only; with_reducible refine Keeps.parts ?_)

theorem keeps_putSys {z0 s : State} (h : Keeps z0 s) (tag ppn : Nat) (entries : Tbl Nat) :
    Keeps z0 (putSys s tag ppn entries) := by
  unfold putSys
  try dsimp only
  repeat' first
    | with_reducible assumption
    | with_reducible apply keeps_onMedium
    | with_reducible apply keeps_onMaps
    | with_reducible apply keeps_sysLive
    | with_reducible apply keeps_sampleFree
    | with_reducible apply keeps_count
    | split
    | (refine Keeps.of ?_; dsimp only; with_reducible refine Keeps.parts ?_)

theorem keeps_writeSys {z0 s out : State} {tag : Nat} {entries : Tbl Nat} (h : Keeps z0 s) (hu : writeSys s tag entries = some out) :
    Keeps z0 out := by
  unfold writeSys at hu
  obtain ⟨y, hy, hz⟩ := Option.map_eq_some_iff.mp hu
  exact hz ▸ keeps_putSys (keeps_allocPos h hy) _ _ _

theorem keeps_writeMapPages {z0 s out : State} {l : List Nat} (h : Keeps z0 s) (hu : writeMapPages s l = some out) :
    Keeps z0 out := by
  induction l generalizing s with
  | nil =>
    simp only [writeMapPages, Option.some.injEq] at hu
    exact hu ▸ h
  | cons n l ih =>
    unfold writeMapPages at hu
    split at hu
    · cases hu
    · rename_i t ht
      exact ih (keeps_writeSys h ht) hu

theorem keeps_writeDirPages {z0 s out : State} {l : List Nat} (h : Keeps z0 s) (hu : writeDirPages s l = some out) :
    Keeps z0 out := by
  induction l generalizing s with
  | nil =>
    simp only [writeDirPages, Option.some.injEq] at hu
    exact hu ▸ h
  | cons n l ih =>
    unfold writeDirPages at hu
    dsimp only at hu
    repeat' split at hu
    all_goals
      first
      | exact ih h hu
      | contradiction
      | exact ih (keeps_writeSys h (by with_reducible assumption)) hu

theorem keeps_moveSys {z0 s : State} (h : Keeps z0 s) (fx : Nat) :
    Keeps z0 (moveSys s fx) := by
  unfold moveSys
  try dsimp only
  repeat' first
    | with_reducible assumption
    | with_reducible apply keeps_count
    | with_reducible apply keeps_houseRead
    | (with_reducible refine keeps_allocCopy ?_ (by with_reducible assumption))
    | with_reducible apply keeps_putSys
    | with_reducible apply Keeps.foldl
    | with_reducible apply Keeps.foldlPair
    | (intro _; intros; try dsimp only)
    | split
    | (refine Keeps.of ?_; dsimp only; with_reducible refine Keeps.parts ?_)

/-! ## Machine/Journal.lean -/

theorem keeps_openJournal {z0 s : State} (h : Keeps z0 s) :
    Keeps z0 (openJournal s) := by
  unfold openJournal
  try dsimp only
  repeat' first
    | with_reducible assumption
    | with_reducible apply keeps_onMaps
    | split
    | (refine Keeps.of ?_; dsimp only; with_reducible refine Keeps.parts ?_)

theorem keeps_openJournals {z0 s : State} (h : Keeps z0 s) :
    Keeps z0 (openJournals s) := by
  unfold openJournals
  try dsimp only
  repeat' first
    | with_reducible assumption
    | with_reducible apply keeps_openJournal
    | split
    | (refine Keeps.of ?_; dsimp only; with_reducible refine Keeps.parts ?_)

theorem keeps_takePlace {z0 s0 out : State}  {r0 : Nat} (h : Keeps z0 s0)
    (hu : takePlace s0 = some (r0, out)) : Keeps z0 out := by
  unfold takePlace at hu
  try dsimp only at hu
  repeat' first
    | (split at hu)
    | contradiction
    | (injection hu; done)
  all_goals (first | contradiction | (cases hu; done) | (injections; subst_vars))
  all_goals
    try dsimp only
  all_goals
    repeat' first
      | with_reducible assumption
      | with_reducible apply keeps_openJournals
      | with_reducible apply keeps_onMaps
      | split
      | (refine Keeps.of ?_; dsimp only; with_reducible refine Keeps.parts ?_)

theorem keeps_putJournal {z0 s : State} (h : Keeps z0 s) (r : JRec) (body : Bool) (commit : Option (BitVec 16)) :
    Keeps z0 (putJournal s r body commit) := by
  unfold putJournal
  try dsimp only
  repeat' first
    | with_reducible assumption
    | with_reducible apply keeps_onMedium
    | split
    | (refine Keeps.of ?_; dsimp only; with_reducible refine Keeps.parts ?_)

theorem keeps_dropStale {z0 s : State} (h : Keeps z0 s) (e : JEntry) :
    Keeps z0 (dropStale s e) := by
  unfold dropStale
  try dsimp only
  repeat' first
    | with_reducible assumption
    | with_reducible apply keeps_dropMove
    | split
    | (refine Keeps.of ?_; dsimp only; with_reducible refine Keeps.parts ?_)

theorem keeps_journalRecordStart {z0 s : State} (h : Keeps z0 s) :
    Keeps z0 (journalRecordStart s) := by
  unfold journalRecordStart
  try dsimp only
  repeat' first
    | with_reducible assumption
    | (with_reducible refine keeps_takePlace ?_ (by with_reducible assumption))
    | with_reducible apply keeps_putJournal
    | with_reducible apply keeps_onMaps
    | with_reducible apply keeps_dropStale
    | with_reducible apply Keeps.foldl
    | with_reducible apply Keeps.foldlPair
    | (intro _; intros; try dsimp only)
    | split
    | (refine Keeps.of ?_; dsimp only; with_reducible refine Keeps.parts ?_)

theorem keeps_execJournalRecordStart {z0 s : State} (h : Keeps z0 s) :
    ∃ t, execJournalRecordStart s = .next t ∧ Keeps z0 t := by
  unfold execJournalRecordStart
  refine ⟨_, rfl, ?_⟩
  try dsimp only
  repeat' first
    | with_reducible assumption
    | with_reducible apply keeps_journalRecordStart
    | split
    | (refine Keeps.of ?_; dsimp only; with_reducible refine Keeps.parts ?_)

theorem keeps_replaceRecord {z0 s out : State} {r r0 : JRec} (h : Keeps z0 s) (hu : replaceRecord s r = some (r0, out)) :
    Keeps z0 out := by
  unfold replaceRecord at hu
  obtain ⟨y, hy, hz⟩ := Option.map_eq_some_iff.mp hu
  simp only [Prod.mk.injEq] at hz
  exact hz.2 ▸ keeps_takePlace (keeps_programFailed h _) hy

theorem keeps_journalBodyVerified {z0 s : State} (h : Keeps z0 s) (pass : Bool) :
    Keeps z0 (journalBodyVerified s pass) := by
  unfold journalBodyVerified
  try dsimp only
  repeat' first
    | with_reducible assumption
    | (with_reducible refine keeps_replaceRecord ?_ (by with_reducible assumption))
    | with_reducible apply keeps_putJournal
    | with_reducible apply keeps_onMaps
    | with_reducible apply keeps_sampleFree
    | with_reducible apply keeps_count
    | split
    | (refine Keeps.of ?_; dsimp only; with_reducible refine Keeps.parts ?_)

theorem keeps_execJournalBodyVerified {z0 s : State} (h : Keeps z0 s) (pass : Bool) :
    ∃ t, execJournalBodyVerified pass s = .next t ∧ Keeps z0 t := by
  unfold execJournalBodyVerified
  refine ⟨_, rfl, ?_⟩
  try dsimp only
  repeat' first
    | with_reducible assumption
    | with_reducible apply keeps_journalBodyVerified
    | split
    | (refine Keeps.of ?_; dsimp only; with_reducible refine Keeps.parts ?_)

theorem keeps_sealLines {z0 s : State} (h : Keeps z0 s) (m : Move) :
    Keeps z0 (sealLines s m) := by
  unfold sealLines
  try dsimp only
  repeat' first
    | with_reducible assumption
    | with_reducible apply keeps_completeThru
    | with_reducible apply keeps_sealRestored
    | with_reducible apply keeps_cleanLine
    | with_reducible apply Keeps.foldl
    | with_reducible apply Keeps.foldlPair
    | (intro _; intros; try dsimp only)
    | split
    | (refine Keeps.of ?_; dsimp only; with_reducible refine Keeps.parts ?_)

theorem keeps_sealKind {z0 s : State} (h : Keeps z0 s) (page : Nat) (m : Move) :
    Keeps z0 (sealKind s page m) := by
  unfold sealKind
  try dsimp only
  repeat' first
    | with_reducible assumption
    | with_reducible apply keeps_updChan
    | with_reducible apply keeps_count
    | with_reducible apply keeps_onMaps
    | split
    | (refine Keeps.of ?_; dsimp only; with_reducible refine Keeps.parts ?_)

theorem keeps_discardPage {z0 s : State} (h : Keeps z0 s) (page : Nat) :
    Keeps z0 (discardPage s page) := by
  unfold discardPage
  try dsimp only
  repeat' first
    | with_reducible assumption
    | with_reducible apply keeps_onCache
    | with_reducible apply keeps_discardLine
    | with_reducible apply Keeps.foldl
    | with_reducible apply Keeps.foldlPair
    | (intro _; intros; try dsimp only)
    | split
    | (refine Keeps.of ?_; dsimp only; with_reducible refine Keeps.parts ?_)

theorem keeps_requeue {z0 s : State} (h : Keeps z0 s) (page : Nat) :
    Keeps z0 (requeue s page) := by
  unfold requeue
  try dsimp only
  repeat' first
    | with_reducible assumption
    | with_reducible apply keeps_queuePage
    | split
    | (refine Keeps.of ?_; dsimp only; with_reducible refine Keeps.parts ?_)

theorem keeps_sealEntry {z0 s : State} (h : Keeps z0 s) (e : JEntry) :
    Keeps z0 (sealEntry s e) := by
  unfold sealEntry
  try dsimp only
  repeat' first
    | with_reducible assumption
    | with_reducible apply keeps_onMaps
    | with_reducible apply keeps_addLive
    | with_reducible apply keeps_requeue
    | with_reducible apply keeps_leavePoisonSet
    | with_reducible apply keeps_sealLines
    | with_reducible apply keeps_sealKind
    | with_reducible apply keeps_freeFrame
    | with_reducible apply keeps_startWaiting
    | split
    | (refine Keeps.of ?_; dsimp only; with_reducible refine Keeps.parts ?_)

theorem keeps_sealRegion {z0 s : State} (h : Keeps z0 s) (idx : Nat) (r : Option Region) :
    Keeps z0 (sealRegion s idx r) := by
  unfold sealRegion
  try dsimp only
  repeat' first
    | with_reducible assumption
    | with_reducible apply keeps_onMaps
    | with_reducible apply keeps_recompute
    | split
    | (refine Keeps.of ?_; dsimp only; with_reducible refine Keeps.parts ?_)

theorem keeps_resumeJournal {z0 s : State} (h : Keeps z0 s) (region : Option Nat) :
    Keeps z0 (resumeJournal s region) := by
  unfold resumeJournal
  try dsimp only
  repeat' first
    | with_reducible assumption
    | with_reducible apply keeps_complete
    | with_reducible apply Keeps.foldl
    | with_reducible apply Keeps.foldlPair
    | (intro _; intros; try dsimp only)
    | split
    | (refine Keeps.of ?_; dsimp only; with_reducible refine Keeps.parts ?_)

theorem keeps_countSeal {z0 s : State} (h : Keeps z0 s) (r : JRec) :
    Keeps z0 (countSeal s r) := by
  unfold countSeal
  try dsimp only
  repeat' first
    | with_reducible assumption
    | with_reducible apply keeps_updChan
    | with_reducible apply keeps_recomputeChan
    | with_reducible apply Keeps.foldl
    | with_reducible apply Keeps.foldlPair
    | (intro _; intros; try dsimp only)
    | split
    | (refine Keeps.of ?_; dsimp only; with_reducible refine Keeps.parts ?_)

theorem keeps_commitRecord {z0 s : State} (h : Keeps z0 s) (r : JRec) :
    Keeps z0 (commitRecord s r) := by
  unfold commitRecord
  try dsimp only
  repeat' first
    | with_reducible assumption
    | with_reducible apply keeps_onMaps
    | with_reducible apply keeps_count
    | with_reducible apply keeps_sampleFree
    | with_reducible apply keeps_putJournal
    | with_reducible apply keeps_sealEntry
    | with_reducible apply keeps_sealRegion
    | with_reducible apply Keeps.foldl
    | with_reducible apply Keeps.foldlPair
    | (intro _; intros; try dsimp only)
    | split
    | (refine Keeps.of ?_; dsimp only; with_reducible refine Keeps.parts ?_)

theorem keeps_sealVerified {z0 s : State} (h : Keeps z0 s) (pass : Bool) :
    Keeps z0 (sealVerified s pass) := by
  unfold sealVerified
  try dsimp only
  repeat' first
    | with_reducible assumption
    | (with_reducible refine keeps_replaceRecord ?_ (by with_reducible assumption))
    | with_reducible apply keeps_putJournal
    | with_reducible apply keeps_onMaps
    | with_reducible apply keeps_settle
    | with_reducible apply keeps_roEnter
    | with_reducible apply keeps_resumeJournal
    | with_reducible apply keeps_countSeal
    | with_reducible apply keeps_commitRecord
    | split
    | (refine Keeps.of ?_; dsimp only; with_reducible refine Keeps.parts ?_)

theorem keeps_execSealVerified {z0 s : State} (h : Keeps z0 s) (pass : Bool) :
    ∃ t, execSealVerified pass s = .next t ∧ Keeps z0 t := by
  unfold execSealVerified
  refine ⟨_, rfl, ?_⟩
  try dsimp only
  repeat' first
    | with_reducible assumption
    | with_reducible apply keeps_sealVerified
    | split
    | (refine Keeps.of ?_; dsimp only; with_reducible refine Keeps.parts ?_)

theorem keeps_checkpointStart {z0 s : State} (h : Keeps z0 s) : Keeps z0 (checkpointStart s) := by
  unfold checkpointStart
  dsimp only
  split
  · split
    · exact h
    · rename_i t ht
      obtain ⟨u, hu, hv⟩ := Option.bind_eq_some_iff.mp ht
      exact keeps_onPers (keeps_writeDirPages (keeps_writeMapPages (keeps_onMaps h _) hu) hv) _
  · exact h

theorem keeps_execCheckpointStart {z0 s : State} (h : Keeps z0 s) :
    ∃ t, execCheckpointStart s = .next t ∧ Keeps z0 t := by
  unfold execCheckpointStart
  refine ⟨_, rfl, ?_⟩
  try dsimp only
  repeat' first
    | with_reducible assumption
    | with_reducible apply keeps_checkpointStart
    | split
    | (refine Keeps.of ?_; dsimp only; with_reducible refine Keeps.parts ?_)

theorem keeps_releaseJournal {z0 s : State} (h : Keeps z0 s) :
    Keeps z0 (releaseJournal s) := by
  unfold releaseJournal
  try dsimp only
  repeat' first
    | with_reducible assumption
    | with_reducible apply keeps_updChan
    | with_reducible apply Keeps.foldl
    | with_reducible apply Keeps.foldlPair
    | (intro _; intros; try dsimp only)
    | split
    | (refine Keeps.of ?_; dsimp only; with_reducible refine Keeps.parts ?_)

theorem keeps_checkpointSealVerified {z0 s : State} (h : Keeps z0 s) :
    Keeps z0 (checkpointSealVerified s) := by
  unfold checkpointSealVerified
  try dsimp only
  repeat' first
    | with_reducible assumption
    | with_reducible apply keeps_sysLive
    | with_reducible apply keeps_onPers
    | with_reducible apply keeps_onMaps
    | with_reducible apply keeps_releaseJournal
    | with_reducible apply keeps_completeD
    | with_reducible apply Keeps.foldl
    | with_reducible apply Keeps.foldlPair
    | (intro _; intros; try dsimp only)
    | split
    | (refine Keeps.of ?_; dsimp only; with_reducible refine Keeps.parts ?_)

theorem keeps_execCheckpointSealVerified {z0 s : State} (h : Keeps z0 s) :
    ∃ t, execCheckpointSealVerified s = .next t ∧ Keeps z0 t := by
  unfold execCheckpointSealVerified
  refine ⟨_, rfl, ?_⟩
  try dsimp only
  repeat' first
    | with_reducible assumption
    | with_reducible apply keeps_checkpointSealVerified
    | split
    | (refine Keeps.of ?_; dsimp only; with_reducible refine Keeps.parts ?_)

theorem keeps_recoverRecords {z0 s : State} (h : Keeps z0 s) (lost : List Nat) :
    Keeps z0 (recoverRecords s lost) := by
  unfold recoverRecords
  try dsimp only
  repeat' first
    | with_reducible assumption
    | with_reducible apply keeps_onMaps
    | with_reducible apply keeps_releaseJournal
    | with_reducible apply keeps_updChan
    | with_reducible apply Keeps.foldl
    | with_reducible apply Keeps.foldlPair
    | (intro _; intros; try dsimp only)
    | split
    | (refine Keeps.of ?_; dsimp only; with_reducible refine Keeps.parts ?_)

theorem keeps_copyLine {z0 s : State} (h : Keeps z0 s) (found : List (Nat × Decoded)) (page ppn : Nat) (j : Nat) :
    Keeps z0 (copyLine found page ppn s j) := by
  unfold copyLine
  try dsimp only
  repeat' first
    | with_reducible assumption
    | with_reducible apply keeps_slotRead
    | (with_reducible refine keeps_slotRead_eq ?_ (by with_reducible assumption))
    | with_reducible apply keeps_noteSlot
    | with_reducible apply keeps_poisonLine
    | split
    | (refine Keeps.of ?_; dsimp only; with_reducible refine Keeps.parts ?_)

theorem keeps_copyPage {z0 s : State} (h : Keeps z0 s) (page : Nat) (k : MoveKind) (mode : Nat) (found : List (Nat × Decoded)) :
    Keeps z0 (copyPage s page k mode found) := by
  unfold copyPage
  try dsimp only
  repeat' first
    | with_reducible assumption
    | with_reducible apply keeps_copyLine
    | with_reducible apply keeps_houseRead
    | with_reducible apply keeps_chargeRegion
    | (with_reducible refine keeps_allocCopy ?_ (by with_reducible assumption))
    | with_reducible apply keeps_onMaps
    | with_reducible apply Keeps.foldl
    | with_reducible apply Keeps.foldlPair
    | (intro _; intros; try dsimp only)
    | split
    | (refine Keeps.of ?_; dsimp only; with_reducible refine Keeps.parts ?_)

theorem keeps_emptyFrame {z0 s : State} (h : Keeps z0 s) (fx : Nat) (k : MoveKind) (found : List (Nat × Decoded)) :
    Keeps z0 (emptyFrame s fx k found) := by
  unfold emptyFrame
  try dsimp only
  repeat' first
    | with_reducible assumption
    | with_reducible apply keeps_moveSys
    | with_reducible apply keeps_copyPage
    | with_reducible apply Keeps.foldl
    | with_reducible apply Keeps.foldlPair
    | (intro _; intros; try dsimp only)
    | split
    | (refine Keeps.of ?_; dsimp only; with_reducible refine Keeps.parts ?_)

theorem keeps_emptyNext {z0 s : State} (h : Keeps z0 s) (fx : Nat) (k : MoveKind) (found : List (Nat × Decoded)) :
    Keeps z0 (emptyNext s fx k found) := by
  unfold emptyNext
  try dsimp only
  repeat' first
    | with_reducible assumption
    | with_reducible apply keeps_copyPage
    | with_reducible apply keeps_moveSys
    | split
    | (refine Keeps.of ?_; dsimp only; with_reducible refine Keeps.parts ?_)

/-! ## Machine/Reclaim.lean -/

theorem keeps_migrationStart {z0 s : State} (h : Keeps z0 s) (page : Nat) (found : List (Nat × Decoded)) :
    Keeps z0 (migrationStart s page found) := by
  unfold migrationStart
  try dsimp only
  repeat' first
    | with_reducible assumption
    | with_reducible apply keeps_copyPage
    | split
    | (refine Keeps.of ?_; dsimp only; with_reducible refine Keeps.parts ?_)

theorem keeps_execMigrationStart {z0 s : State} (h : Keeps z0 s) (page : Nat) (found : List (Nat × Decoded)) :
    ∃ t, execMigrationStart page found s = .next t ∧ Keeps z0 t := by
  unfold execMigrationStart
  refine ⟨_, rfl, ?_⟩
  try dsimp only
  repeat' first
    | with_reducible assumption
    | with_reducible apply keeps_migrationStart
    | split
    | (refine Keeps.of ?_; dsimp only; with_reducible refine Keeps.parts ?_)

theorem keeps_reclaimFrame {z0 s : State} (h : Keeps z0 s) (fx : Nat) (found : List (Nat × Decoded)) :
    Keeps z0 (reclaimFrame s fx found) := by
  unfold reclaimFrame
  try dsimp only
  repeat' first
    | with_reducible assumption
    | with_reducible apply keeps_emptyFrame
    | with_reducible apply keeps_freeFrame
    | split
    | (refine Keeps.of ?_; dsimp only; with_reducible refine Keeps.parts ?_)

theorem keeps_closeOpen {z0 s : State} (h : Keeps z0 s) (fx : Nat) :
    Keeps z0 (closeOpen s fx) := by
  unfold closeOpen
  try dsimp only
  repeat' first
    | with_reducible assumption
    | with_reducible apply keeps_releaseTags
    | with_reducible apply keeps_closeFrame
    | split
    | (refine Keeps.of ?_; dsimp only; with_reducible refine Keeps.parts ?_)

theorem keeps_moveFrame {z0 s : State} (h : Keeps z0 s) (fx : Nat) (found : List (Nat × Decoded)) :
    Keeps z0 (moveFrame s fx found) := by
  unfold moveFrame
  try dsimp only
  repeat' first
    | with_reducible assumption
    | with_reducible apply keeps_emptyFrame
    | with_reducible apply keeps_closeOpen
    | with_reducible apply keeps_freeFrame
    | split
    | (refine Keeps.of ?_; dsimp only; with_reducible refine Keeps.parts ?_)

theorem keeps_staticStep {z0 s : State} (h : Keeps z0 s) (fx : Nat) (found : List (Nat × Decoded)) :
    Keeps z0 (staticStep s fx found) := by
  unfold staticStep
  try dsimp only
  repeat' first
    | with_reducible assumption
    | with_reducible apply keeps_emptyNext
    | with_reducible apply keeps_freeFrame
    | split
    | (refine Keeps.of ?_; dsimp only; with_reducible refine Keeps.parts ?_)

theorem keeps_reclaimStart {z0 s : State} (h : Keeps z0 s) (ch : Nat) (found : List (Nat × Decoded)) :
    Keeps z0 (reclaimStart s ch found) := by
  unfold reclaimStart
  try dsimp only
  repeat' first
    | with_reducible assumption
    | with_reducible apply keeps_reclaimFrame
    | with_reducible apply keeps_roEnter
    | with_reducible apply keeps_sample
    | with_reducible apply keeps_treeUpdate
    | with_reducible apply keeps_putFrame
    | with_reducible apply keeps_updChan
    | with_reducible apply keeps_staticStep
    | with_reducible apply keeps_moveFrame
    | split
    | (refine Keeps.of ?_; dsimp only; with_reducible refine Keeps.parts ?_)

theorem keeps_execReclaimStart {z0 s : State} (h : Keeps z0 s) (ch : Nat) (found : List (Nat × Decoded)) :
    ∃ t, execReclaimStart ch found s = .next t ∧ Keeps z0 t := by
  unfold execReclaimStart
  refine ⟨_, rfl, ?_⟩
  try dsimp only
  repeat' first
    | with_reducible assumption
    | with_reducible apply keeps_reclaimStart
    | split
    | (refine Keeps.of ?_; dsimp only; with_reducible refine Keeps.parts ?_)

theorem keeps_wornOut {z0 s : State} (h : Keeps z0 s) (ch : Nat) :
    Keeps z0 (wornOut s ch) := by
  unfold wornOut
  try dsimp only
  repeat' first
    | with_reducible assumption
    | with_reducible apply keeps_onMedium
    | with_reducible apply Keeps.foldl
    | with_reducible apply Keeps.foldlPair
    | (intro _; intros; try dsimp only)
    | split
    | (refine Keeps.of ?_; dsimp only; with_reducible refine Keeps.parts ?_)

theorem keeps_issueClear {z0 s : State} (h : Keeps z0 s) (ch fx mode : Nat) :
    Keeps z0 (issueClear s ch fx mode) := by
  unfold issueClear
  try dsimp only
  repeat' first
    | with_reducible assumption
    | with_reducible apply keeps_updFrame
    | with_reducible apply keeps_onMedium
    | with_reducible apply keeps_updChan
    | split
    | (refine Keeps.of ?_; dsimp only; with_reducible refine Keeps.parts ?_)

theorem keeps_frameClearStart {z0 s0 : State} (h : Keeps z0 s0) (ch : Nat) :
    Keeps z0 (frameClearStart s0 ch) := by
  unfold frameClearStart
  try dsimp only
  repeat' first
    | with_reducible assumption
    | with_reducible apply keeps_wornOut
    | with_reducible apply keeps_issueClear
    | with_reducible apply keeps_updChan
    | split
    | (refine Keeps.of ?_; dsimp only; with_reducible refine Keeps.parts ?_)

theorem keeps_execFrameClearStart {z0 s : State} (h : Keeps z0 s) (ch : Nat) :
    ∃ t, execFrameClearStart ch s = .next t ∧ Keeps z0 t := by
  unfold execFrameClearStart
  refine ⟨_, rfl, ?_⟩
  try dsimp only
  repeat' first
    | with_reducible assumption
    | with_reducible apply keeps_frameClearStart
    | split
    | (refine Keeps.of ?_; dsimp only; with_reducible refine Keeps.parts ?_)

theorem keeps_staticMove {z0 s : State} (h : Keeps z0 s) (ch : Nat) :
    Keeps z0 (staticMove s ch) := by
  unfold staticMove
  try dsimp only
  repeat' first
    | with_reducible assumption
    | with_reducible apply keeps_updChan
    | with_reducible apply Keeps.foldl
    | with_reducible apply Keeps.foldlPair
    | (intro _; intros; try dsimp only)
    | split
    | (refine Keeps.of ?_; dsimp only; with_reducible refine Keeps.parts ?_)

theorem keeps_treeError {z0 s : State} (h : Keeps z0 s) (ch : Nat) :
    Keeps z0 (treeError s ch) := by
  unfold treeError
  try dsimp only
  repeat' first
    | with_reducible assumption
    | with_reducible apply keeps_record
    | with_reducible apply keeps_updChan
    | split
    | (refine Keeps.of ?_; dsimp only; with_reducible refine Keeps.parts ?_)

theorem keeps_headerClear {z0 s : State} (h : Keeps z0 s) (fx mode stamp : Nat) :
    Keeps z0 (headerClear s fx mode stamp) := by
  unfold headerClear
  try dsimp only
  repeat' first
    | with_reducible assumption
    | with_reducible apply keeps_updFrame
    | with_reducible apply keeps_updChan
    | split
    | (refine Keeps.of ?_; dsimp only; with_reducible refine Keeps.parts ?_)

theorem keeps_afterClear {z0 s : State} (h : Keeps z0 s) (ch fx : Nat) (parityBad : Bool) :
    Keeps z0 (afterClear s ch fx parityBad) := by
  unfold afterClear
  try dsimp only
  repeat' first
    | with_reducible assumption
    | with_reducible apply keeps_count
    | with_reducible apply keeps_sampleFree
    | with_reducible apply keeps_updChan
    | with_reducible apply keeps_treeError
    | with_reducible apply keeps_staticMove
    | with_reducible apply keeps_treeUpdate
    | split
    | (refine Keeps.of ?_; dsimp only; with_reducible refine Keeps.parts ?_)

theorem keeps_clearDone {z0 s : State} (h : Keeps z0 s) (ch : Nat) (pass parityBad : Bool) :
    Keeps z0 (clearDone s ch pass parityBad) := by
  unfold clearDone
  try dsimp only
  repeat' first
    | with_reducible assumption
    | with_reducible apply keeps_headerClear
    | with_reducible apply keeps_updFrame
    | with_reducible apply keeps_updChan
    | with_reducible apply keeps_settle
    | with_reducible apply keeps_roExit
    | with_reducible apply keeps_pumpDies
    | with_reducible apply keeps_afterClear
    | with_reducible apply keeps_issueClear
    | with_reducible apply keeps_retireFrame
    | split
    | (refine Keeps.of ?_; dsimp only; with_reducible refine Keeps.parts ?_)

theorem keeps_execClearDone {z0 s : State} (h : Keeps z0 s) (ch : Nat) (pass parityBad : Bool) :
    ∃ t, execClearDone ch pass parityBad s = .next t ∧ Keeps z0 t := by
  unfold execClearDone
  refine ⟨_, rfl, ?_⟩
  try dsimp only
  repeat' first
    | with_reducible assumption
    | with_reducible apply keeps_clearDone
    | split
    | (refine Keeps.of ?_; dsimp only; with_reducible refine Keeps.parts ?_)

theorem keeps_groupRepair {z0 s : State} (h : Keeps z0 s) (ch : Nat) (badGroups badHeaders : List Nat) :
    Keeps z0 (groupRepair s ch badGroups badHeaders) := by
  unfold groupRepair
  try dsimp only
  repeat' first
    | with_reducible assumption
    | with_reducible apply keeps_updFrame
    | with_reducible apply keeps_updChan
    | with_reducible apply Keeps.foldl
    | with_reducible apply Keeps.foldlPair
    | (intro _; intros; try dsimp only)
    | split
    | (refine Keeps.of ?_; dsimp only; with_reducible refine Keeps.parts ?_)

theorem keeps_treeRebuilt {z0 s : State} (h : Keeps z0 s) (ch : Nat) (parityBad : Bool) (badGroups badHeaders : List Nat) :
    Keeps z0 (treeRebuilt s ch parityBad badGroups badHeaders) := by
  unfold treeRebuilt
  try dsimp only
  repeat' first
    | with_reducible assumption
    | with_reducible apply keeps_treeError
    | with_reducible apply keeps_treeBuild
    | with_reducible apply keeps_groupRepair
    | with_reducible apply keeps_updChan
    | split
    | (refine Keeps.of ?_; dsimp only; with_reducible refine Keeps.parts ?_)

theorem keeps_execTreeRebuilt {z0 s : State} (h : Keeps z0 s) (ch : Nat) (parityBad : Bool) (badGroups badHeaders : List Nat) :
    ∃ t, execTreeRebuilt ch parityBad badGroups badHeaders s = .next t ∧ Keeps z0 t := by
  unfold execTreeRebuilt
  refine ⟨_, rfl, ?_⟩
  try dsimp only
  repeat' first
    | with_reducible assumption
    | with_reducible apply keeps_treeRebuilt
    | split
    | (refine Keeps.of ?_; dsimp only; with_reducible refine Keeps.parts ?_)

theorem keeps_frameRetire {z0 s : State} (h : Keeps z0 s) (fx : Nat) (found : List (Nat × Decoded)) :
    Keeps z0 (frameRetire s fx found) := by
  unfold frameRetire
  try dsimp only
  repeat' first
    | with_reducible assumption
    | with_reducible apply keeps_onMaps
    | with_reducible apply keeps_moveFrame
    | with_reducible apply keeps_retireFrame
    | split
    | (refine Keeps.of ?_; dsimp only; with_reducible refine Keeps.parts ?_)

theorem keeps_execFrameRetire {z0 s : State} (h : Keeps z0 s) (fx : Nat) (found : List (Nat × Decoded)) :
    ∃ t, execFrameRetire fx found s = .next t ∧ Keeps z0 t := by
  unfold execFrameRetire
  refine ⟨_, rfl, ?_⟩
  try dsimp only
  repeat' first
    | with_reducible assumption
    | with_reducible apply keeps_frameRetire
    | split
    | (refine Keeps.of ?_; dsimp only; with_reducible refine Keeps.parts ?_)

theorem keeps_relocationStart {z0 s : State} (h : Keeps z0 s) (ch : Nat) (found : List (Nat × Decoded)) :
    Keeps z0 (relocationStart s ch found) := by
  unfold relocationStart
  try dsimp only
  repeat' first
    | with_reducible assumption
    | with_reducible apply keeps_onMedium
    | with_reducible apply keeps_updChan
    | with_reducible apply keeps_copyPage
    | split
    | (refine Keeps.of ?_; dsimp only; with_reducible refine Keeps.parts ?_)

theorem keeps_execRelocationStart {z0 s : State} (h : Keeps z0 s) (ch : Nat) (found : List (Nat × Decoded)) :
    ∃ t, execRelocationStart ch found s = .next t ∧ Keeps z0 t := by
  unfold execRelocationStart
  refine ⟨_, rfl, ?_⟩
  try dsimp only
  repeat' first
    | with_reducible assumption
    | with_reducible apply keeps_relocationStart
    | split
    | (refine Keeps.of ?_; dsimp only; with_reducible refine Keeps.parts ?_)

theorem keeps_patchFrameMove {z0 s : State} (h : Keeps z0 s) (ch : Nat) (found : List (Nat × Decoded)) :
    Keeps z0 (patchFrameMove s ch found) := by
  unfold patchFrameMove
  try dsimp only
  repeat' first
    | with_reducible assumption
    | with_reducible apply keeps_moveFrame
    | with_reducible apply keeps_updChan
    | split
    | (refine Keeps.of ?_; dsimp only; with_reducible refine Keeps.parts ?_)

theorem keeps_execPatchFrameMove {z0 s : State} (h : Keeps z0 s) (ch : Nat) (found : List (Nat × Decoded)) :
    ∃ t, execPatchFrameMove ch found s = .next t ∧ Keeps z0 t := by
  unfold execPatchFrameMove
  refine ⟨_, rfl, ?_⟩
  try dsimp only
  repeat' first
    | with_reducible assumption
    | with_reducible apply keeps_patchFrameMove
    | split
    | (refine Keeps.of ?_; dsimp only; with_reducible refine Keeps.parts ?_)

theorem keeps_patchRepairCheck {z0 s : State} (h : Keeps z0 s) (ch : Nat) (r : Decoded) (parityBad : Bool) :
    Keeps z0 (patchRepairCheck s ch r parityBad) := by
  unfold patchRepairCheck
  try dsimp only
  repeat' first
    | with_reducible assumption
    | with_reducible apply keeps_retireFrame
    | with_reducible apply keeps_headerClear
    | with_reducible apply keeps_onMedium
    | with_reducible apply keeps_afterClear
    | with_reducible apply keeps_updFrame
    | with_reducible apply keeps_updChan
    | split
    | (refine Keeps.of ?_; dsimp only; with_reducible refine Keeps.parts ?_)

theorem keeps_execPatchRepairCheck {z0 s : State} (h : Keeps z0 s) (ch : Nat) (r : Decoded) (parityBad : Bool) :
    ∃ t, execPatchRepairCheck ch r parityBad s = .next t ∧ Keeps z0 t := by
  unfold execPatchRepairCheck
  refine ⟨_, rfl, ?_⟩
  try dsimp only
  repeat' first
    | with_reducible assumption
    | with_reducible apply keeps_patchRepairCheck
    | split
    | (refine Keeps.of ?_; dsimp only; with_reducible refine Keeps.parts ?_)

theorem keeps_queueTorn {z0 s : State} (h : Keeps z0 s) (ch : Nat) :
    Keeps z0 (queueTorn s ch) := by
  unfold queueTorn
  try dsimp only
  repeat' first
    | with_reducible assumption
    | with_reducible apply keeps_queuePage
    | with_reducible apply Keeps.foldl
    | with_reducible apply Keeps.foldlPair
    | (intro _; intros; try dsimp only)
    | split
    | (refine Keeps.of ?_; dsimp only; with_reducible refine Keeps.parts ?_)

theorem keeps_scrubPassStart {z0 s : State} (h : Keeps z0 s) (ch : Nat) :
    Keeps z0 (scrubPassStart s ch) := by
  unfold scrubPassStart
  try dsimp only
  repeat' first
    | with_reducible assumption
    | with_reducible apply keeps_record
    | with_reducible apply keeps_updChan
    | with_reducible apply keeps_queueTorn
    | split
    | (refine Keeps.of ?_; dsimp only; with_reducible refine Keeps.parts ?_)

theorem keeps_execScrubPassStart {z0 s : State} (h : Keeps z0 s) (ch : Nat) :
    ∃ t, execScrubPassStart ch s = .next t ∧ Keeps z0 t := by
  unfold execScrubPassStart
  refine ⟨_, rfl, ?_⟩
  try dsimp only
  repeat' first
    | with_reducible assumption
    | with_reducible apply keeps_scrubPassStart
    | split
    | (refine Keeps.of ?_; dsimp only; with_reducible refine Keeps.parts ?_)

theorem keeps_frameMove {z0 s : State} (h : Keeps z0 s) (fx : Nat) :
    Keeps z0 (frameMove s fx) := by
  unfold frameMove
  try dsimp only
  repeat' first
    | with_reducible assumption
    | with_reducible apply keeps_updChan
    | split
    | (refine Keeps.of ?_; dsimp only; with_reducible refine Keeps.parts ?_)

theorem keeps_scrubAct {z0 s : State} (h : Keeps z0 s) (line ppn : Nat) (e : SlotEnd) :
    Keeps z0 (scrubAct s line ppn e).1 := by
  unfold scrubAct
  try dsimp only
  repeat' first
    | with_reducible assumption
    | with_reducible apply keeps_noteSlot
    | with_reducible apply keeps_queuePage
    | with_reducible apply keeps_poisonLine
    | split
    | (refine Keeps.of ?_; dsimp only; with_reducible refine Keeps.parts ?_)

theorem keeps_scrubAct_eq {z0 s out : State} {line ppn : Nat} {e : SlotEnd} {res : Bool} (h : Keeps z0 s)
    (hu : scrubAct s line ppn e = (out, res)) : Keeps z0 out := by
  have k := keeps_scrubAct h line ppn e
  rw [hu] at k
  exact k

theorem keeps_visitLine {z0 s : State} (h : Keeps z0 s) (found : List (Nat × Decoded)) (page ppn : Nat) (j : Nat) :
    Keeps z0 (visitLine found page ppn s j) := by
  unfold visitLine
  try dsimp only
  repeat' first
    | with_reducible assumption
    | with_reducible apply keeps_slotRead
    | (with_reducible refine keeps_slotRead_eq ?_ (by with_reducible assumption))
    | with_reducible apply keeps_scrubAct
    | (with_reducible refine keeps_scrubAct_eq ?_ (by with_reducible assumption))
    | split
    | (refine Keeps.of ?_; dsimp only; with_reducible refine Keeps.parts ?_)

theorem keeps_scrubFrame {z0 s : State} (h : Keeps z0 s) (w : ScrubFinds) (fx : Nat) :
    Keeps z0 (scrubFrame w s fx) := by
  unfold scrubFrame
  try dsimp only
  repeat' first
    | with_reducible assumption
    | with_reducible apply keeps_groupRepair
    | with_reducible apply keeps_frameMove
    | split
    | (refine Keeps.of ?_; dsimp only; with_reducible refine Keeps.parts ?_)

theorem keeps_scrubVisit {z0 s : State} (h : Keeps z0 s) (w : ScrubFinds) (fx : Nat) :
    Keeps z0 (scrubVisit w s fx) := by
  unfold scrubVisit
  try dsimp only
  repeat' first
    | with_reducible assumption
    | with_reducible apply keeps_visitLine
    | with_reducible apply keeps_houseRead
    | with_reducible apply keeps_count
    | with_reducible apply keeps_queuePage
    | with_reducible apply keeps_scrubFrame
    | with_reducible apply Keeps.foldl
    | with_reducible apply Keeps.foldlPair
    | (intro _; intros; try dsimp only)
    | split
    | (refine Keeps.of ?_; dsimp only; with_reducible refine Keeps.parts ?_)

theorem keeps_scrubSecond {z0 s : State} (h : Keeps z0 s) (w : ScrubFinds) (ch : Nat) :
    Keeps z0 (scrubSecond w s ch) := by
  unfold scrubSecond
  try dsimp only
  repeat' first
    | with_reducible assumption
    | with_reducible apply keeps_count
    | with_reducible apply keeps_scrubVisit
    | with_reducible apply keeps_updChan
    | with_reducible apply keeps_sample
    | with_reducible apply Keeps.foldl
    | with_reducible apply Keeps.foldlPair
    | (intro _; intros; try dsimp only)
    | split
    | (refine Keeps.of ?_; dsimp only; with_reducible refine Keeps.parts ?_)

theorem keeps_appendStamp {z0 s : State} (h : Keeps z0 s) :
    Keeps z0 (appendStamp s) := by
  unfold appendStamp
  try dsimp only
  repeat' first
    | with_reducible assumption
    | with_reducible apply keeps_onMedium
    | split
    | (refine Keeps.of ?_; dsimp only; with_reducible refine Keeps.parts ?_)

theorem keeps_stampTableAppend {z0 s : State} (h : Keeps z0 s) :
    Keeps z0 (stampTableAppend s) := by
  unfold stampTableAppend
  try dsimp only
  repeat' first
    | with_reducible assumption
    | with_reducible apply keeps_appendStamp
    | split
    | (refine Keeps.of ?_; dsimp only; with_reducible refine Keeps.parts ?_)

theorem keeps_execStampTableAppend {z0 s : State} (h : Keeps z0 s) :
    ∃ t, execStampTableAppend s = .next t ∧ Keeps z0 t := by
  unfold execStampTableAppend
  refine ⟨_, rfl, ?_⟩
  try dsimp only
  repeat' first
    | with_reducible assumption
    | with_reducible apply keeps_stampTableAppend
    | split
    | (refine Keeps.of ?_; dsimp only; with_reducible refine Keeps.parts ?_)

/-! ## Machine/Cipher.lean -/

/-! ## Machine/Move.lean -/

theorem keeps_ldBody {z0 s : State} (h : Keeps z0 s) (e c : Nat) (dram : Dram) (w : SWord) :
    Keeps z0 (ldBody e c dram s w) := by
  unfold ldBody
  try dsimp only
  repeat' first
    | with_reducible assumption
    | with_reducible apply keeps_complete
    | with_reducible apply keeps_completeD
    | with_reducible apply keeps_engAccess
    | with_reducible apply keeps_suspend
    | split
    | (refine Keeps.of ?_; dsimp only; with_reducible refine Keeps.parts ?_)

theorem keeps_execLd {z0 s : State} (h : Keeps z0 s) (e c : Nat) (dram : Dram) :
    ∃ t, execLd e c dram s = .next t ∧ Keeps z0 t := by
  unfold execLd
  refine ⟨_, rfl, ?_⟩
  try dsimp only
  repeat' first
    | with_reducible assumption
    | with_reducible apply keeps_synStep
    | with_reducible apply keeps_ldBody
    | (intro _; intros; try dsimp only)
    | split
    | (refine Keeps.of ?_; dsimp only; with_reducible refine Keeps.parts ?_)

theorem keeps_stBody {z0 s : State} (h : Keeps z0 s) (e c : Nat) (dram : Dram) (w : SWord) :
    Keeps z0 (stBody e c dram s w) := by
  unfold stBody
  try dsimp only
  repeat' first
    | with_reducible assumption
    | with_reducible apply keeps_complete
    | with_reducible apply keeps_bufStore
    | with_reducible apply keeps_engAccess
    | with_reducible apply keeps_suspend
    | split
    | (refine Keeps.of ?_; dsimp only; with_reducible refine Keeps.parts ?_)

theorem keeps_execSt {z0 s : State} (h : Keeps z0 s) (e c : Nat) (dram : Dram) :
    ∃ t, execSt e c dram s = .next t ∧ Keeps z0 t := by
  unfold execSt
  refine ⟨_, rfl, ?_⟩
  try dsimp only
  repeat' first
    | with_reducible assumption
    | with_reducible apply keeps_synStep
    | with_reducible apply keeps_stBody
    | (intro _; intros; try dsimp only)
    | split
    | (refine Keeps.of ?_; dsimp only; with_reducible refine Keeps.parts ?_)

theorem keeps_putXfer {z0 s : State} (h : Keeps z0 s) (e c : Nat) (posted : Bool) (x : Xfer) :
    Keeps z0 (putXfer s e c posted x) := by
  unfold putXfer
  try dsimp only
  repeat' first
    | with_reducible assumption
    | with_reducible apply keeps_updCtx
    | split
    | (refine Keeps.of ?_; dsimp only; with_reducible refine Keeps.parts ?_)

theorem keeps_writeUnit {z0 s : State} (h : Keeps z0 s) (e c : Nat) (posted : Bool) (x : Xfer) (d : Line) (dram : Dram) :
    Keeps z0 (writeUnit s e c posted x d dram) := by
  unfold writeUnit
  try dsimp only
  repeat' first
    | with_reducible assumption
    | with_reducible apply keeps_engAccess
    | with_reducible apply keeps_putXfer
    | with_reducible apply keeps_bufStore
    | (with_reducible refine keeps_takeTokens ?_ (by with_reducible assumption))
    | with_reducible apply keeps_updCtx
    | split
    | (refine Keeps.of ?_; dsimp only; with_reducible refine Keeps.parts ?_)

theorem keeps_startUnit {z0 s : State} (h : Keeps z0 s) (e c : Nat) (posted : Bool) (x : Xfer) (dram : Dram) :
    Keeps z0 (startUnit s e c posted x dram) := by
  unfold startUnit
  try dsimp only
  repeat' first
    | with_reducible assumption
    | with_reducible apply keeps_engAccess
    | with_reducible apply keeps_putXfer
    | with_reducible apply keeps_writeUnit
    | split
    | (refine Keeps.of ?_; dsimp only; with_reducible refine Keeps.parts ?_)

theorem keeps_stepXfer {z0 s : State} (h : Keeps z0 s) (e c : Nat) (posted : Bool) (x : Xfer) (dram : Dram) :
    Keeps z0 (stepXfer s e c posted x dram).1 := by
  unfold stepXfer
  try dsimp only
  repeat' first
    | with_reducible assumption
    | with_reducible apply keeps_startUnit
    | with_reducible apply keeps_writeUnit
    | split
    | (refine Keeps.of ?_; dsimp only; with_reducible refine Keeps.parts ?_)

theorem keeps_stepXfer_eq {z0 s out : State} {e c : Nat} {posted : Bool} {x : Xfer} {dram : Dram} {res : Option (Nat × Nat)} (h : Keeps z0 s)
    (hu : stepXfer s e c posted x dram = (out, res)) : Keeps z0 out := by
  have k := keeps_stepXfer h e c posted x dram
  rw [hu] at k
  exact k

theorem keeps_issueXfer {z0 s : State} (h : Keeps z0 s) (e c : Nat) (post : Bool) (x : Xfer) (dram : Dram) :
    Keeps z0 (issueXfer s e c post x dram) := by
  unfold issueXfer
  try dsimp only
  repeat' first
    | with_reducible assumption
    | with_reducible apply keeps_startUnit
    | with_reducible apply keeps_count
    | with_reducible apply keeps_suspend
    | with_reducible apply keeps_updCtx
    | with_reducible apply keeps_complete
    | split
    | (refine Keeps.of ?_; dsimp only; with_reducible refine Keeps.parts ?_)

theorem keeps_moveBody {z0 s : State} (h : Keeps z0 s) (e c : Nat) (dram : Dram) (w : SWord) :
    Keeps z0 (moveBody e c dram s w) := by
  unfold moveBody
  try dsimp only
  repeat' first
    | with_reducible assumption
    | with_reducible apply keeps_complete
    | with_reducible apply keeps_issueXfer
    | split
    | (refine Keeps.of ?_; dsimp only; with_reducible refine Keeps.parts ?_)

theorem keeps_execMove {z0 s : State} (h : Keeps z0 s) (e c : Nat) (dram : Dram) :
    ∃ t, execMove e c dram s = .next t ∧ Keeps z0 t := by
  unfold execMove
  refine ⟨_, rfl, ?_⟩
  try dsimp only
  repeat' first
    | with_reducible assumption
    | with_reducible apply keeps_synStep
    | with_reducible apply keeps_moveBody
    | (intro _; intros; try dsimp only)
    | split
    | (refine Keeps.of ?_; dsimp only; with_reducible refine Keeps.parts ?_)

theorem keeps_copyBody {z0 s : State} (h : Keeps z0 s) (e c : Nat) (dram : Dram) (w : SWord) :
    Keeps z0 (copyBody e c dram s w) := by
  unfold copyBody
  try dsimp only
  repeat' first
    | with_reducible assumption
    | with_reducible apply keeps_complete
    | with_reducible apply keeps_issueXfer
    | split
    | (refine Keeps.of ?_; dsimp only; with_reducible refine Keeps.parts ?_)

theorem keeps_execCopy {z0 s : State} (h : Keeps z0 s) (e c : Nat) (dram : Dram) :
    ∃ t, execCopy e c dram s = .next t ∧ Keeps z0 t := by
  unfold execCopy
  refine ⟨_, rfl, ?_⟩
  try dsimp only
  repeat' first
    | with_reducible assumption
    | with_reducible apply keeps_synStep
    | with_reducible apply keeps_copyBody
    | (intro _; intros; try dsimp only)
    | split
    | (refine Keeps.of ?_; dsimp only; with_reducible refine Keeps.parts ?_)

theorem keeps_fillBody {z0 s : State} (h : Keeps z0 s) (e c : Nat) (dram : Dram) (w : SWord) :
    Keeps z0 (fillBody e c dram s w) := by
  unfold fillBody
  try dsimp only
  repeat' first
    | with_reducible assumption
    | with_reducible apply keeps_complete
    | with_reducible apply keeps_issueXfer
    | split
    | (refine Keeps.of ?_; dsimp only; with_reducible refine Keeps.parts ?_)

theorem keeps_execFill {z0 s : State} (h : Keeps z0 s) (e c : Nat) (dram : Dram) :
    ∃ t, execFill e c dram s = .next t ∧ Keeps z0 t := by
  unfold execFill
  refine ⟨_, rfl, ?_⟩
  try dsimp only
  repeat' first
    | with_reducible assumption
    | with_reducible apply keeps_synStep
    | with_reducible apply keeps_fillBody
    | (intro _; intros; try dsimp only)
    | split
    | (refine Keeps.of ?_; dsimp only; with_reducible refine Keeps.parts ?_)

theorem keeps_finishFence {z0 s : State} (h : Keeps z0 s) (e c : Nat) :
    Keeps z0 (finishFence s e c) := by
  unfold finishFence
  try dsimp only
  repeat' first
    | with_reducible assumption
    | with_reducible apply keeps_updCtx
    | with_reducible apply keeps_complete
    | with_reducible apply keeps_completeD
    | split
    | (refine Keeps.of ?_; dsimp only; with_reducible refine Keeps.parts ?_)

theorem keeps_fenceBody {z0 s : State} (h : Keeps z0 s) (e c : Nat) (u2 : SWord) :
    Keeps z0 (fenceBody e c s u2) := by
  unfold fenceBody
  try dsimp only
  repeat' first
    | with_reducible assumption
    | with_reducible apply keeps_finishFence
    | with_reducible apply keeps_suspend
    | split
    | (refine Keeps.of ?_; dsimp only; with_reducible refine Keeps.parts ?_)

theorem keeps_execFence {z0 s : State} (h : Keeps z0 s) (e c : Nat) :
    ∃ t, execFence e c s = .next t ∧ Keeps z0 t := by
  unfold execFence
  refine ⟨_, rfl, ?_⟩
  try dsimp only
  repeat' first
    | with_reducible assumption
    | with_reducible apply keeps_synStep
    | with_reducible apply keeps_fenceBody
    | (intro _; intros; try dsimp only)
    | split
    | (refine Keeps.of ?_; dsimp only; with_reducible refine Keeps.parts ?_)

theorem keeps_popPosted {z0 s : State} (h : Keeps z0 s) (e c code addr : Nat) (dram : Dram) :
    Keeps z0 (popPosted s e c code addr dram) := by
  unfold popPosted
  try dsimp only
  repeat' first
    | with_reducible assumption
    | with_reducible apply keeps_updCtx
    | with_reducible apply keeps_startUnit
    | with_reducible apply keeps_finishFence
    | with_reducible apply keeps_endTask
    | split
    | (refine Keeps.of ?_; dsimp only; with_reducible refine Keeps.parts ?_)

theorem keeps_postedUnitDone {z0 s : State} (h : Keeps z0 s) (e c : Nat) (dram : Dram) :
    Keeps z0 (postedUnitDone s e c dram) := by
  unfold postedUnitDone
  try dsimp only
  repeat' first
    | with_reducible assumption
    | with_reducible apply keeps_stepXfer
    | (with_reducible refine keeps_stepXfer_eq ?_ (by with_reducible assumption))
    | with_reducible apply keeps_popPosted
    | split
    | (refine Keeps.of ?_; dsimp only; with_reducible refine Keeps.parts ?_)

theorem keeps_execPostedUnitDone {z0 s : State} (h : Keeps z0 s) (e c : Nat) (dram : Dram) :
    ∃ t, execPostedUnitDone e c dram s = .next t ∧ Keeps z0 t := by
  unfold execPostedUnitDone
  refine ⟨_, rfl, ?_⟩
  try dsimp only
  repeat' first
    | with_reducible assumption
    | with_reducible apply keeps_postedUnitDone
    | split
    | (refine Keeps.of ?_; dsimp only; with_reducible refine Keeps.parts ?_)

theorem keeps_cipherFault {z0 s : State} (h : Keeps z0 s) (pipe : Nat) :
    Keeps z0 (cipherFault s pipe) := by
  unfold cipherFault
  try dsimp only
  repeat' first
    | with_reducible assumption
    | with_reducible apply keeps_record
    | split
    | (refine Keeps.of ?_; dsimp only; with_reducible refine Keeps.parts ?_)

theorem keeps_flushFault {z0 s : State} (h : Keeps z0 s) :
    Keeps z0 (flushFault s) := by
  unfold flushFault
  try dsimp only
  repeat' first
    | with_reducible assumption
    | with_reducible apply keeps_record
    | split
    | (refine Keeps.of ?_; dsimp only; with_reducible refine Keeps.parts ?_)

theorem keeps_pageFault {z0 s : State} (h : Keeps z0 s) (page pipe : Nat) :
    Keeps z0 (pageFault s page pipe) := by
  unfold pageFault
  try dsimp only
  repeat' first
    | with_reducible assumption
    | with_reducible apply keeps_cipherFault
    | with_reducible apply keeps_onMaps
    | with_reducible apply keeps_dropMove
    | with_reducible apply keeps_onCache
    | with_reducible apply keeps_settle
    | with_reducible apply keeps_deliver
    | with_reducible apply Keeps.foldl
    | with_reducible apply Keeps.foldlPair
    | (intro _; intros; try dsimp only)
    | split
    | (refine Keeps.of ?_; dsimp only; with_reducible refine Keeps.parts ?_)

theorem keeps_xtsCharge {z0 s : State} (h : Keeps z0 s) (k master label len done : Nat) :
    Keeps z0 (xtsCharge k s master label len done).1 := by
  induction k generalizing s done with
  | zero => exact h
  | succ k ih =>
    unfold xtsCharge
    split
    · exact h
    · split
      · exact h
      · rename_i t ht
        exact ih (keeps_takeTokens h ht) _

theorem keeps_xtsRun {z0 s : State} (h : Keeps z0 s) (e c dst src len done : Nat) :
    Keeps z0 (xtsRun s e c dst src len done) := by
  unfold xtsRun
  try dsimp only
  repeat' first
    | with_reducible assumption
    | with_reducible apply keeps_xtsCharge
    | with_reducible apply keeps_updCtx
    | with_reducible apply keeps_complete
    | with_reducible apply keeps_count
    | with_reducible apply keeps_bufStore
    | split
    | (refine Keeps.of ?_; dsimp only; with_reducible refine Keeps.parts ?_)

theorem keeps_xtsCut {z0 s : State} (h : Keeps z0 s) (e c d b n : Nat) (w : SWord) :
    Keeps z0 (xtsCut s e c d b n w) := by
  unfold xtsCut
  try dsimp only
  repeat' first
    | with_reducible assumption
    | with_reducible apply keeps_complete
    | with_reducible apply keeps_burn
    | with_reducible apply keeps_bufStore
    | split
    | (refine Keeps.of ?_; dsimp only; with_reducible refine Keeps.parts ?_)

theorem keeps_xtsEncBody {z0 s : State} (h : Keeps z0 s) (e c : Nat) (faults : List Nat) (w : SWord) :
    Keeps z0 (xtsEncBody e c faults s w) := by
  unfold xtsEncBody
  try dsimp only
  repeat' first
    | with_reducible assumption
    | with_reducible apply keeps_complete
    | with_reducible apply keeps_cipherFault
    | with_reducible apply keeps_xtsCut
    | with_reducible apply keeps_xtsRun
    | with_reducible apply keeps_count
    | with_reducible apply keeps_suspend
    | with_reducible apply Keeps.foldl
    | with_reducible apply Keeps.foldlPair
    | (intro _; intros; try dsimp only)
    | split
    | (refine Keeps.of ?_; dsimp only; with_reducible refine Keeps.parts ?_)

theorem keeps_execXtsEnc {z0 s : State} (h : Keeps z0 s) (e c : Nat) (faults : List Nat) :
    ∃ t, execXtsEnc e c faults s = .next t ∧ Keeps z0 t := by
  unfold execXtsEnc
  refine ⟨_, rfl, ?_⟩
  try dsimp only
  repeat' first
    | with_reducible assumption
    | with_reducible apply keeps_synStep
    | with_reducible apply keeps_xtsEncBody
    | (intro _; intros; try dsimp only)
    | split
    | (refine Keeps.of ?_; dsimp only; with_reducible refine Keeps.parts ?_)

theorem keeps_xtsDecBody {z0 s : State} (h : Keeps z0 s) (e c : Nat) (w : SWord) :
    Keeps z0 (xtsDecBody e c s w) := by
  unfold xtsDecBody
  try dsimp only
  repeat' first
    | with_reducible assumption
    | with_reducible apply keeps_complete
    | with_reducible apply keeps_xtsRun
    | with_reducible apply keeps_count
    | with_reducible apply keeps_suspend
    | split
    | (refine Keeps.of ?_; dsimp only; with_reducible refine Keeps.parts ?_)

theorem keeps_execXtsDec {z0 s : State} (h : Keeps z0 s) (e c : Nat) :
    ∃ t, execXtsDec e c s = .next t ∧ Keeps z0 t := by
  unfold execXtsDec
  refine ⟨_, rfl, ?_⟩
  try dsimp only
  repeat' first
    | with_reducible assumption
    | with_reducible apply keeps_synStep
    | with_reducible apply keeps_xtsDecBody
    | (intro _; intros; try dsimp only)
    | split
    | (refine Keeps.of ?_; dsimp only; with_reducible refine Keeps.parts ?_)

theorem keeps_zeroNext {z0 s : State} (h : Keeps z0 s) (e c lo next hi : Nat) (dram : Dram) :
    Keeps z0 (zeroNext s e c lo next hi dram) := by
  unfold zeroNext
  try dsimp only
  repeat' first
    | with_reducible assumption
    | with_reducible apply keeps_complete
    | with_reducible apply keeps_engAccess
    | with_reducible apply keeps_updCtx
    | split
    | (refine Keeps.of ?_; dsimp only; with_reducible refine Keeps.parts ?_)

theorem keeps_finishXfer {z0 s : State} (h : Keeps z0 s) (e c : Nat) (x : Xfer) (code : Nat) :
    Keeps z0 (finishXfer s e c x code) := by
  unfold finishXfer
  try dsimp only
  repeat' first
    | with_reducible assumption
    | with_reducible apply keeps_complete
    | with_reducible apply keeps_updCtx
    | split
    | (refine Keeps.of ?_; dsimp only; with_reducible refine Keeps.parts ?_)

theorem keeps_ctxReport {z0 s : State} (h : Keeps z0 s) (e c : Nat) (dram : Dram) :
    Keeps z0 (ctxReport s e c dram) := by
  unfold ctxReport
  try dsimp only
  repeat' first
    | with_reducible assumption
    | with_reducible apply keeps_stepXfer
    | (with_reducible refine keeps_stepXfer_eq ?_ (by with_reducible assumption))
    | with_reducible apply keeps_finishXfer
    | with_reducible apply keeps_zeroNext
    | with_reducible apply keeps_complete
    | with_reducible apply keeps_xtsRun
    | split
    | (refine Keeps.of ?_; dsimp only; with_reducible refine Keeps.parts ?_)

theorem keeps_muleReport {z0 s : State} (h : Keeps z0 s) (m : Mule) (fault : Option Nat) (dram : Dram) :
    Keeps z0 (muleReport s m fault dram) := by
  unfold muleReport
  try dsimp only
  repeat' first
    | with_reducible assumption
    | with_reducible apply keeps_ctxReport
    | with_reducible apply keeps_cipherFault
    | with_reducible apply keeps_xtsCut
    | with_reducible apply keeps_updCtx
    | with_reducible apply keeps_pageFault
    | with_reducible apply keeps_flushFault
    | split
    | (refine Keeps.of ?_; dsimp only; with_reducible refine Keeps.parts ?_)

theorem keeps_execMuleReport {z0 s : State} (h : Keeps z0 s) (m : Mule) (fault : Option Nat) (dram : Dram) :
    ∃ t, execMuleReport m fault dram s = .next t ∧ Keeps z0 t := by
  unfold execMuleReport
  refine ⟨_, rfl, ?_⟩
  try dsimp only
  repeat' first
    | with_reducible assumption
    | with_reducible apply keeps_muleReport
    | split
    | (refine Keeps.of ?_; dsimp only; with_reducible refine Keeps.parts ?_)

end Sys2Proof.Laws
end

