-- ==== Sys2Proof/Laws/KeepsQueues.lean ====
section
/-! SUPPORT. What ledger, arbiters, streams, queues, regions and map keep (see Laws/Keeps.lean): one lemma per operation. -/

namespace Sys2Proof.Laws

open Sys2Proof Sys2Proof.Machine

/-! ## Machine/Ledger.lean -/

theorem keeps_updSlots {z0 s : State} (h : Keeps z0 s) (ch : Nat) (f : Slots → Slots) :
    Keeps z0 (State.updSlots s ch f) := by
  unfold State.updSlots
  try dsimp only
  repeat' first
    | with_reducible assumption
    | split
    | (refine Keeps.of ?_; dsimp only; with_reducible refine Keeps.parts ?_)

theorem keeps_hs6Swap {z0 s : State} (h : Keeps z0 s) (chans : List Nat) :
    Keeps z0 (hs6Swap s chans) := by
  unfold hs6Swap
  try dsimp only
  repeat' first
    | with_reducible assumption
    | with_reducible apply keeps_updSlots
    | with_reducible apply Keeps.foldl
    | with_reducible apply Keeps.foldlPair
    | (intro _; intros; try dsimp only)
    | split
    | (refine Keeps.of ?_; dsimp only; with_reducible refine Keeps.parts ?_)

theorem keeps_removeCommit {z0 s : State} (h : Keeps z0 s) (n : Nat) :
    Keeps z0 (removeCommit s n) := by
  unfold removeCommit
  try dsimp only
  repeat' first
    | with_reducible assumption
    | split
    | (refine Keeps.of ?_; dsimp only; with_reducible refine Keeps.parts ?_)

theorem keeps_addCommit {z0 s out : State} {num : Nat} {k : Commit} (h : Keeps z0 s) (hu : addCommit s k = some (num, out)) :
    Keeps z0 out := by
  unfold addCommit at hu
  generalize (List.range 1024).find? (fun n => !Tbl.has s.regul.commits n) = x at hu
  cases x with
  | none => exact absurd hu (by simp)
  | some n =>
    simp only [Option.some.injEq, Prod.mk.injEq] at hu
    exact hu.2 ▸ h

theorem keeps_dropCommit {z0 s : State} (h : Keeps z0 s) (n : Nat) :
    Keeps z0 (dropCommit s n).1 := by
  unfold dropCommit
  try dsimp only
  repeat' first
    | with_reducible assumption
    | with_reducible apply keeps_hs6Swap
    | with_reducible apply keeps_removeCommit
    | split
    | (refine Keeps.of ?_; dsimp only; with_reducible refine Keeps.parts ?_)

theorem keeps_dropCommit_eq {z0 s out : State} {n : Nat} {res : List Nat} (h : Keeps z0 s)
    (hu : dropCommit s n = (out, res)) : Keeps z0 out := by
  have k := keeps_dropCommit h n
  rw [hu] at k
  exact k

theorem keeps_revoke {z0 s : State} (h : Keeps z0 s) (l : List Nat) (apart : Option Nat) :
    Keeps z0 (revoke s l apart) := by
  unfold revoke
  try dsimp only
  repeat' first
    | with_reducible assumption
    | with_reducible apply keeps_removeCommit
    | with_reducible apply keeps_irq
    | with_reducible apply keeps_hs6Swap
    | with_reducible apply keeps_notifyCommit
    | with_reducible apply Keeps.foldl
    | with_reducible apply Keeps.foldlPair
    | (intro _; intros; try dsimp only)
    | split
    | (refine Keeps.of ?_; dsimp only; with_reducible refine Keeps.parts ?_)

theorem keeps_revalidate {z0 s : State} (h : Keeps z0 s) :
    Keeps z0 (revalidate s) := by
  unfold revalidate
  try dsimp only
  repeat' first
    | with_reducible assumption
    | with_reducible apply keeps_revoke
    | with_reducible apply keeps_hs6Swap
    | split
    | (refine Keeps.of ?_; dsimp only; with_reducible refine Keeps.parts ?_)

theorem keeps_ledgerRevalidate {z0 s : State} (h : Keeps z0 s) :
    Keeps z0 (ledgerRevalidate s) := by
  unfold ledgerRevalidate
  try dsimp only
  repeat' first
    | with_reducible assumption
    | with_reducible apply keeps_revalidate
    | split
    | (refine Keeps.of ?_; dsimp only; with_reducible refine Keeps.parts ?_)

theorem keeps_execLedgerRevalidate {z0 s : State} (h : Keeps z0 s) :
    ∃ t, execLedgerRevalidate s = .next t ∧ Keeps z0 t := by
  unfold execLedgerRevalidate
  refine ⟨_, rfl, ?_⟩
  try dsimp only
  repeat' first
    | with_reducible assumption
    | with_reducible apply keeps_ledgerRevalidate
    | split
    | (refine Keeps.of ?_; dsimp only; with_reducible refine Keeps.parts ?_)

theorem keeps_endSwap {z0 s : State} (h : Keeps z0 s) (e c : Nat) (d : Option Nat) :
    Keeps z0 (endSwap s e c d) := by
  unfold endSwap
  try dsimp only
  repeat' first
    | with_reducible assumption
    | with_reducible apply keeps_complete
    | with_reducible apply keeps_completeD
    | split
    | (refine Keeps.of ?_; dsimp only; with_reducible refine Keeps.parts ?_)

theorem keeps_waitSwap {z0 s : State} (h : Keeps z0 s) (e c : Nat) (chans : List Nat) (d : Option Nat) :
    Keeps z0 (waitSwap s e c chans d) := by
  unfold waitSwap
  try dsimp only
  repeat' first
    | with_reducible assumption
    | with_reducible apply keeps_endSwap
    | with_reducible apply keeps_suspend
    | split
    | (refine Keeps.of ?_; dsimp only; with_reducible refine Keeps.parts ?_)

theorem keeps_swapSeen {z0 s : State} (h : Keeps z0 s) (ch : Nat) :
    Keeps z0 (swapSeen s ch) := by
  unfold swapSeen
  try dsimp only
  repeat' first
    | with_reducible assumption
    | with_reducible apply keeps_waitSwap
    | with_reducible apply Keeps.foldl
    | with_reducible apply Keeps.foldlPair
    | (intro _; intros; try dsimp only)
    | split
    | (refine Keeps.of ?_; dsimp only; with_reducible refine Keeps.parts ?_)

theorem keeps_slotEntryElapse {z0 s : State} (h : Keeps z0 s) (ch : Nat) :
    Keeps z0 (slotEntryElapse s ch) := by
  unfold slotEntryElapse
  try dsimp only
  repeat' first
    | with_reducible assumption
    | with_reducible apply keeps_updSlots
    | with_reducible apply keeps_swapSeen
    | with_reducible apply keeps_revoke
    | split
    | (refine Keeps.of ?_; dsimp only; with_reducible refine Keeps.parts ?_)

theorem keeps_execSlotEntryElapse {z0 s : State} (h : Keeps z0 s) (ch : Nat) :
    ∃ t, execSlotEntryElapse ch s = .next t ∧ Keeps z0 t := by
  unfold execSlotEntryElapse
  refine ⟨_, rfl, ?_⟩
  try dsimp only
  repeat' first
    | with_reducible assumption
    | with_reducible apply keeps_slotEntryElapse
    | split
    | (refine Keeps.of ?_; dsimp only; with_reducible refine Keeps.parts ?_)

theorem keeps_tryAdmit {z0 s out : State} {n : Nat} {l : List Nat} {k : Commit} (h : Keeps z0 s)
    (hu : tryAdmit s k = .inr (n, l, out)) : Keeps z0 out := by
  unfold tryAdmit at hu
  dsimp only at hu
  split at hu
  · exact absurd hu (by simp)
  · split at hu
    · exact absurd hu (by simp)
    · rename_i hc
      split at hu
      · exact absurd hu (by simp)
      · simp only [Sum.inr.injEq, Prod.mk.injEq] at hu
        exact hu.2.2 ▸ keeps_hs6Swap (keeps_addCommit h hc) _

theorem keeps_refuseAdmit {z0 s : State} (h : Keeps z0 s) (e c : Nat) (d : BitVec 5) (st detail : Nat) :
    Keeps z0 (refuseAdmit s e c d st detail) := by
  unfold refuseAdmit
  try dsimp only
  repeat' first
    | with_reducible assumption
    | with_reducible apply keeps_completeD
    | with_reducible apply keeps_complete
    | split
    | (refine Keeps.of ?_; dsimp only; with_reducible refine Keeps.parts ?_)

theorem keeps_ledgAdmitBody {z0 s : State} (h : Keeps z0 s) (e c : Nat) (w : SWord) :
    Keeps z0 (ledgAdmitBody e c s w) := by
  unfold ledgAdmitBody
  try dsimp only
  repeat' first
    | with_reducible assumption
    | with_reducible apply keeps_complete
    | (with_reducible refine keeps_tryAdmit ?_ (by with_reducible assumption))
    | with_reducible apply keeps_refuseAdmit
    | with_reducible apply keeps_waitSwap
    | split
    | (refine Keeps.of ?_; dsimp only; with_reducible refine Keeps.parts ?_)

theorem keeps_execLedgAdmit {z0 s : State} (h : Keeps z0 s) (e c : Nat) :
    ∃ t, execLedgAdmit e c s = .next t ∧ Keeps z0 t := by
  unfold execLedgAdmit
  refine ⟨_, rfl, ?_⟩
  try dsimp only
  repeat' first
    | with_reducible assumption
    | with_reducible apply keeps_synStep
    | with_reducible apply keeps_ledgAdmitBody
    | (intro _; intros; try dsimp only)
    | split
    | (refine Keeps.of ?_; dsimp only; with_reducible refine Keeps.parts ?_)

theorem keeps_ledgDropBody {z0 s : State} (h : Keeps z0 s) (e c : Nat) (w : SWord) :
    Keeps z0 (ledgDropBody e c s w) := by
  unfold ledgDropBody
  try dsimp only
  repeat' first
    | with_reducible assumption
    | with_reducible apply keeps_complete
    | with_reducible apply keeps_dropCommit
    | (with_reducible refine keeps_dropCommit_eq ?_ (by with_reducible assumption))
    | with_reducible apply keeps_waitSwap
    | split
    | (refine Keeps.of ?_; dsimp only; with_reducible refine Keeps.parts ?_)

theorem keeps_execLedgDrop {z0 s : State} (h : Keeps z0 s) (e c : Nat) :
    ∃ t, execLedgDrop e c s = .next t ∧ Keeps z0 t := by
  unfold execLedgDrop
  refine ⟨_, rfl, ?_⟩
  try dsimp only
  repeat' first
    | with_reducible assumption
    | with_reducible apply keeps_synStep
    | with_reducible apply keeps_ledgDropBody
    | (intro _; intros; try dsimp only)
    | split
    | (refine Keeps.of ?_; dsimp only; with_reducible refine Keeps.parts ?_)

theorem keeps_ledgQueryBody {z0 s : State} (h : Keeps z0 s) (e c : Nat) (w : SWord) :
    Keeps z0 (ledgQueryBody e c s w) := by
  unfold ledgQueryBody
  try dsimp only
  repeat' first
    | with_reducible assumption
    | with_reducible apply keeps_complete
    | with_reducible apply keeps_bufStore
    | split
    | (refine Keeps.of ?_; dsimp only; with_reducible refine Keeps.parts ?_)

theorem keeps_execLedgQuery {z0 s : State} (h : Keeps z0 s) (e c : Nat) :
    ∃ t, execLedgQuery e c s = .next t ∧ Keeps z0 t := by
  unfold execLedgQuery
  refine ⟨_, rfl, ?_⟩
  try dsimp only
  repeat' first
    | with_reducible assumption
    | with_reducible apply keeps_synStep
    | with_reducible apply keeps_ledgQueryBody
    | (intro _; intros; try dsimp only)
    | split
    | (refine Keeps.of ?_; dsimp only; with_reducible refine Keeps.parts ?_)

theorem keeps_slotLoadBody {z0 s : State} (h : Keeps z0 s) (e c : Nat) (w : SWord) :
    Keeps z0 (slotLoadBody e c s w) := by
  unfold slotLoadBody
  try dsimp only
  repeat' first
    | with_reducible assumption
    | with_reducible apply keeps_complete
    | with_reducible apply keeps_updSlots
    | split
    | (refine Keeps.of ?_; dsimp only; with_reducible refine Keeps.parts ?_)

theorem keeps_execSlotLoad {z0 s : State} (h : Keeps z0 s) (e c : Nat) :
    ∃ t, execSlotLoad e c s = .next t ∧ Keeps z0 t := by
  unfold execSlotLoad
  refine ⟨_, rfl, ?_⟩
  try dsimp only
  repeat' first
    | with_reducible assumption
    | with_reducible apply keeps_synStep
    | with_reducible apply keeps_slotLoadBody
    | (intro _; intros; try dsimp only)
    | split
    | (refine Keeps.of ?_; dsimp only; with_reducible refine Keeps.parts ?_)

theorem keeps_slotSwapBody {z0 s : State} (h : Keeps z0 s) (e c : Nat) (w : SWord) :
    Keeps z0 (slotSwapBody e c s w) := by
  unfold slotSwapBody
  try dsimp only
  repeat' first
    | with_reducible assumption
    | with_reducible apply keeps_complete
    | with_reducible apply keeps_suspend
    | with_reducible apply keeps_updSlots
    | split
    | (refine Keeps.of ?_; dsimp only; with_reducible refine Keeps.parts ?_)

theorem keeps_execSlotSwap {z0 s : State} (h : Keeps z0 s) (e c : Nat) :
    ∃ t, execSlotSwap e c s = .next t ∧ Keeps z0 t := by
  unfold execSlotSwap
  refine ⟨_, rfl, ?_⟩
  try dsimp only
  repeat' first
    | with_reducible assumption
    | with_reducible apply keeps_synStep
    | with_reducible apply keeps_slotSwapBody
    | (intro _; intros; try dsimp only)
    | split
    | (refine Keeps.of ?_; dsimp only; with_reducible refine Keeps.parts ?_)

theorem keeps_scrubRateBody {z0 s : State} (h : Keeps z0 s) (e c : Nat) (w : SWord) :
    Keeps z0 (scrubRateBody e c s w) := by
  unfold scrubRateBody
  try dsimp only
  repeat' first
    | with_reducible assumption
    | with_reducible apply keeps_complete
    | with_reducible apply keeps_onMedium
    | with_reducible apply keeps_hs6Swap
    | split
    | (refine Keeps.of ?_; dsimp only; with_reducible refine Keeps.parts ?_)

theorem keeps_execScrubRate {z0 s : State} (h : Keeps z0 s) (e c : Nat) :
    ∃ t, execScrubRate e c s = .next t ∧ Keeps z0 t := by
  unfold execScrubRate
  refine ⟨_, rfl, ?_⟩
  try dsimp only
  repeat' first
    | with_reducible assumption
    | with_reducible apply keeps_synStep
    | with_reducible apply keeps_scrubRateBody
    | (intro _; intros; try dsimp only)
    | split
    | (refine Keeps.of ?_; dsimp only; with_reducible refine Keeps.parts ?_)

/-! ## Machine/Arbiter.lean -/

theorem keeps_lblSetBody {z0 s : State} (h : Keeps z0 s) (e c : Nat) (w : SWord) :
    Keeps z0 (lblSetBody e c s w) := by
  unfold lblSetBody
  try dsimp only
  repeat' first
    | with_reducible assumption
    | with_reducible apply keeps_complete
    | with_reducible apply keeps_updSess
    | with_reducible apply keeps_updQueue
    | split
    | (refine Keeps.of ?_; dsimp only; with_reducible refine Keeps.parts ?_)

theorem keeps_execLblSet {z0 s : State} (h : Keeps z0 s) (e c : Nat) :
    ∃ t, execLblSet e c s = .next t ∧ Keeps z0 t := by
  unfold execLblSet
  refine ⟨_, rfl, ?_⟩
  try dsimp only
  repeat' first
    | with_reducible assumption
    | with_reducible apply keeps_synStep
    | with_reducible apply keeps_lblSetBody
    | (intro _; intros; try dsimp only)
    | split
    | (refine Keeps.of ?_; dsimp only; with_reducible refine Keeps.parts ?_)

theorem keeps_setBucket {z0 s : State} (h : Keeps z0 s) (master label rate depth : Nat) :
    Keeps z0 (setBucket s master label rate depth) := by
  unfold setBucket
  try dsimp only
  repeat' first
    | with_reducible assumption
    | with_reducible apply keeps_burn
    | split
    | (refine Keeps.of ?_; dsimp only; with_reducible refine Keeps.parts ?_)

theorem keeps_lblLimitBody {z0 s : State} (h : Keeps z0 s) (e c : Nat) (w : SWord) :
    Keeps z0 (lblLimitBody e c s w) := by
  unfold lblLimitBody
  try dsimp only
  repeat' first
    | with_reducible assumption
    | with_reducible apply keeps_complete
    | with_reducible apply keeps_setBucket
    | with_reducible apply Keeps.foldl
    | with_reducible apply Keeps.foldlPair
    | (intro _; intros; try dsimp only)
    | split
    | (refine Keeps.of ?_; dsimp only; with_reducible refine Keeps.parts ?_)

theorem keeps_execLblSetLimit {z0 s : State} (h : Keeps z0 s) (e c : Nat) :
    ∃ t, execLblSetLimit e c s = .next t ∧ Keeps z0 t := by
  unfold execLblSetLimit
  refine ⟨_, rfl, ?_⟩
  try dsimp only
  repeat' first
    | with_reducible assumption
    | with_reducible apply keeps_synStep
    | with_reducible apply keeps_lblLimitBody
    | (intro _; intros; try dsimp only)
    | split
    | (refine Keeps.of ?_; dsimp only; with_reducible refine Keeps.parts ?_)

theorem keeps_arbCfgBody {z0 s : State} (h : Keeps z0 s) (e c : Nat) (w : SWord) :
    Keeps z0 (arbCfgBody e c s w) := by
  unfold arbCfgBody
  try dsimp only
  repeat' first
    | with_reducible assumption
    | with_reducible apply keeps_complete
    | with_reducible apply keeps_putArb
    | split
    | (refine Keeps.of ?_; dsimp only; with_reducible refine Keeps.parts ?_)

theorem keeps_execArbCfg {z0 s : State} (h : Keeps z0 s) (e c : Nat) :
    ∃ t, execArbCfg e c s = .next t ∧ Keeps z0 t := by
  unfold execArbCfg
  refine ⟨_, rfl, ?_⟩
  try dsimp only
  repeat' first
    | with_reducible assumption
    | with_reducible apply keeps_synStep
    | with_reducible apply keeps_arbCfgBody
    | (intro _; intros; try dsimp only)
    | split
    | (refine Keeps.of ?_; dsimp only; with_reducible refine Keeps.parts ?_)

theorem keeps_arbReadBody {z0 s : State} (h : Keeps z0 s) (e c : Nat) (w : SWord) :
    Keeps z0 (arbReadBody e c s w) := by
  unfold arbReadBody
  try dsimp only
  repeat' first
    | with_reducible assumption
    | with_reducible apply keeps_complete
    | with_reducible apply keeps_bufStore
    | with_reducible apply keeps_putArb
    | split
    | (refine Keeps.of ?_; dsimp only; with_reducible refine Keeps.parts ?_)

theorem keeps_execArbRead {z0 s : State} (h : Keeps z0 s) (e c : Nat) :
    ∃ t, execArbRead e c s = .next t ∧ Keeps z0 t := by
  unfold execArbRead
  refine ⟨_, rfl, ?_⟩
  try dsimp only
  repeat' first
    | with_reducible assumption
    | with_reducible apply keeps_synStep
    | with_reducible apply keeps_arbReadBody
    | (intro _; intros; try dsimp only)
    | split
    | (refine Keeps.of ?_; dsimp only; with_reducible refine Keeps.parts ?_)

theorem keeps_takeStrmXfer {z0 s : State} (h : Keeps z0 s) (a q : Nat) :
    Keeps z0 (takeStrmXfer s a q) := by
  unfold takeStrmXfer
  try dsimp only
  repeat' first
    | with_reducible assumption
    | with_reducible apply keeps_updChan
    | with_reducible apply Keeps.foldl
    | with_reducible apply Keeps.foldlPair
    | (intro _; intros; try dsimp only)
    | split
    | (refine Keeps.of ?_; dsimp only; with_reducible refine Keeps.parts ?_)

theorem keeps_arbitrationDecision {z0 s : State} (h : Keeps z0 s) (a : Nat) :
    Keeps z0 (arbitrationDecision s a) := by
  unfold arbitrationDecision
  try dsimp only
  repeat' first
    | with_reducible assumption
    | with_reducible apply keeps_count
    | with_reducible apply keeps_takeStrmXfer
    | with_reducible apply keeps_putArb
    | split
    | (refine Keeps.of ?_; dsimp only; with_reducible refine Keeps.parts ?_)

theorem keeps_execArbitrationDecision {z0 s : State} (h : Keeps z0 s) (arb : Nat) :
    ∃ t, execArbitrationDecision arb s = .next t ∧ Keeps z0 t := by
  unfold execArbitrationDecision
  refine ⟨_, rfl, ?_⟩
  try dsimp only
  repeat' first
    | with_reducible assumption
    | with_reducible apply keeps_arbitrationDecision
    | split
    | (refine Keeps.of ?_; dsimp only; with_reducible refine Keeps.parts ?_)

theorem keeps_creditWaitRecord {z0 s : State} (h : Keeps z0 s) (p us : Nat) :
    Keeps z0 (creditWaitRecord s p us) := by
  unfold creditWaitRecord
  try dsimp only
  repeat' first
    | with_reducible assumption
    | with_reducible apply keeps_record
    | with_reducible apply keeps_sample
    | with_reducible apply keeps_updPort
    | split
    | (refine Keeps.of ?_; dsimp only; with_reducible refine Keeps.parts ?_)

theorem keeps_execCreditWaitRecord {z0 s : State} (h : Keeps z0 s) (port us : Nat) :
    ∃ t, execCreditWaitRecord port us s = .next t ∧ Keeps z0 t := by
  unfold execCreditWaitRecord
  refine ⟨_, rfl, ?_⟩
  try dsimp only
  repeat' first
    | with_reducible assumption
    | with_reducible apply keeps_creditWaitRecord
    | split
    | (refine Keeps.of ?_; dsimp only; with_reducible refine Keeps.parts ?_)

/-! ## Machine/Streams.lean -/

theorem keeps_putStrm {z0 s : State} (h : Keeps z0 s) (n : Nat) (x : Strm) :
    Keeps z0 (State.putStrm s n x) := by
  unfold State.putStrm
  try dsimp only
  repeat' first
    | with_reducible assumption
    | split
    | (refine Keeps.of ?_; dsimp only; with_reducible refine Keeps.parts ?_)

theorem keeps_undefStrm {z0 s : State} (h : Keeps z0 s) (n : Nat) :
    Keeps z0 (undefStrm s n) := by
  unfold undefStrm
  try dsimp only
  repeat' first
    | with_reducible assumption
    | with_reducible apply keeps_withdraw
    | with_reducible apply keeps_dropCommit
    | (with_reducible refine keeps_dropCommit_eq ?_ (by with_reducible assumption))
    | split
    | (refine Keeps.of ?_; dsimp only; with_reducible refine Keeps.parts ?_)

theorem keeps_abortStrm {z0 s : State} (h : Keeps z0 s) (n : Nat) :
    Keeps z0 (abortStrm s n) := by
  unfold abortStrm
  try dsimp only
  repeat' first
    | with_reducible assumption
    | with_reducible apply keeps_notify
    | with_reducible apply keeps_undefStrm
    | split
    | (refine Keeps.of ?_; dsimp only; with_reducible refine Keeps.parts ?_)

theorem keeps_abortStrms {z0 s : State} (h : Keeps z0 s) (f : Strm → Bool) :
    Keeps z0 (abortStrms s f) := by
  unfold abortStrms
  try dsimp only
  repeat' first
    | with_reducible assumption
    | with_reducible apply keeps_abortStrm
    | with_reducible apply Keeps.foldl
    | with_reducible apply Keeps.foldlPair
    | (intro _; intros; try dsimp only)
    | split
    | (refine Keeps.of ?_; dsimp only; with_reducible refine Keeps.parts ?_)

theorem keeps_defineStrm {z0 s : State} (h : Keeps z0 s) (e c n region port session rate : Nat) (g : Gen) (best : Bool) (trig : Option Nat) (d : Option (BitVec 5)) :
    Keeps z0 (defineStrm s e c n region port session rate g best trig d) := by
  unfold defineStrm
  try dsimp only
  repeat' first
    | with_reducible assumption
    | with_reducible apply keeps_trigIdle
    | with_reducible apply keeps_claimFor
    | with_reducible apply keeps_refuseAdmit
    | with_reducible apply keeps_completeD
    | with_reducible apply keeps_complete
    | with_reducible apply keeps_putStrm
    | (with_reducible refine keeps_tryAdmit ?_ (by with_reducible assumption))
    | with_reducible apply keeps_waitSwap
    | split
    | (refine Keeps.of ?_; dsimp only; with_reducible refine Keeps.parts ?_)

theorem keeps_strmDefBody {z0 s : State} (h : Keeps z0 s) (e c : Nat) (w : SWord) :
    Keeps z0 (strmDefBody e c s w) := by
  unfold strmDefBody
  try dsimp only
  repeat' first
    | with_reducible assumption
    | with_reducible apply keeps_complete
    | with_reducible apply keeps_defineStrm
    | split
    | (refine Keeps.of ?_; dsimp only; with_reducible refine Keeps.parts ?_)

theorem keeps_execStrmDef {z0 s : State} (h : Keeps z0 s) (e c : Nat) :
    ∃ t, execStrmDef e c s = .next t ∧ Keeps z0 t := by
  unfold execStrmDef
  refine ⟨_, rfl, ?_⟩
  try dsimp only
  repeat' first
    | with_reducible assumption
    | with_reducible apply keeps_synStep
    | with_reducible apply keeps_strmDefBody
    | (intro _; intros; try dsimp only)
    | split
    | (refine Keeps.of ?_; dsimp only; with_reducible refine Keeps.parts ?_)

theorem keeps_startStrm {z0 s : State} (h : Keeps z0 s) (n : Nat) (x : Strm) :
    Keeps z0 (startStrm s n x) := by
  unfold startStrm
  try dsimp only
  repeat' first
    | with_reducible assumption
    | with_reducible apply keeps_putStrm
    | split
    | (refine Keeps.of ?_; dsimp only; with_reducible refine Keeps.parts ?_)

theorem keeps_strmGo {z0 s : State} (h : Keeps z0 s) (e c n : Nat) :
    Keeps z0 (strmGo s e c n) := by
  unfold strmGo
  try dsimp only
  repeat' first
    | with_reducible assumption
    | with_reducible apply keeps_complete
    | with_reducible apply keeps_startStrm
    | split
    | (refine Keeps.of ?_; dsimp only; with_reducible refine Keeps.parts ?_)

theorem keeps_execStrmGo {z0 s : State} (h : Keeps z0 s) (e c : Nat) :
    ∃ t, execStrmGo e c s = .next t ∧ Keeps z0 t := by
  unfold execStrmGo
  refine ⟨_, rfl, ?_⟩
  try dsimp only
  repeat' first
    | with_reducible assumption
    | with_reducible apply keeps_synStep
    | with_reducible apply keeps_strmGo
    | (intro _; intros; try dsimp only)
    | split
    | (refine Keeps.of ?_; dsimp only; with_reducible refine Keeps.parts ?_)

theorem keeps_idleStrm {z0 s : State} (h : Keeps z0 s) (n : Nat) (x : Strm) :
    Keeps z0 (idleStrm s n x) := by
  unfold idleStrm
  try dsimp only
  repeat' first
    | with_reducible assumption
    | with_reducible apply keeps_withdraw
    | with_reducible apply keeps_putStrm
    | split
    | (refine Keeps.of ?_; dsimp only; with_reducible refine Keeps.parts ?_)

theorem keeps_strmStopBody {z0 s : State} (h : Keeps z0 s) (e c : Nat) (w : SWord) :
    Keeps z0 (strmStopBody e c s w) := by
  unfold strmStopBody
  try dsimp only
  repeat' first
    | with_reducible assumption
    | with_reducible apply keeps_complete
    | with_reducible apply keeps_idleStrm
    | split
    | (refine Keeps.of ?_; dsimp only; with_reducible refine Keeps.parts ?_)

theorem keeps_execStrmStop {z0 s : State} (h : Keeps z0 s) (e c : Nat) :
    ∃ t, execStrmStop e c s = .next t ∧ Keeps z0 t := by
  unfold execStrmStop
  refine ⟨_, rfl, ?_⟩
  try dsimp only
  repeat' first
    | with_reducible assumption
    | with_reducible apply keeps_synStep
    | with_reducible apply keeps_strmStopBody
    | (intro _; intros; try dsimp only)
    | split
    | (refine Keeps.of ?_; dsimp only; with_reducible refine Keeps.parts ?_)

theorem keeps_strmStopDropBody {z0 s : State} (h : Keeps z0 s) (e c : Nat) (w : SWord) :
    Keeps z0 (strmStopDropBody e c s w) := by
  unfold strmStopDropBody
  try dsimp only
  repeat' first
    | with_reducible assumption
    | with_reducible apply keeps_complete
    | with_reducible apply keeps_undefStrm
    | split
    | (refine Keeps.of ?_; dsimp only; with_reducible refine Keeps.parts ?_)

theorem keeps_execStrmStopDrop {z0 s : State} (h : Keeps z0 s) (e c : Nat) :
    ∃ t, execStrmStopDrop e c s = .next t ∧ Keeps z0 t := by
  unfold execStrmStopDrop
  refine ⟨_, rfl, ?_⟩
  try dsimp only
  repeat' first
    | with_reducible assumption
    | with_reducible apply keeps_synStep
    | with_reducible apply keeps_strmStopDropBody
    | (intro _; intros; try dsimp only)
    | split
    | (refine Keeps.of ?_; dsimp only; with_reducible refine Keeps.parts ?_)

theorem keeps_strmStatBody {z0 s : State} (h : Keeps z0 s) (e c : Nat) (w : SWord) :
    Keeps z0 (strmStatBody e c s w) := by
  unfold strmStatBody
  try dsimp only
  repeat' first
    | with_reducible assumption
    | with_reducible apply keeps_complete
    | with_reducible apply keeps_completeD
    | split
    | (refine Keeps.of ?_; dsimp only; with_reducible refine Keeps.parts ?_)

theorem keeps_execStrmStat {z0 s : State} (h : Keeps z0 s) (e c : Nat) :
    ∃ t, execStrmStat e c s = .next t ∧ Keeps z0 t := by
  unfold execStrmStat
  refine ⟨_, rfl, ?_⟩
  try dsimp only
  repeat' first
    | with_reducible assumption
    | with_reducible apply keeps_synStep
    | with_reducible apply keeps_strmStatBody
    | (intro _; intros; try dsimp only)
    | split
    | (refine Keeps.of ?_; dsimp only; with_reducible refine Keeps.parts ?_)

theorem keeps_streamFetchIssue {z0 s : State} (h : Keeps z0 s) (n : Nat) (dram : Dram) :
    Keeps z0 (streamFetchIssue s n dram) := by
  unfold streamFetchIssue
  try dsimp only
  repeat' first
    | with_reducible assumption
    | with_reducible apply keeps_notify
    | with_reducible apply keeps_idleStrm
    | with_reducible apply keeps_putStrm
    | with_reducible apply keeps_enterTable
    | with_reducible apply Keeps.foldl
    | with_reducible apply Keeps.foldlPair
    | (intro _; intros; try dsimp only)
    | split
    | (refine Keeps.of ?_; dsimp only; with_reducible refine Keeps.parts ?_)

theorem keeps_execStreamFetchIssue {z0 s : State} (h : Keeps z0 s) (n : Nat) (dram : Dram) :
    ∃ t, execStreamFetchIssue n dram s = .next t ∧ Keeps z0 t := by
  unfold execStreamFetchIssue
  refine ⟨_, rfl, ?_⟩
  try dsimp only
  repeat' first
    | with_reducible assumption
    | with_reducible apply keeps_streamFetchIssue
    | split
    | (refine Keeps.of ?_; dsimp only; with_reducible refine Keeps.parts ?_)

theorem keeps_streamFlitRelease {z0 s : State} (h : Keeps z0 s) (n : Nat) :
    Keeps z0 (streamFlitRelease s n) := by
  unfold streamFlitRelease
  try dsimp only
  repeat' first
    | with_reducible assumption
    | with_reducible apply keeps_sendMsg
    | with_reducible apply keeps_record
    | with_reducible apply keeps_trigHigh
    | with_reducible apply keeps_notify
    | with_reducible apply keeps_idleStrm
    | with_reducible apply keeps_putStrm
    | with_reducible apply Keeps.foldl
    | with_reducible apply Keeps.foldlPair
    | (intro _; intros; try dsimp only)
    | split
    | (refine Keeps.of ?_; dsimp only; with_reducible refine Keeps.parts ?_)

theorem keeps_execStreamFlitRelease {z0 s : State} (h : Keeps z0 s) (n : Nat) :
    ∃ t, execStreamFlitRelease n s = .next t ∧ Keeps z0 t := by
  unfold execStreamFlitRelease
  refine ⟨_, rfl, ?_⟩
  try dsimp only
  repeat' first
    | with_reducible assumption
    | with_reducible apply keeps_streamFlitRelease
    | split
    | (refine Keeps.of ?_; dsimp only; with_reducible refine Keeps.parts ?_)

theorem keeps_streamLoopStep {z0 s : State} (h : Keeps z0 s) (e c : Nat) (step : Nat) :
    Keeps z0 (streamLoopStep e c s step) := by
  unfold streamLoopStep
  try dsimp only
  repeat' first
    | with_reducible assumption
    | with_reducible apply keeps_complete
    | with_reducible apply keeps_updCtx
    | with_reducible apply keeps_defineStrm
    | with_reducible apply keeps_strmGo
    | split
    | (refine Keeps.of ?_; dsimp only; with_reducible refine Keeps.parts ?_)

theorem keeps_execHStreamLoop {z0 s : State} (h : Keeps z0 s) (e c : Nat) :
    ∃ t, execHStreamLoop e c s = .next t ∧ Keeps z0 t := by
  unfold execHStreamLoop
  refine ⟨_, rfl, ?_⟩
  try dsimp only
  repeat' first
    | with_reducible assumption
    | with_reducible apply keeps_houseStepOf
    | with_reducible apply keeps_streamLoopStep
    | (intro _; intros; try dsimp only)
    | split
    | (refine Keeps.of ?_; dsimp only; with_reducible refine Keeps.parts ?_)

/-! ## Machine/Queues.lean -/

theorem keeps_reopen {z0 s : State} (h : Keeps z0 s) (e c : Nat) :
    Keeps z0 (reopen s e c) := by
  unfold reopen
  try dsimp only
  repeat' first
    | with_reducible assumption
    | with_reducible apply keeps_onMaps
    | split
    | (refine Keeps.of ?_; dsimp only; with_reducible refine Keeps.parts ?_)

theorem keeps_dropReqs {z0 s : State} (h : Keeps z0 s) (e c : Nat) :
    Keeps z0 (dropReqs s e c) := by
  unfold dropReqs
  try dsimp only
  repeat' first
    | with_reducible assumption
    | with_reducible apply keeps_withdraw
    | with_reducible apply keeps_reopen
    | split
    | (refine Keeps.of ?_; dsimp only; with_reducible refine Keeps.parts ?_)

theorem keeps_killCtx {z0 s : State} (h : Keeps z0 s) (e c : Nat) :
    Keeps z0 (killCtx s e c) := by
  unfold killCtx
  try dsimp only
  repeat' first
    | with_reducible assumption
    | with_reducible apply keeps_dropReqs
    | with_reducible apply keeps_putCtx
    | split
    | (refine Keeps.of ?_; dsimp only; with_reducible refine Keeps.parts ?_)

theorem keeps_openQueue {z0 s : State} (h : Keeps z0 s) (q : Nat) (x : Queue) :
    Keeps z0 (openQueue s q x) := by
  unfold openQueue
  try dsimp only
  repeat' first
    | with_reducible assumption
    | split
    | (refine Keeps.of ?_; dsimp only; with_reducible refine Keeps.parts ?_)

theorem keeps_closeQueue {z0 s : State} (h : Keeps z0 s) (q : Nat) : Keeps z0 (closeQueue s q) := by
  have k : ∀ {t : State}, Keeps z0 t → Keeps z0 { t with
      regul := { t.regul with
        commits := t.regul.commits.map (fun p => if p.2.owner = some q then (p.1, { p.2 with owner := none }) else p) }
      eng := { t.eng with
        queues := Tbl.del t.eng.queues q, cring := t.eng.cring.filter (fun p => p.1 / 65536 != q)
        buf := t.eng.buf.filter (fun p => p.1 / 2 ^ 28 != q) }
      recs := { t.recs with ringQ := if t.recs.ringQ = some q then none else t.recs.ringQ } } :=
    fun kt => ⟨kt.queue, kt.fuses, fun b => buf_wf_filter _ (kt.canon b), kt.onward⟩
  refine k ?_
  repeat' first
    | with_reducible assumption
    | with_reducible apply keeps_freeClaim
    | with_reducible apply keeps_undefStrm
    | with_reducible apply Keeps.foldl
    | (intro _ _ _; try dsimp only)

theorem keeps_closeSession {z0 s : State} (h : Keeps z0 s) (p n : Nat) :
    Keeps z0 (closeSession s p n) := by
  unfold closeSession
  try dsimp only
  repeat' first
    | with_reducible assumption
    | with_reducible apply keeps_killCtx
    | with_reducible apply keeps_abortStrms
    | with_reducible apply keeps_closeQueue
    | with_reducible apply keeps_updSess
    | with_reducible apply Keeps.foldl
    | with_reducible apply Keeps.foldlPair
    | (intro _; intros; try dsimp only)
    | split
    | (refine Keeps.of ?_; dsimp only; with_reducible refine Keeps.parts ?_)

theorem keeps_openSession {z0 s : State} (h : Keeps z0 s) (p n : Nat) (admin : Bool) :
    Keeps z0 (openSession s p n admin) := by
  unfold openSession
  try dsimp only
  repeat' first
    | with_reducible assumption
    | with_reducible apply keeps_openQueue
    | with_reducible apply keeps_updSess
    | split
    | (refine Keeps.of ?_; dsimp only; with_reducible refine Keeps.parts ?_)

theorem keeps_fetchDesc {z0 s : State} (h : Keeps z0 s) (e c q : Nat) (x : Queue) (d : TaskDesc) :
    Keeps z0 (fetchDesc s e c q x d) := by
  unfold fetchDesc
  try dsimp only
  repeat' first
    | with_reducible assumption
    | with_reducible apply keeps_updQueue
    | with_reducible apply keeps_putCtx
    | with_reducible apply keeps_notify
    | split
    | (refine Keeps.of ?_; dsimp only; with_reducible refine Keeps.parts ?_)

theorem keeps_descEnds {z0 s : State} (h : Keeps z0 s) (e c code : Nat) :
    Keeps z0 (descEnds s e c code) := by
  unfold descEnds
  try dsimp only
  repeat' first
    | with_reducible assumption
    | with_reducible apply keeps_endTask
    | split
    | (refine Keeps.of ?_; dsimp only; with_reducible refine Keeps.parts ?_)

theorem keeps_withDesc {z0 s : State} (h : Keeps z0 s) (e c q : Nat) (d : BitVec 512) (mine : Nat → Bool) (go : State → Queue → TaskDesc → State) (hgo : ∀ t w1 w2, Keeps z0 t → Keeps z0 (go t w1 w2)) :
    Keeps z0 (withDesc s e c q d mine go) := by
  unfold withDesc
  try dsimp only
  repeat' first
    | with_reducible assumption
    | with_reducible apply keeps_updQueue
    | with_reducible apply keeps_fetchDesc
    | with_reducible apply keeps_descEnds
    | with_reducible apply hgo
    | split
    | (refine Keeps.of ?_; dsimp only; with_reducible refine Keeps.parts ?_)

theorem keeps_execTaskRun {z0 s : State} (h : Keeps z0 s) (e c q : Nat) (d : BitVec 512) :
    ∃ t, execTaskRun e c q d s = .next t ∧ Keeps z0 t := by
  unfold execTaskRun
  refine ⟨_, rfl, ?_⟩
  try dsimp only
  repeat' first
    | with_reducible assumption
    | with_reducible apply keeps_withDesc
    | with_reducible apply keeps_descEnds
    | (intro _; intros; try dsimp only)
    | split
    | (refine Keeps.of ?_; dsimp only; with_reducible refine Keeps.parts ?_)

theorem keeps_hcallRun {z0 s : State} (h : Keeps z0 s) (e c : Nat) (x : Queue) (t : TaskDesc) :
    Keeps z0 (hcallRun e c s x t) := by
  unfold hcallRun
  try dsimp only
  repeat' first
    | with_reducible assumption
    | with_reducible apply keeps_descEnds
    | with_reducible apply keeps_updCtx
    | split
    | (refine Keeps.of ?_; dsimp only; with_reducible refine Keeps.parts ?_)

theorem keeps_execHcall {z0 s : State} (h : Keeps z0 s) (e c q : Nat) (d : BitVec 512) :
    ∃ t, execHcall e c q d s = .next t ∧ Keeps z0 t := by
  unfold execHcall
  refine ⟨_, rfl, ?_⟩
  try dsimp only
  repeat' first
    | with_reducible assumption
    | with_reducible apply keeps_withDesc
    | with_reducible apply keeps_hcallRun
    | (intro _; intros; try dsimp only)
    | split
    | (refine Keeps.of ?_; dsimp only; with_reducible refine Keeps.parts ?_)

theorem keeps_qopenRun {z0 s : State} (h : Keeps z0 s) (e c q : Nat) (x : Queue) (t : TaskDesc) :
    Keeps z0 (qopenRun e c q s x t) := by
  unfold qopenRun
  try dsimp only
  repeat' first
    | with_reducible assumption
    | with_reducible apply keeps_descEnds
    | with_reducible apply keeps_openQueue
    | split
    | (refine Keeps.of ?_; dsimp only; with_reducible refine Keeps.parts ?_)

theorem keeps_execQopen {z0 s : State} (h : Keeps z0 s) (e c q : Nat) (d : BitVec 512) :
    ∃ t, execQopen e c q d s = .next t ∧ Keeps z0 t := by
  unfold execQopen
  refine ⟨_, rfl, ?_⟩
  try dsimp only
  repeat' first
    | with_reducible assumption
    | with_reducible apply keeps_withDesc
    | with_reducible apply keeps_qopenRun
    | (intro _; intros; try dsimp only)
    | split
    | (refine Keeps.of ?_; dsimp only; with_reducible refine Keeps.parts ?_)

theorem keeps_finishClose {z0 s : State} (h : Keeps z0 s) (q : Nat) :
    Keeps z0 (finishClose s q) := by
  unfold finishClose
  try dsimp only
  repeat' first
    | with_reducible assumption
    | with_reducible apply keeps_descEnds
    | with_reducible apply keeps_closeQueue
    | with_reducible apply Keeps.foldl
    | with_reducible apply Keeps.foldlPair
    | (intro _; intros; try dsimp only)
    | split
    | (refine Keeps.of ?_; dsimp only; with_reducible refine Keeps.parts ?_)

theorem keeps_qcloseRun {z0 s : State} (h : Keeps z0 s) (e c q : Nat) (u2 : Queue) (t : TaskDesc) :
    Keeps z0 (qcloseRun e c q s u2 t) := by
  unfold qcloseRun
  try dsimp only
  repeat' first
    | with_reducible assumption
    | with_reducible apply keeps_descEnds
    | with_reducible apply keeps_finishClose
    | with_reducible apply keeps_suspend
    | with_reducible apply keeps_updQueue
    | split
    | (refine Keeps.of ?_; dsimp only; with_reducible refine Keeps.parts ?_)

theorem keeps_execQclose {z0 s : State} (h : Keeps z0 s) (e c q : Nat) (d : BitVec 512) :
    ∃ t, execQclose e c q d s = .next t ∧ Keeps z0 t := by
  unfold execQclose
  refine ⟨_, rfl, ?_⟩
  try dsimp only
  repeat' first
    | with_reducible assumption
    | with_reducible apply keeps_withDesc
    | with_reducible apply keeps_qcloseRun
    | (intro _; intros; try dsimp only)
    | split
    | (refine Keeps.of ?_; dsimp only; with_reducible refine Keeps.parts ?_)

theorem keeps_ploadRun {z0 s : State} (h : Keeps z0 s) (e c q : Nat) (u2 : Queue) (t : TaskDesc) :
    Keeps z0 (ploadRun e c q s u2 t) := by
  unfold ploadRun
  try dsimp only
  repeat' first
    | with_reducible assumption
    | with_reducible apply keeps_descEnds
    | with_reducible apply Keeps.foldl
    | with_reducible apply Keeps.foldlPair
    | (intro _; intros; try dsimp only)
    | split
    | (refine Keeps.of ?_; dsimp only; with_reducible refine Keeps.parts ?_)

theorem keeps_execPload {z0 s : State} (h : Keeps z0 s) (e c q : Nat) (d : BitVec 512) :
    ∃ t, execPload e c q d s = .next t ∧ Keeps z0 t := by
  unfold execPload
  refine ⟨_, rfl, ?_⟩
  try dsimp only
  repeat' first
    | with_reducible assumption
    | with_reducible apply keeps_withDesc
    | with_reducible apply keeps_ploadRun
    | (intro _; intros; try dsimp only)
    | split
    | (refine Keeps.of ?_; dsimp only; with_reducible refine Keeps.parts ?_)

theorem keeps_completionWrite {z0 s : State} (h : Keeps z0 s) (e c : Nat) :
    Keeps z0 (completionWrite s e c) := by
  unfold completionWrite
  try dsimp only
  repeat' first
    | with_reducible assumption
    | with_reducible apply keeps_updQueue
    | with_reducible apply keeps_putCtx
    | with_reducible apply keeps_notify
    | with_reducible apply keeps_finishClose
    | split
    | (refine Keeps.of ?_; dsimp only; with_reducible refine Keeps.parts ?_)

theorem keeps_execCompletionWrite {z0 s : State} (h : Keeps z0 s) (e c : Nat) :
    ∃ t, execCompletionWrite e c s = .next t ∧ Keeps z0 t := by
  unfold execCompletionWrite
  refine ⟨_, rfl, ?_⟩
  try dsimp only
  repeat' first
    | with_reducible assumption
    | with_reducible apply keeps_completionWrite
    | split
    | (refine Keeps.of ?_; dsimp only; with_reducible refine Keeps.parts ?_)

theorem keeps_ntfSend {z0 s : State} (h : Keeps z0 s) (p n : Nat) :
    Keeps z0 (ntfSend s p n) := by
  unfold ntfSend
  try dsimp only
  repeat' first
    | with_reducible assumption
    | with_reducible apply keeps_sendMsg
    | with_reducible apply keeps_updSess
    | split
    | (refine Keeps.of ?_; dsimp only; with_reducible refine Keeps.parts ?_)

theorem keeps_execNtfSend {z0 s : State} (h : Keeps z0 s) (port session : Nat) :
    ∃ t, execNtfSend port session s = .next t ∧ Keeps z0 t := by
  unfold execNtfSend
  refine ⟨_, rfl, ?_⟩
  try dsimp only
  repeat' first
    | with_reducible assumption
    | with_reducible apply keeps_ntfSend
    | split
    | (refine Keeps.of ?_; dsimp only; with_reducible refine Keeps.parts ?_)

/-! ## Machine/Regions.lean -/

theorem keeps_journalRegion {z0 s : State} (h : Keeps z0 s) (e c idx : Nat) (r : Option Region) :
    Keeps z0 (journalRegion s e c idx r) := by
  unfold journalRegion
  try dsimp only
  repeat' first
    | with_reducible assumption
    | with_reducible apply keeps_suspend
    | with_reducible apply keeps_onMaps
    | split
    | (refine Keeps.of ?_; dsimp only; with_reducible refine Keeps.parts ?_)

theorem keeps_rgnDefBody {z0 s : State} (h : Keeps z0 s) (e c : Nat) (w : SWord) :
    Keeps z0 (rgnDefBody e c s w) := by
  unfold rgnDefBody
  try dsimp only
  repeat' first
    | with_reducible assumption
    | with_reducible apply keeps_complete
    | with_reducible apply keeps_journalRegion
    | split
    | (refine Keeps.of ?_; dsimp only; with_reducible refine Keeps.parts ?_)

theorem keeps_execRgnDef {z0 s : State} (h : Keeps z0 s) (e c : Nat) :
    ∃ t, execRgnDef e c s = .next t ∧ Keeps z0 t := by
  unfold execRgnDef
  refine ⟨_, rfl, ?_⟩
  try dsimp only
  repeat' first
    | with_reducible assumption
    | with_reducible apply keeps_synStep
    | with_reducible apply keeps_rgnDefBody
    | (intro _; intros; try dsimp only)
    | split
    | (refine Keeps.of ?_; dsimp only; with_reducible refine Keeps.parts ?_)

theorem keeps_rgnAttrBody {z0 s : State} (h : Keeps z0 s) (e c : Nat) (w : SWord) :
    Keeps z0 (rgnAttrBody e c s w) := by
  unfold rgnAttrBody
  try dsimp only
  repeat' first
    | with_reducible assumption
    | with_reducible apply keeps_complete
    | with_reducible apply keeps_journalRegion
    | split
    | (refine Keeps.of ?_; dsimp only; with_reducible refine Keeps.parts ?_)

theorem keeps_execRgnAttr {z0 s : State} (h : Keeps z0 s) (e c : Nat) :
    ∃ t, execRgnAttr e c s = .next t ∧ Keeps z0 t := by
  unfold execRgnAttr
  refine ⟨_, rfl, ?_⟩
  try dsimp only
  repeat' first
    | with_reducible assumption
    | with_reducible apply keeps_synStep
    | with_reducible apply keeps_rgnAttrBody
    | (intro _; intros; try dsimp only)
    | split
    | (refine Keeps.of ?_; dsimp only; with_reducible refine Keeps.parts ?_)

theorem keeps_rgnDropBody {z0 s : State} (h : Keeps z0 s) (e c : Nat) (w : SWord) :
    Keeps z0 (rgnDropBody e c s w) := by
  unfold rgnDropBody
  try dsimp only
  repeat' first
    | with_reducible assumption
    | with_reducible apply keeps_complete
    | with_reducible apply keeps_onMaps
    | with_reducible apply keeps_suspend
    | with_reducible apply keeps_abortStrms
    | split
    | (refine Keeps.of ?_; dsimp only; with_reducible refine Keeps.parts ?_)

theorem keeps_execRgnDrop {z0 s : State} (h : Keeps z0 s) (e c : Nat) :
    ∃ t, execRgnDrop e c s = .next t ∧ Keeps z0 t := by
  unfold execRgnDrop
  refine ⟨_, rfl, ?_⟩
  try dsimp only
  repeat' first
    | with_reducible assumption
    | with_reducible apply keeps_synStep
    | with_reducible apply keeps_rgnDropBody
    | (intro _; intros; try dsimp only)
    | split
    | (refine Keeps.of ?_; dsimp only; with_reducible refine Keeps.parts ?_)

theorem keeps_rgnDropDrainEnd {z0 s : State} (h : Keeps z0 s) (idx : Nat) :
    Keeps z0 (rgnDropDrainEnd s idx) := by
  unfold rgnDropDrainEnd
  try dsimp only
  repeat' first
    | with_reducible assumption
    | with_reducible apply keeps_dropLine
    | with_reducible apply keeps_onCache
    | with_reducible apply keeps_startChange
    | with_reducible apply keeps_onMaps
    | with_reducible apply keeps_updCtx
    | with_reducible apply Keeps.foldl
    | with_reducible apply Keeps.foldlPair
    | (intro _; intros; try dsimp only)
    | split
    | (refine Keeps.of ?_; dsimp only; with_reducible refine Keeps.parts ?_)

theorem keeps_execRgnDropDrainEnd {z0 s : State} (h : Keeps z0 s) (region : Nat) :
    ∃ t, execRgnDropDrainEnd region s = .next t ∧ Keeps z0 t := by
  unfold execRgnDropDrainEnd
  refine ⟨_, rfl, ?_⟩
  try dsimp only
  repeat' first
    | with_reducible assumption
    | with_reducible apply keeps_rgnDropDrainEnd
    | split
    | (refine Keeps.of ?_; dsimp only; with_reducible refine Keeps.parts ?_)

theorem keeps_trimRange {z0 s : State} (h : Keeps z0 s) (e c lo len : Nat) (poison : Bool) :
    Keeps z0 (trimRange s e c lo len poison) := by
  unfold trimRange
  try dsimp only
  repeat' first
    | with_reducible assumption
    | with_reducible apply keeps_discardPage
    | with_reducible apply keeps_poisonPage
    | with_reducible apply keeps_startChange
    | with_reducible apply keeps_maintain
    | with_reducible apply keeps_suspend
    | with_reducible apply Keeps.foldl
    | with_reducible apply Keeps.foldlPair
    | (intro _; intros; try dsimp only)
    | split
    | (refine Keeps.of ?_; dsimp only; with_reducible refine Keeps.parts ?_)

theorem keeps_trimBody {z0 s : State} (h : Keeps z0 s) (poison : Bool) (e c : Nat) (w : SWord) :
    Keeps z0 (trimBody poison e c s w) := by
  unfold trimBody
  try dsimp only
  repeat' first
    | with_reducible assumption
    | with_reducible apply keeps_complete
    | with_reducible apply keeps_trimRange
    | split
    | (refine Keeps.of ?_; dsimp only; with_reducible refine Keeps.parts ?_)

theorem keeps_execMapTrim {z0 s : State} (h : Keeps z0 s) (e c : Nat) :
    ∃ t, execMapTrim e c s = .next t ∧ Keeps z0 t := by
  unfold execMapTrim
  refine ⟨_, rfl, ?_⟩
  try dsimp only
  repeat' first
    | with_reducible assumption
    | with_reducible apply keeps_synStep
    | with_reducible apply keeps_trimBody
    | (intro _; intros; try dsimp only)
    | split
    | (refine Keeps.of ?_; dsimp only; with_reducible refine Keeps.parts ?_)

theorem keeps_execMapTrimPoison {z0 s : State} (h : Keeps z0 s) (e c : Nat) :
    ∃ t, execMapTrimPoison e c s = .next t ∧ Keeps z0 t := by
  unfold execMapTrimPoison
  refine ⟨_, rfl, ?_⟩
  try dsimp only
  repeat' first
    | with_reducible assumption
    | with_reducible apply keeps_synStep
    | with_reducible apply keeps_trimBody
    | (intro _; intros; try dsimp only)
    | split
    | (refine Keeps.of ?_; dsimp only; with_reducible refine Keeps.parts ?_)

theorem keeps_mapQueryBody {z0 s : State} (h : Keeps z0 s) (e c : Nat) (w : SWord) :
    Keeps z0 (mapQueryBody e c s w) := by
  unfold mapQueryBody
  try dsimp only
  repeat' first
    | with_reducible assumption
    | with_reducible apply keeps_complete
    | with_reducible apply keeps_completeD
    | with_reducible apply keeps_suspend
    | with_reducible apply keeps_onPers
    | split
    | (refine Keeps.of ?_; dsimp only; with_reducible refine Keeps.parts ?_)

theorem keeps_execMapQuery {z0 s : State} (h : Keeps z0 s) (e c : Nat) :
    ∃ t, execMapQuery e c s = .next t ∧ Keeps z0 t := by
  unfold execMapQuery
  refine ⟨_, rfl, ?_⟩
  try dsimp only
  repeat' first
    | with_reducible assumption
    | with_reducible apply keeps_synStep
    | with_reducible apply keeps_mapQueryBody
    | (intro _; intros; try dsimp only)
    | split
    | (refine Keeps.of ?_; dsimp only; with_reducible refine Keeps.parts ?_)

theorem keeps_answerQueries {z0 s : State} (h : Keeps z0 s) :
    Keeps z0 (answerQueries s) := by
  unfold answerQueries
  try dsimp only
  repeat' first
    | with_reducible assumption
    | with_reducible apply keeps_completeD
    | with_reducible apply Keeps.foldl
    | with_reducible apply Keeps.foldlPair
    | (intro _; intros; try dsimp only)
    | split
    | (refine Keeps.of ?_; dsimp only; with_reducible refine Keeps.parts ?_)

theorem keeps_ckptBody {z0 s : State} (h : Keeps z0 s) (e c : Nat) (u2 : SWord) :
    Keeps z0 (ckptBody e c s u2) := by
  unfold ckptBody
  try dsimp only
  repeat' first
    | with_reducible assumption
    | with_reducible apply keeps_complete
    | with_reducible apply keeps_suspend
    | split
    | (refine Keeps.of ?_; dsimp only; with_reducible refine Keeps.parts ?_)

theorem keeps_execCkpt {z0 s : State} (h : Keeps z0 s) (e c : Nat) :
    ∃ t, execCkpt e c s = .next t ∧ Keeps z0 t := by
  unfold execCkpt
  refine ⟨_, rfl, ?_⟩
  try dsimp only
  repeat' first
    | with_reducible assumption
    | with_reducible apply keeps_synStep
    | with_reducible apply keeps_ckptBody
    | (intro _; intros; try dsimp only)
    | split
    | (refine Keeps.of ?_; dsimp only; with_reducible refine Keeps.parts ?_)

theorem keeps_turnOn {z0 s : State} (h : Keeps z0 s) :
    Keeps z0 (turnOn s) := by
  unfold turnOn
  try dsimp only
  repeat' first
    | with_reducible assumption
    | with_reducible apply keeps_onCache
    | split
    | (refine Keeps.of ?_; dsimp only; with_reducible refine Keeps.parts ?_)

theorem keeps_cacheOnBody {z0 s : State} (h : Keeps z0 s) (e c : Nat) (u2 : SWord) :
    Keeps z0 (cacheOnBody e c s u2) := by
  unfold cacheOnBody
  try dsimp only
  repeat' first
    | with_reducible assumption
    | with_reducible apply keeps_complete
    | with_reducible apply keeps_turnOn
    | split
    | (refine Keeps.of ?_; dsimp only; with_reducible refine Keeps.parts ?_)

theorem keeps_execCacheOn {z0 s : State} (h : Keeps z0 s) (e c : Nat) :
    ∃ t, execCacheOn e c s = .next t ∧ Keeps z0 t := by
  unfold execCacheOn
  refine ⟨_, rfl, ?_⟩
  try dsimp only
  repeat' first
    | with_reducible assumption
    | with_reducible apply keeps_synStep
    | with_reducible apply keeps_cacheOnBody
    | (intro _; intros; try dsimp only)
    | split
    | (refine Keeps.of ?_; dsimp only; with_reducible refine Keeps.parts ?_)

theorem keeps_cacheOnForceBody {z0 s : State} (h : Keeps z0 s) (e c : Nat) (u2 : SWord) :
    Keeps z0 (cacheOnForceBody e c s u2) := by
  unfold cacheOnForceBody
  try dsimp only
  repeat' first
    | with_reducible assumption
    | with_reducible apply keeps_record
    | with_reducible apply keeps_complete
    | with_reducible apply keeps_turnOn
    | with_reducible apply keeps_onCache
    | split
    | (refine Keeps.of ?_; dsimp only; with_reducible refine Keeps.parts ?_)

theorem keeps_execCacheOnForce {z0 s : State} (h : Keeps z0 s) (e c : Nat) :
    ∃ t, execCacheOnForce e c s = .next t ∧ Keeps z0 t := by
  unfold execCacheOnForce
  refine ⟨_, rfl, ?_⟩
  try dsimp only
  repeat' first
    | with_reducible assumption
    | with_reducible apply keeps_synStep
    | with_reducible apply keeps_cacheOnForceBody
    | (intro _; intros; try dsimp only)
    | split
    | (refine Keeps.of ?_; dsimp only; with_reducible refine Keeps.parts ?_)

theorem keeps_turnOff {z0 s : State} (h : Keeps z0 s) (e c : Nat) :
    Keeps z0 (turnOff s e c) := by
  unfold turnOff
  try dsimp only
  repeat' first
    | with_reducible assumption
    | with_reducible apply keeps_onCache
    | with_reducible apply keeps_maintain
    | with_reducible apply keeps_suspend
    | split
    | (refine Keeps.of ?_; dsimp only; with_reducible refine Keeps.parts ?_)

theorem keeps_cacheOffBody {z0 s : State} (h : Keeps z0 s) (e c : Nat) (u2 : SWord) :
    Keeps z0 (cacheOffBody e c s u2) := by
  unfold cacheOffBody
  try dsimp only
  repeat' first
    | with_reducible assumption
    | with_reducible apply keeps_complete
    | with_reducible apply keeps_turnOff
    | split
    | (refine Keeps.of ?_; dsimp only; with_reducible refine Keeps.parts ?_)

theorem keeps_execCacheOff {z0 s : State} (h : Keeps z0 s) (e c : Nat) :
    ∃ t, execCacheOff e c s = .next t ∧ Keeps z0 t := by
  unfold execCacheOff
  refine ⟨_, rfl, ?_⟩
  try dsimp only
  repeat' first
    | with_reducible assumption
    | with_reducible apply keeps_synStep
    | with_reducible apply keeps_cacheOffBody
    | (intro _; intros; try dsimp only)
    | split
    | (refine Keeps.of ?_; dsimp only; with_reducible refine Keeps.parts ?_)

theorem keeps_cacheOffForceBody {z0 s : State} (h : Keeps z0 s) (e c : Nat) (u2 : SWord) :
    Keeps z0 (cacheOffForceBody e c s u2) := by
  unfold cacheOffForceBody
  try dsimp only
  repeat' first
    | with_reducible assumption
    | with_reducible apply keeps_record
    | with_reducible apply keeps_complete
    | with_reducible apply keeps_turnOff
    | split
    | (refine Keeps.of ?_; dsimp only; with_reducible refine Keeps.parts ?_)

theorem keeps_execCacheOffForce {z0 s : State} (h : Keeps z0 s) (e c : Nat) :
    ∃ t, execCacheOffForce e c s = .next t ∧ Keeps z0 t := by
  unfold execCacheOffForce
  refine ⟨_, rfl, ?_⟩
  try dsimp only
  repeat' first
    | with_reducible assumption
    | with_reducible apply keeps_synStep
    | with_reducible apply keeps_cacheOffForceBody
    | (intro _; intros; try dsimp only)
    | split
    | (refine Keeps.of ?_; dsimp only; with_reducible refine Keeps.parts ?_)

theorem keeps_setWays {z0 s : State} (h : Keeps z0 s) (e c n : Nat) (masks : List (BitVec 16)) :
    Keeps z0 (setWays s e c n masks) := by
  unfold setWays
  try dsimp only
  repeat' first
    | with_reducible assumption
    | with_reducible apply keeps_complete
    | with_reducible apply keeps_onCache
    | with_reducible apply keeps_maintain
    | with_reducible apply keeps_suspend
    | split
    | (refine Keeps.of ?_; dsimp only; with_reducible refine Keeps.parts ?_)

theorem keeps_cacheWaysBody {z0 s : State} (h : Keeps z0 s) (e c : Nat) (w : SWord) :
    Keeps z0 (cacheWaysBody e c s w) := by
  unfold cacheWaysBody
  try dsimp only
  repeat' first
    | with_reducible assumption
    | with_reducible apply keeps_complete
    | with_reducible apply keeps_setWays
    | split
    | (refine Keeps.of ?_; dsimp only; with_reducible refine Keeps.parts ?_)

theorem keeps_execCacheWays {z0 s : State} (h : Keeps z0 s) (e c : Nat) :
    ∃ t, execCacheWays e c s = .next t ∧ Keeps z0 t := by
  unfold execCacheWays
  refine ⟨_, rfl, ?_⟩
  try dsimp only
  repeat' first
    | with_reducible assumption
    | with_reducible apply keeps_synStep
    | with_reducible apply keeps_cacheWaysBody
    | (intro _; intros; try dsimp only)
    | split
    | (refine Keeps.of ?_; dsimp only; with_reducible refine Keeps.parts ?_)

theorem keeps_startClean {z0 s : State} (h : Keeps z0 s) (e c lo hi : Nat) (inval : Bool) :
    Keeps z0 (startClean s e c lo hi inval) := by
  unfold startClean
  try dsimp only
  repeat' first
    | with_reducible assumption
    | with_reducible apply keeps_maintain
    | with_reducible apply keeps_suspend
    | split
    | (refine Keeps.of ?_; dsimp only; with_reducible refine Keeps.parts ?_)

theorem keeps_cacheFlushBody {z0 s : State} (h : Keeps z0 s) (e c : Nat) (w : SWord) :
    Keeps z0 (cacheFlushBody e c s w) := by
  unfold cacheFlushBody
  try dsimp only
  repeat' first
    | with_reducible assumption
    | with_reducible apply keeps_complete
    | with_reducible apply keeps_startClean
    | split
    | (refine Keeps.of ?_; dsimp only; with_reducible refine Keeps.parts ?_)

theorem keeps_execCacheFlush {z0 s : State} (h : Keeps z0 s) (e c : Nat) :
    ∃ t, execCacheFlush e c s = .next t ∧ Keeps z0 t := by
  unfold execCacheFlush
  refine ⟨_, rfl, ?_⟩
  try dsimp only
  repeat' first
    | with_reducible assumption
    | with_reducible apply keeps_synStep
    | with_reducible apply keeps_cacheFlushBody
    | (intro _; intros; try dsimp only)
    | split
    | (refine Keeps.of ?_; dsimp only; with_reducible refine Keeps.parts ?_)

theorem keeps_cacheCleanBody {z0 s : State} (h : Keeps z0 s) (e c : Nat) (w : SWord) :
    Keeps z0 (cacheCleanBody e c s w) := by
  unfold cacheCleanBody
  try dsimp only
  repeat' first
    | with_reducible assumption
    | with_reducible apply keeps_complete
    | with_reducible apply keeps_startClean
    | split
    | (refine Keeps.of ?_; dsimp only; with_reducible refine Keeps.parts ?_)

theorem keeps_execCacheClean {z0 s : State} (h : Keeps z0 s) (e c : Nat) :
    ∃ t, execCacheClean e c s = .next t ∧ Keeps z0 t := by
  unfold execCacheClean
  refine ⟨_, rfl, ?_⟩
  try dsimp only
  repeat' first
    | with_reducible assumption
    | with_reducible apply keeps_synStep
    | with_reducible apply keeps_cacheCleanBody
    | (intro _; intros; try dsimp only)
    | split
    | (refine Keeps.of ?_; dsimp only; with_reducible refine Keeps.parts ?_)

theorem keeps_cacheInvalBody {z0 s : State} (h : Keeps z0 s) (e c : Nat) (w : SWord) :
    Keeps z0 (cacheInvalBody e c s w) := by
  unfold cacheInvalBody
  try dsimp only
  repeat' first
    | with_reducible assumption
    | with_reducible apply keeps_complete
    | with_reducible apply keeps_onCache
    | with_reducible apply keeps_maintain
    | with_reducible apply keeps_suspend
    | split
    | (refine Keeps.of ?_; dsimp only; with_reducible refine Keeps.parts ?_)

theorem keeps_execCacheInval {z0 s : State} (h : Keeps z0 s) (e c : Nat) :
    ∃ t, execCacheInval e c s = .next t ∧ Keeps z0 t := by
  unfold execCacheInval
  refine ⟨_, rfl, ?_⟩
  try dsimp only
  repeat' first
    | with_reducible assumption
    | with_reducible apply keeps_synStep
    | with_reducible apply keeps_cacheInvalBody
    | (intro _; intros; try dsimp only)
    | split
    | (refine Keeps.of ?_; dsimp only; with_reducible refine Keeps.parts ?_)

theorem keeps_cacheZeroBody {z0 s : State} (h : Keeps z0 s) (e c : Nat) (dram : Dram) (w : SWord) :
    Keeps z0 (cacheZeroBody e c dram s w) := by
  unfold cacheZeroBody
  try dsimp only
  repeat' first
    | with_reducible assumption
    | with_reducible apply keeps_complete
    | with_reducible apply keeps_zeroNext
    | split
    | (refine Keeps.of ?_; dsimp only; with_reducible refine Keeps.parts ?_)

theorem keeps_execCacheZero {z0 s : State} (h : Keeps z0 s) (e c : Nat) (dram : Dram) :
    ∃ t, execCacheZero e c dram s = .next t ∧ Keeps z0 t := by
  unfold execCacheZero
  refine ⟨_, rfl, ?_⟩
  try dsimp only
  repeat' first
    | with_reducible assumption
    | with_reducible apply keeps_synStep
    | with_reducible apply keeps_cacheZeroBody
    | (intro _; intros; try dsimp only)
    | split
    | (refine Keeps.of ?_; dsimp only; with_reducible refine Keeps.parts ?_)

theorem keeps_execHFlushAll {z0 s : State} (h : Keeps z0 s) (e c : Nat) :
    ∃ t, execHFlushAll e c s = .next t ∧ Keeps z0 t := by
  unfold execHFlushAll
  refine ⟨_, rfl, ?_⟩
  try dsimp only
  repeat' first
    | with_reducible assumption
    | with_reducible apply keeps_houseStepOf
    | with_reducible apply keeps_startClean
    | (intro _; intros; try dsimp only)
    | split
    | (refine Keeps.of ?_; dsimp only; with_reducible refine Keeps.parts ?_)

end Sys2Proof.Laws
end

