-- ==== Sys2Proof/Laws/KeepsUnits.lean ====
section
/-! SUPPORT. What link, records, claims, media, keys, H.INIT and H.FORMAT keep (see Laws/Keeps.lean): one lemma per operation. -/

namespace Sys2Proof.Laws

open Sys2Proof Sys2Proof.Machine

/-! ## Machine/Link.lean -/

theorem keeps_orphanReqs {z0 s : State} (h : Keeps z0 s) (p : Nat) :
    Keeps z0 (orphanReqs s p) := by
  unfold orphanReqs
  try dsimp only
  repeat' first
    | with_reducible assumption
    | split
    | (refine Keeps.of ?_; dsimp only; with_reducible refine Keeps.parts ?_)

theorem keeps_dropLink {z0 s : State} (h : Keeps z0 s) (p : Nat) :
    Keeps z0 (dropLink s p) := by
  unfold dropLink
  try dsimp only
  repeat' first
    | with_reducible assumption
    | with_reducible apply keeps_orphanReqs
    | with_reducible apply keeps_closeSession
    | with_reducible apply keeps_updPort
    | with_reducible apply Keeps.foldl
    | with_reducible apply Keeps.foldlPair
    | (intro _; intros; try dsimp only)
    | split
    | (refine Keeps.of ?_; dsimp only; with_reducible refine Keeps.parts ?_)

theorem keeps_trainingPhaseDone {z0 s : State} (h : Keeps z0 s) (p : Nat) :
    Keeps z0 (trainingPhaseDone s p) := by
  unfold trainingPhaseDone
  try dsimp only
  repeat' first
    | with_reducible assumption
    | with_reducible apply keeps_updPort
    | split
    | (refine Keeps.of ?_; dsimp only; with_reducible refine Keeps.parts ?_)

theorem keeps_execTrainingPhaseDone {z0 s : State} (h : Keeps z0 s) (port : Nat) :
    ∃ t, execTrainingPhaseDone port s = .next t ∧ Keeps z0 t := by
  unfold execTrainingPhaseDone
  refine ⟨_, rfl, ?_⟩
  try dsimp only
  repeat' first
    | with_reducible assumption
    | with_reducible apply keeps_trainingPhaseDone
    | split
    | (refine Keeps.of ?_; dsimp only; with_reducible refine Keeps.parts ?_)

theorem keeps_trainingPhaseTimeout {z0 s : State} (h : Keeps z0 s) (p : Nat) :
    Keeps z0 (trainingPhaseTimeout s p) := by
  unfold trainingPhaseTimeout
  try dsimp only
  repeat' first
    | with_reducible assumption
    | with_reducible apply keeps_updPort
    | with_reducible apply keeps_record
    | with_reducible apply keeps_loseCapability
    | split
    | (refine Keeps.of ?_; dsimp only; with_reducible refine Keeps.parts ?_)

theorem keeps_execTrainingPhaseTimeout {z0 s : State} (h : Keeps z0 s) (port : Nat) :
    ∃ t, execTrainingPhaseTimeout port s = .next t ∧ Keeps z0 t := by
  unfold execTrainingPhaseTimeout
  refine ⟨_, rfl, ?_⟩
  try dsimp only
  repeat' first
    | with_reducible assumption
    | with_reducible apply keeps_trainingPhaseTimeout
    | split
    | (refine Keeps.of ?_; dsimp only; with_reducible refine Keeps.parts ?_)

theorem keeps_trainRetry {z0 s : State} (h : Keeps z0 s) (p : Nat) :
    Keeps z0 (trainRetry s p) := by
  unfold trainRetry
  try dsimp only
  repeat' first
    | with_reducible assumption
    | with_reducible apply keeps_updPort
    | split
    | (refine Keeps.of ?_; dsimp only; with_reducible refine Keeps.parts ?_)

theorem keeps_execTrainRetry {z0 s : State} (h : Keeps z0 s) (port : Nat) :
    ∃ t, execTrainRetry port s = .next t ∧ Keeps z0 t := by
  unfold execTrainRetry
  refine ⟨_, rfl, ?_⟩
  try dsimp only
  repeat' first
    | with_reducible assumption
    | with_reducible apply keeps_trainRetry
    | split
    | (refine Keeps.of ?_; dsimp only; with_reducible refine Keeps.parts ?_)

theorem keeps_trainDetected {z0 s : State} (h : Keeps z0 s) (p : Nat) :
    Keeps z0 (trainDetected s p) := by
  unfold trainDetected
  try dsimp only
  repeat' first
    | with_reducible assumption
    | with_reducible apply keeps_updPort
    | split
    | (refine Keeps.of ?_; dsimp only; with_reducible refine Keeps.parts ?_)

theorem keeps_execTrainDetected {z0 s : State} (h : Keeps z0 s) (port : Nat) :
    ∃ t, execTrainDetected port s = .next t ∧ Keeps z0 t := by
  unfold execTrainDetected
  refine ⟨_, rfl, ?_⟩
  try dsimp only
  repeat' first
    | with_reducible assumption
    | with_reducible apply keeps_trainDetected
    | split
    | (refine Keeps.of ?_; dsimp only; with_reducible refine Keeps.parts ?_)

theorem keeps_linkInit {z0 s : State} (h : Keeps z0 s) (p : Nat) (keep : Bool) (vc2 vc3 ack : Nat) :
    Keeps z0 (linkInit s p keep vc2 vc3 ack) := by
  unfold linkInit
  try dsimp only
  repeat' first
    | with_reducible assumption
    | with_reducible apply keeps_updPort
    | with_reducible apply keeps_openSession
    | with_reducible apply keeps_dropLink
    | split
    | (refine Keeps.of ?_; dsimp only; with_reducible refine Keeps.parts ?_)

theorem keeps_execLinkInit {z0 s : State} (h : Keeps z0 s) (port : Nat) (keep : Bool) (vc2 vc3 ack : Nat) :
    ∃ t, execLinkInit port keep vc2 vc3 ack s = .next t ∧ Keeps z0 t := by
  unfold execLinkInit
  refine ⟨_, rfl, ?_⟩
  try dsimp only
  repeat' first
    | with_reducible assumption
    | with_reducible apply keeps_linkInit
    | split
    | (refine Keeps.of ?_; dsimp only; with_reducible refine Keeps.parts ?_)

theorem keeps_downReceived {z0 s : State} (h : Keeps z0 s) (p reason : Nat) :
    Keeps z0 (downReceived s p reason) := by
  unfold downReceived
  try dsimp only
  repeat' first
    | with_reducible assumption
    | with_reducible apply keeps_updPort
    | split
    | (refine Keeps.of ?_; dsimp only; with_reducible refine Keeps.parts ?_)

theorem keeps_execDownReceived {z0 s : State} (h : Keeps z0 s) (port reason : Nat) :
    ∃ t, execDownReceived port reason s = .next t ∧ Keeps z0 t := by
  unfold execDownReceived
  refine ⟨_, rfl, ?_⟩
  try dsimp only
  repeat' first
    | with_reducible assumption
    | with_reducible apply keeps_downReceived
    | split
    | (refine Keeps.of ?_; dsimp only; with_reducible refine Keeps.parts ?_)

theorem keeps_keepWindowExpiry {z0 s : State} (h : Keeps z0 s) (p : Nat) :
    Keeps z0 (keepWindowExpiry s p) := by
  unfold keepWindowExpiry
  try dsimp only
  repeat' first
    | with_reducible assumption
    | with_reducible apply keeps_dropLink
    | split
    | (refine Keeps.of ?_; dsimp only; with_reducible refine Keeps.parts ?_)

theorem keeps_execKeepWindowExpiry {z0 s : State} (h : Keeps z0 s) (port : Nat) :
    ∃ t, execKeepWindowExpiry port s = .next t ∧ Keeps z0 t := by
  unfold execKeepWindowExpiry
  refine ⟨_, rfl, ?_⟩
  try dsimp only
  repeat' first
    | with_reducible assumption
    | with_reducible apply keeps_keepWindowExpiry
    | split
    | (refine Keeps.of ?_; dsimp only; with_reducible refine Keeps.parts ?_)

theorem keeps_creditBack {z0 s : State} (h : Keeps z0 s) (p vc n : Nat) :
    Keeps z0 (creditBack s p vc n) := by
  unfold creditBack
  try dsimp only
  repeat' first
    | with_reducible assumption
    | with_reducible apply keeps_updPort
    | split
    | (refine Keeps.of ?_; dsimp only; with_reducible refine Keeps.parts ?_)

theorem keeps_execCredit {z0 s : State} (h : Keeps z0 s) (port vc n : Nat) :
    ∃ t, execCredit port vc n s = .next t ∧ Keeps z0 t := by
  unfold execCredit
  refine ⟨_, rfl, ?_⟩
  try dsimp only
  repeat' first
    | with_reducible assumption
    | with_reducible apply keeps_creditBack
    | split
    | (refine Keeps.of ?_; dsimp only; with_reducible refine Keeps.parts ?_)

theorem keeps_creditReturnTimer {z0 s : State} (h : Keeps z0 s) (p vc : Nat) :
    Keeps z0 (creditReturnTimer s p vc) := by
  unfold creditReturnTimer
  try dsimp only
  repeat' first
    | with_reducible assumption
    | with_reducible apply keeps_updPort
    | split
    | (refine Keeps.of ?_; dsimp only; with_reducible refine Keeps.parts ?_)

theorem keeps_execCreditReturnTimer {z0 s : State} (h : Keeps z0 s) (port vc : Nat) :
    ∃ t, execCreditReturnTimer port vc s = .next t ∧ Keeps z0 t := by
  unfold execCreditReturnTimer
  refine ⟨_, rfl, ?_⟩
  try dsimp only
  repeat' first
    | with_reducible assumption
    | with_reducible apply keeps_creditReturnTimer
    | split
    | (refine Keeps.of ?_; dsimp only; with_reducible refine Keeps.parts ?_)

theorem keeps_skipSend {z0 s : State} (h : Keeps z0 s) (p : Nat) :
    Keeps z0 (skipSend s p) := by
  unfold skipSend
  try dsimp only
  repeat' first
    | with_reducible assumption
    | with_reducible apply keeps_updPort
    | split
    | (refine Keeps.of ?_; dsimp only; with_reducible refine Keeps.parts ?_)

theorem keeps_execSkipSend {z0 s : State} (h : Keeps z0 s) (port : Nat) :
    ∃ t, execSkipSend port s = .next t ∧ Keeps z0 t := by
  unfold execSkipSend
  refine ⟨_, rfl, ?_⟩
  try dsimp only
  repeat' first
    | with_reducible assumption
    | with_reducible apply keeps_skipSend
    | split
    | (refine Keeps.of ?_; dsimp only; with_reducible refine Keeps.parts ?_)

theorem keeps_replayAt {z0 s : State} (h : Keeps z0 s) (p seq : Nat) :
    Keeps z0 (replayAt s p seq) := by
  unfold replayAt
  try dsimp only
  repeat' first
    | with_reducible assumption
    | with_reducible apply keeps_count
    | with_reducible apply keeps_updPort
    | split
    | (refine Keeps.of ?_; dsimp only; with_reducible refine Keeps.parts ?_)

theorem keeps_nakReceived {z0 s : State} (h : Keeps z0 s) (p seq : Nat) :
    Keeps z0 (nakReceived s p seq) := by
  unfold nakReceived
  try dsimp only
  repeat' first
    | with_reducible assumption
    | with_reducible apply keeps_replayAt
    | split
    | (refine Keeps.of ?_; dsimp only; with_reducible refine Keeps.parts ?_)

theorem keeps_execNak {z0 s : State} (h : Keeps z0 s) (port expSeq : Nat) :
    ∃ t, execNak port expSeq s = .next t ∧ Keeps z0 t := by
  unfold execNak
  refine ⟨_, rfl, ?_⟩
  try dsimp only
  repeat' first
    | with_reducible assumption
    | with_reducible apply keeps_nakReceived
    | split
    | (refine Keeps.of ?_; dsimp only; with_reducible refine Keeps.parts ?_)

theorem keeps_replayTimeout {z0 s : State} (h : Keeps z0 s) (p : Nat) :
    Keeps z0 (replayTimeout s p) := by
  unfold replayTimeout
  try dsimp only
  repeat' first
    | with_reducible assumption
    | with_reducible apply keeps_replayAt
    | split
    | (refine Keeps.of ?_; dsimp only; with_reducible refine Keeps.parts ?_)

theorem keeps_execReplayTimeout {z0 s : State} (h : Keeps z0 s) (port : Nat) :
    ∃ t, execReplayTimeout port s = .next t ∧ Keeps z0 t := by
  unfold execReplayTimeout
  refine ⟨_, rfl, ?_⟩
  try dsimp only
  repeat' first
    | with_reducible assumption
    | with_reducible apply keeps_replayTimeout
    | split
    | (refine Keeps.of ?_; dsimp only; with_reducible refine Keeps.parts ?_)

theorem keeps_ackAdvanced {z0 s : State} (h : Keeps z0 s) (p ack : Nat) :
    Keeps z0 (ackAdvanced s p ack) := by
  unfold ackAdvanced
  try dsimp only
  repeat' first
    | with_reducible assumption
    | with_reducible apply keeps_updPort
    | split
    | (refine Keeps.of ?_; dsimp only; with_reducible refine Keeps.parts ?_)

theorem keeps_fecCount {z0 s : State} (h : Keeps z0 s) (p n : Nat) :
    Keeps z0 (fecCount s p n) := by
  unfold fecCount
  try dsimp only
  repeat' first
    | with_reducible assumption
    | with_reducible apply keeps_updPort
    | split
    | (refine Keeps.of ?_; dsimp only; with_reducible refine Keeps.parts ?_)

theorem keeps_execAckAdvanced {z0 s : State} (h : Keeps z0 s) (port ack corrected : Nat) :
    ∃ t, execAckAdvanced port ack corrected s = .next t ∧ Keeps z0 t := by
  unfold execAckAdvanced
  refine ⟨_, rfl, ?_⟩
  try dsimp only
  repeat' first
    | with_reducible assumption
    | with_reducible apply keeps_ackAdvanced
    | with_reducible apply keeps_fecCount
    | split
    | (refine Keeps.of ?_; dsimp only; with_reducible refine Keeps.parts ?_)

theorem keeps_badFlit {z0 s : State} (h : Keeps z0 s) (p : Nat) (why : BadFlit) :
    Keeps z0 (badFlit s p why) := by
  unfold badFlit
  try dsimp only
  repeat' first
    | with_reducible assumption
    | with_reducible apply keeps_updPort
    | split
    | (refine Keeps.of ?_; dsimp only; with_reducible refine Keeps.parts ?_)

theorem keeps_execBadFlit {z0 s : State} (h : Keeps z0 s) (port : Nat) (why : BadFlit) :
    ∃ t, execBadFlit port why s = .next t ∧ Keeps z0 t := by
  unfold execBadFlit
  refine ⟨_, rfl, ?_⟩
  try dsimp only
  repeat' first
    | with_reducible assumption
    | with_reducible apply keeps_badFlit
    | split
    | (refine Keeps.of ?_; dsimp only; with_reducible refine Keeps.parts ?_)

theorem keeps_nakRepeat {z0 s : State} (h : Keeps z0 s) (p : Nat) :
    Keeps z0 (nakRepeat s p) := by
  unfold nakRepeat
  try dsimp only
  repeat' first
    | with_reducible assumption
    | with_reducible apply keeps_updPort
    | split
    | (refine Keeps.of ?_; dsimp only; with_reducible refine Keeps.parts ?_)

theorem keeps_execNakRepeat {z0 s : State} (h : Keeps z0 s) (port : Nat) :
    ∃ t, execNakRepeat port s = .next t ∧ Keeps z0 t := by
  unfold execNakRepeat
  refine ⟨_, rfl, ?_⟩
  try dsimp only
  repeat' first
    | with_reducible assumption
    | with_reducible apply keeps_nakRepeat
    | split
    | (refine Keeps.of ?_; dsimp only; with_reducible refine Keeps.parts ?_)

theorem keeps_protocolError {z0 s : State} (h : Keeps z0 s) (p : Nat) :
    Keeps z0 (protocolError s p) := by
  unfold protocolError
  try dsimp only
  repeat' first
    | with_reducible assumption
    | with_reducible apply keeps_record
    | with_reducible apply keeps_updPort
    | split
    | (refine Keeps.of ?_; dsimp only; with_reducible refine Keeps.parts ?_)

theorem keeps_execProtocolError {z0 s : State} (h : Keeps z0 s) (port : Nat) :
    ∃ t, execProtocolError port s = .next t ∧ Keeps z0 t := by
  unfold execProtocolError
  refine ⟨_, rfl, ?_⟩
  try dsimp only
  repeat' first
    | with_reducible assumption
    | with_reducible apply keeps_protocolError
    | split
    | (refine Keeps.of ?_; dsimp only; with_reducible refine Keeps.parts ?_)

/-! ## Machine/Records.lean -/

theorem keeps_headerUpdate {z0 s : State} (h : Keeps z0 s) :
    Keeps z0 (headerUpdate s) := by
  unfold headerUpdate
  try dsimp only
  repeat' first
    | with_reducible assumption
    | with_reducible apply keeps_onRecs
    | split
    | (refine Keeps.of ?_; dsimp only; with_reducible refine Keeps.parts ?_)

theorem keeps_evtReadBody {z0 s : State} (h : Keeps z0 s) (e c : Nat) (w : SWord) :
    Keeps z0 (evtReadBody e c s w) := by
  unfold evtReadBody
  try dsimp only
  repeat' first
    | with_reducible assumption
    | with_reducible apply keeps_complete
    | with_reducible apply keeps_bufStore
    | split
    | (refine Keeps.of ?_; dsimp only; with_reducible refine Keeps.parts ?_)

theorem keeps_execEvtRead {z0 s : State} (h : Keeps z0 s) (e c : Nat) :
    ∃ t, execEvtRead e c s = .next t ∧ Keeps z0 t := by
  unfold execEvtRead
  refine ⟨_, rfl, ?_⟩
  try dsimp only
  repeat' first
    | with_reducible assumption
    | with_reducible apply keeps_synStep
    | with_reducible apply keeps_evtReadBody
    | (intro _; intros; try dsimp only)
    | split
    | (refine Keeps.of ?_; dsimp only; with_reducible refine Keeps.parts ?_)

theorem keeps_dumpTo {z0 s : State} (h : Keeps z0 s) (e c kind units : Nat) (body : List Byte) :
    Keeps z0 (dumpTo s e c kind units body) := by
  unfold dumpTo
  try dsimp only
  repeat' first
    | with_reducible assumption
    | with_reducible apply keeps_complete
    | with_reducible apply keeps_ringPut
    | with_reducible apply keeps_takeRes
    | split
    | (refine Keeps.of ?_; dsimp only; with_reducible refine Keeps.parts ?_)

theorem keeps_execEvtReadSnap {z0 s : State} (h : Keeps z0 s) (e c : Nat) :
    ∃ t, execEvtReadSnap e c s = .next t ∧ Keeps z0 t := by
  unfold execEvtReadSnap
  refine ⟨_, rfl, ?_⟩
  try dsimp only
  repeat' first
    | with_reducible assumption
    | with_reducible apply keeps_synStep
    | with_reducible apply keeps_dumpTo
    | (intro _; intros; try dsimp only)
    | split
    | (refine Keeps.of ?_; dsimp only; with_reducible refine Keeps.parts ?_)

theorem keeps_perfSet {z0 s : State} (hh : Keeps z0 s) (q h : Nat) (sel : List Nat) (periodic : Bool) (trig : Option Nat) :
    Keeps z0 (perfSet s q h sel periodic trig) := by
  unfold perfSet
  try dsimp only
  repeat' first
    | with_reducible assumption
    | with_reducible apply keeps_updQueue
    | with_reducible apply keeps_onRecs
    | split
    | (refine Keeps.of ?_; dsimp only; with_reducible refine Keeps.parts ?_)

theorem keeps_perfCfgBody {z0 s : State} (h : Keeps z0 s) (e c : Nat) (w : SWord) :
    Keeps z0 (perfCfgBody e c s w) := by
  unfold perfCfgBody
  try dsimp only
  repeat' first
    | with_reducible assumption
    | with_reducible apply keeps_complete
    | with_reducible apply keeps_perfSet
    | with_reducible apply keeps_takeRes
    | with_reducible apply Keeps.foldl
    | with_reducible apply Keeps.foldlPair
    | (intro _; intros; try dsimp only)
    | split
    | (refine Keeps.of ?_; dsimp only; with_reducible refine Keeps.parts ?_)

theorem keeps_execPerfCfg {z0 s : State} (h : Keeps z0 s) (e c : Nat) :
    ∃ t, execPerfCfg e c s = .next t ∧ Keeps z0 t := by
  unfold execPerfCfg
  refine ⟨_, rfl, ?_⟩
  try dsimp only
  repeat' first
    | with_reducible assumption
    | with_reducible apply keeps_synStep
    | with_reducible apply keeps_perfCfgBody
    | (intro _; intros; try dsimp only)
    | split
    | (refine Keeps.of ?_; dsimp only; with_reducible refine Keeps.parts ?_)

theorem keeps_execPerfDump {z0 s : State} (h : Keeps z0 s) (e c : Nat) :
    ∃ t, execPerfDump e c s = .next t ∧ Keeps z0 t := by
  unfold execPerfDump
  refine ⟨_, rfl, ?_⟩
  try dsimp only
  repeat' first
    | with_reducible assumption
    | with_reducible apply keeps_synStep
    | with_reducible apply keeps_dumpTo
    | (intro _; intros; try dsimp only)
    | split
    | (refine Keeps.of ?_; dsimp only; with_reducible refine Keeps.parts ?_)

theorem keeps_periodicDump {z0 s : State} (h : Keeps z0 s) :
    Keeps z0 (periodicDump s) := by
  unfold periodicDump
  try dsimp only
  repeat' first
    | with_reducible assumption
    | with_reducible apply keeps_ringPut
    | split
    | (refine Keeps.of ?_; dsimp only; with_reducible refine Keeps.parts ?_)

theorem keeps_execPeriodicDump {z0 s : State} (h : Keeps z0 s) :
    ∃ t, execPeriodicDump s = .next t ∧ Keeps z0 t := by
  unfold execPeriodicDump
  refine ⟨_, rfl, ?_⟩
  try dsimp only
  repeat' first
    | with_reducible assumption
    | with_reducible apply keeps_periodicDump
    | split
    | (refine Keeps.of ?_; dsimp only; with_reducible refine Keeps.parts ?_)

theorem keeps_nvAppend {z0 s : State} (h : Keeps z0 s) (kind id : Nat) (data : List Byte) :
    Keeps z0 (nvAppend s kind id data) := by
  unfold nvAppend
  try dsimp only
  repeat' first
    | with_reducible assumption
    | with_reducible apply keeps_onRecs
    | split
    | (refine Keeps.of ?_; dsimp only; with_reducible refine Keeps.parts ?_)

theorem keeps_noteRejected {z0 s : State} (h : Keeps z0 s) (id : Nat) :
    Keeps z0 (noteRejected s id) := by
  unfold noteRejected
  try dsimp only
  repeat' first
    | with_reducible assumption
    | with_reducible apply keeps_record
    | with_reducible apply keeps_onRecs
    | with_reducible apply Keeps.foldl
    | with_reducible apply Keeps.foldlPair
    | (intro _; intros; try dsimp only)
    | split
    | (refine Keeps.of ?_; dsimp only; with_reducible refine Keeps.parts ?_)

theorem keeps_nvDue {z0 s : State} (h : Keeps z0 s) :
    Keeps z0 (nvDue s) := by
  unfold nvDue
  try dsimp only
  repeat' first
    | with_reducible assumption
    | with_reducible apply keeps_onRecs
    | split
    | (refine Keeps.of ?_; dsimp only; with_reducible refine Keeps.parts ?_)

theorem keeps_nvPutBody {z0 s : State} (h : Keeps z0 s) (e c : Nat) (w : SWord) :
    Keeps z0 (nvPutBody e c s w) := by
  unfold nvPutBody
  try dsimp only
  repeat' first
    | with_reducible assumption
    | with_reducible apply keeps_complete
    | with_reducible apply keeps_nvDue
    | with_reducible apply keeps_nvAppend
    | split
    | (refine Keeps.of ?_; dsimp only; with_reducible refine Keeps.parts ?_)

theorem keeps_execNvPut {z0 s : State} (h : Keeps z0 s) (e c : Nat) :
    ∃ t, execNvPut e c s = .next t ∧ Keeps z0 t := by
  unfold execNvPut
  refine ⟨_, rfl, ?_⟩
  try dsimp only
  repeat' first
    | with_reducible assumption
    | with_reducible apply keeps_synStep
    | with_reducible apply keeps_nvPutBody
    | (intro _; intros; try dsimp only)
    | split
    | (refine Keeps.of ?_; dsimp only; with_reducible refine Keeps.parts ?_)

theorem keeps_nvGetBody {z0 s0 : State} (h : Keeps z0 s0) (e c : Nat) (w : SWord) :
    Keeps z0 (nvGetBody e c s0 w) := by
  unfold nvGetBody
  try dsimp only
  repeat' first
    | with_reducible assumption
    | with_reducible apply keeps_noteRejected
    | with_reducible apply keeps_complete
    | with_reducible apply keeps_completeD
    | with_reducible apply keeps_bufStore
    | split
    | (refine Keeps.of ?_; dsimp only; with_reducible refine Keeps.parts ?_)

theorem keeps_execNvGet {z0 s : State} (h : Keeps z0 s) (e c : Nat) :
    ∃ t, execNvGet e c s = .next t ∧ Keeps z0 t := by
  unfold execNvGet
  refine ⟨_, rfl, ?_⟩
  try dsimp only
  repeat' first
    | with_reducible assumption
    | with_reducible apply keeps_synStep
    | with_reducible apply keeps_nvGetBody
    | (intro _; intros; try dsimp only)
    | split
    | (refine Keeps.of ?_; dsimp only; with_reducible refine Keeps.parts ?_)

theorem keeps_nvCompaction {z0 s : State} (h : Keeps z0 s) (area : Nat) :
    Keeps z0 (nvCompaction s area) := by
  unfold nvCompaction
  try dsimp only
  repeat' first
    | with_reducible assumption
    | with_reducible apply keeps_nvAppend
    | with_reducible apply keeps_nvDue
    | with_reducible apply keeps_onRecs
    | with_reducible apply Keeps.foldl
    | with_reducible apply Keeps.foldlPair
    | (intro _; intros; try dsimp only)
    | split
    | (refine Keeps.of ?_; dsimp only; with_reducible refine Keeps.parts ?_)

theorem keeps_execNvCompaction {z0 s : State} (h : Keeps z0 s) (area : Nat) :
    ∃ t, execNvCompaction area s = .next t ∧ Keeps z0 t := by
  unfold execNvCompaction
  refine ⟨_, rfl, ?_⟩
  try dsimp only
  repeat' first
    | with_reducible assumption
    | with_reducible apply keeps_nvCompaction
    | split
    | (refine Keeps.of ?_; dsimp only; with_reducible refine Keeps.parts ?_)

theorem keeps_countPower {z0 s : State} (h : Keeps z0 s) (cellFails : Bool) :
    Keeps z0 (countPower s cellFails) := by
  unfold countPower
  try dsimp only
  repeat' first
    | with_reducible assumption
    | with_reducible apply keeps_nvAppend
    | with_reducible apply keeps_onRecs
    | with_reducible apply keeps_headerUpdate
    | split
    | (refine Keeps.of ?_; dsimp only; with_reducible refine Keeps.parts ?_)

theorem keeps_nvAbandon {z0 s : State} (h : Keeps z0 s) (x : Nat × Nat × List Byte) :
    Keeps z0 (nvAbandon s x) := by
  unfold nvAbandon
  try dsimp only
  repeat' first
    | with_reducible assumption
    | with_reducible apply keeps_burn
    | with_reducible apply keeps_nvAppend
    | with_reducible apply keeps_onRecs
    | split
    | (refine Keeps.of ?_; dsimp only; with_reducible refine Keeps.parts ?_)

theorem keeps_saveRecords {z0 s : State} (h : Keeps z0 s) (n : Nat) :
    Keeps z0 (saveRecords s n) := by
  unfold saveRecords
  try dsimp only
  repeat' first
    | with_reducible assumption
    | with_reducible apply keeps_nvAppend
    | with_reducible apply keeps_nvAbandon
    | with_reducible apply keeps_headerUpdate
    | with_reducible apply keeps_onRecs
    | with_reducible apply Keeps.foldl
    | with_reducible apply Keeps.foldlPair
    | (intro _; intros; try dsimp only)
    | split
    | (refine Keeps.of ?_; dsimp only; with_reducible refine Keeps.parts ?_)

theorem keeps_norScan {z0 s : State} (h : Keeps z0 s) (usable : Bool) (lost : List (Nat × Nat)) (differ : List Nat) :
    Keeps z0 (norScan s usable lost differ) := by
  unfold norScan
  try dsimp only
  repeat' first
    | with_reducible assumption
    | with_reducible apply keeps_onRecs
    | split
    | (refine Keeps.of ?_; dsimp only; with_reducible refine Keeps.parts ?_)

theorem keeps_loadClock {z0 s0 : State} (h : Keeps z0 s0) :
    Keeps z0 (loadClock s0) := by
  unfold loadClock
  try dsimp only
  repeat' first
    | with_reducible assumption
    | with_reducible apply keeps_noteRejected
    | with_reducible apply keeps_onRecs
    | split
    | (refine Keeps.of ?_; dsimp only; with_reducible refine Keeps.parts ?_)

theorem keeps_raiseClock {z0 s : State} (h : Keeps z0 s) :
    Keeps z0 (raiseClock s) := by
  unfold raiseClock
  try dsimp only
  repeat' first
    | with_reducible assumption
    | with_reducible apply keeps_onRecs
    | with_reducible apply Keeps.foldl
    | with_reducible apply Keeps.foldlPair
    | (intro _; intros; try dsimp only)
    | split
    | (refine Keeps.of ?_; dsimp only; with_reducible refine Keeps.parts ?_)

theorem keeps_reloadRecorder {z0 s : State} (h : Keeps z0 s) :
    Keeps z0 (reloadRecorder s) := by
  unfold reloadRecorder
  try dsimp only
  repeat' first
    | with_reducible assumption
    | with_reducible apply keeps_onRecs
    | with_reducible apply keeps_count
    | with_reducible apply keeps_record
    | with_reducible apply keeps_noteRejected
    | with_reducible apply keeps_nvDue
    | with_reducible apply keeps_onGoose
    | with_reducible apply Keeps.foldl
    | with_reducible apply Keeps.foldlPair
    | (intro _; intros; try dsimp only)
    | split
    | (refine Keeps.of ?_; dsimp only; with_reducible refine Keeps.parts ?_)

/-! ## Machine/System.lean -/

theorem keeps_abortWaiters {z0 s : State} (h : Keeps z0 s) (r : Nat) :
    Keeps z0 (abortWaiters s r) := by
  unfold abortWaiters
  try dsimp only
  repeat' first
    | with_reducible assumption
    | with_reducible apply keeps_resumeAll
    | split
    | (refine Keeps.of ?_; dsimp only; with_reducible refine Keeps.parts ?_)

theorem keeps_claimBody {z0 s : State} (h : Keeps z0 s) (e c : Nat) (w : SWord) :
    Keeps z0 (claimBody e c s w) := by
  unfold claimBody
  try dsimp only
  repeat' first
    | with_reducible assumption
    | with_reducible apply keeps_complete
    | with_reducible apply keeps_takeRes
    | split
    | (refine Keeps.of ?_; dsimp only; with_reducible refine Keeps.parts ?_)

theorem keeps_execClaim {z0 s : State} (h : Keeps z0 s) (e c : Nat) :
    ∃ t, execClaim e c s = .next t ∧ Keeps z0 t := by
  unfold execClaim
  refine ⟨_, rfl, ?_⟩
  try dsimp only
  repeat' first
    | with_reducible assumption
    | with_reducible apply keeps_synStep
    | with_reducible apply keeps_claimBody
    | (intro _; intros; try dsimp only)
    | split
    | (refine Keeps.of ?_; dsimp only; with_reducible refine Keeps.parts ?_)

theorem keeps_preempt {z0 s : State} (h : Keeps z0 s) (e q r holder : Nat) :
    Keeps z0 (preempt s e q r holder) := by
  unfold preempt
  try dsimp only
  repeat' first
    | with_reducible assumption
    | with_reducible apply keeps_freeClaim
    | with_reducible apply keeps_abortWaiters
    | with_reducible apply keeps_onRecs
    | with_reducible apply keeps_onGoose
    | with_reducible apply keeps_record
    | with_reducible apply keeps_notify
    | with_reducible apply keeps_claimFor
    | split
    | (refine Keeps.of ?_; dsimp only; with_reducible refine Keeps.parts ?_)

theorem keeps_claimForceBody {z0 s : State} (h : Keeps z0 s) (e c : Nat) (w : SWord) :
    Keeps z0 (claimForceBody e c s w) := by
  unfold claimForceBody
  try dsimp only
  repeat' first
    | with_reducible assumption
    | with_reducible apply keeps_complete
    | with_reducible apply keeps_takeRes
    | with_reducible apply keeps_preempt
    | split
    | (refine Keeps.of ?_; dsimp only; with_reducible refine Keeps.parts ?_)

theorem keeps_execClaimForce {z0 s : State} (h : Keeps z0 s) (e c : Nat) :
    ∃ t, execClaimForce e c s = .next t ∧ Keeps z0 t := by
  unfold execClaimForce
  refine ⟨_, rfl, ?_⟩
  try dsimp only
  repeat' first
    | with_reducible assumption
    | with_reducible apply keeps_synStep
    | with_reducible apply keeps_claimForceBody
    | (intro _; intros; try dsimp only)
    | split
    | (refine Keeps.of ?_; dsimp only; with_reducible refine Keeps.parts ?_)

theorem keeps_freeBody {z0 s : State} (h : Keeps z0 s) (e c : Nat) (w : SWord) :
    Keeps z0 (freeBody e c s w) := by
  unfold freeBody
  try dsimp only
  repeat' first
    | with_reducible assumption
    | with_reducible apply keeps_complete
    | with_reducible apply keeps_freeClaim
    | with_reducible apply keeps_abortWaiters
    | split
    | (refine Keeps.of ?_; dsimp only; with_reducible refine Keeps.parts ?_)

theorem keeps_execFree {z0 s : State} (h : Keeps z0 s) (e c : Nat) :
    ∃ t, execFree e c s = .next t ∧ Keeps z0 t := by
  unfold execFree
  refine ⟨_, rfl, ?_⟩
  try dsimp only
  repeat' first
    | with_reducible assumption
    | with_reducible apply keeps_synStep
    | with_reducible apply keeps_freeBody
    | (intro _; intros; try dsimp only)
    | split
    | (refine Keeps.of ?_; dsimp only; with_reducible refine Keeps.parts ?_)

theorem keeps_railCfgBody {z0 s : State} (h : Keeps z0 s) (e c : Nat) (w : SWord) :
    Keeps z0 (railCfgBody e c s w) := by
  unfold railCfgBody
  try dsimp only
  repeat' first
    | with_reducible assumption
    | with_reducible apply keeps_complete
    | with_reducible apply keeps_takeRes
    | with_reducible apply keeps_onGoose
    | split
    | (refine Keeps.of ?_; dsimp only; with_reducible refine Keeps.parts ?_)

theorem keeps_execRailCfg {z0 s : State} (h : Keeps z0 s) (e c : Nat) :
    ∃ t, execRailCfg e c s = .next t ∧ Keeps z0 t := by
  unfold execRailCfg
  refine ⟨_, rfl, ?_⟩
  try dsimp only
  repeat' first
    | with_reducible assumption
    | with_reducible apply keeps_synStep
    | with_reducible apply keeps_railCfgBody
    | (intro _; intros; try dsimp only)
    | split
    | (refine Keeps.of ?_; dsimp only; with_reducible refine Keeps.parts ?_)

theorem keeps_thermCfgBody {z0 s : State} (h : Keeps z0 s) (e c : Nat) (w : SWord) :
    Keeps z0 (thermCfgBody e c s w) := by
  unfold thermCfgBody
  try dsimp only
  repeat' first
    | with_reducible assumption
    | with_reducible apply keeps_complete
    | with_reducible apply keeps_takeRes
    | with_reducible apply keeps_onGoose
    | with_reducible apply Keeps.foldl
    | with_reducible apply Keeps.foldlPair
    | (intro _; intros; try dsimp only)
    | split
    | (refine Keeps.of ?_; dsimp only; with_reducible refine Keeps.parts ?_)

theorem keeps_execThermCfg {z0 s : State} (h : Keeps z0 s) (e c : Nat) :
    ∃ t, execThermCfg e c s = .next t ∧ Keeps z0 t := by
  unfold execThermCfg
  refine ⟨_, rfl, ?_⟩
  try dsimp only
  repeat' first
    | with_reducible assumption
    | with_reducible apply keeps_synStep
    | with_reducible apply keeps_thermCfgBody
    | (intro _; intros; try dsimp only)
    | split
    | (refine Keeps.of ?_; dsimp only; with_reducible refine Keeps.parts ?_)

theorem keeps_resetPortBody {z0 s : State} (h : Keeps z0 s) (e c : Nat) (w : SWord) :
    Keeps z0 (resetPortBody e c s w) := by
  unfold resetPortBody
  try dsimp only
  repeat' first
    | with_reducible assumption
    | with_reducible apply keeps_complete
    | with_reducible apply keeps_closeSession
    | with_reducible apply keeps_updPort
    | with_reducible apply Keeps.foldl
    | with_reducible apply Keeps.foldlPair
    | (intro _; intros; try dsimp only)
    | split
    | (refine Keeps.of ?_; dsimp only; with_reducible refine Keeps.parts ?_)

theorem keeps_execResetKind1 {z0 s : State} (h : Keeps z0 s) (e c : Nat) :
    ∃ t, execResetKind1 e c s = .next t ∧ Keeps z0 t := by
  unfold execResetKind1
  refine ⟨_, rfl, ?_⟩
  try dsimp only
  repeat' first
    | with_reducible assumption
    | with_reducible apply keeps_synStep
    | with_reducible apply keeps_resetPortBody
    | (intro _; intros; try dsimp only)
    | split
    | (refine Keeps.of ?_; dsimp only; with_reducible refine Keeps.parts ?_)

theorem keeps_abortCtx {z0 s : State} (h : Keeps z0 s) (e c : Nat) :
    Keeps z0 (abortCtx s e c) := by
  unfold abortCtx
  try dsimp only
  repeat' first
    | with_reducible assumption
    | with_reducible apply keeps_dropReqs
    | with_reducible apply keeps_updCtx
    | split
    | (refine Keeps.of ?_; dsimp only; with_reducible refine Keeps.parts ?_)

theorem keeps_resetEngineBody {z0 s : State} (h : Keeps z0 s) (e c : Nat) (w : SWord) :
    Keeps z0 (resetEngineBody e c s w) := by
  unfold resetEngineBody
  try dsimp only
  repeat' first
    | with_reducible assumption
    | with_reducible apply keeps_complete
    | with_reducible apply keeps_abortCtx
    | with_reducible apply Keeps.foldl
    | with_reducible apply Keeps.foldlPair
    | (intro _; intros; try dsimp only)
    | split
    | (refine Keeps.of ?_; dsimp only; with_reducible refine Keeps.parts ?_)

theorem keeps_execResetKind2 {z0 s : State} (h : Keeps z0 s) (e c : Nat) :
    ∃ t, execResetKind2 e c s = .next t ∧ Keeps z0 t := by
  unfold execResetKind2
  refine ⟨_, rfl, ?_⟩
  try dsimp only
  repeat' first
    | with_reducible assumption
    | with_reducible apply keeps_synStep
    | with_reducible apply keeps_resetEngineBody
    | (intro _; intros; try dsimp only)
    | split
    | (refine Keeps.of ?_; dsimp only; with_reducible refine Keeps.parts ?_)

/-! ## Machine/Media.lean -/

theorem keeps_rawDram {z0 s : State} (h : Keeps z0 s) (e c b : Nat) (t : RawTarget) (decode : Bool) :
    Keeps z0 (rawDram s e c b t decode) := by
  unfold rawDram
  try dsimp only
  repeat' first
    | with_reducible assumption
    | with_reducible apply keeps_complete
    | with_reducible apply keeps_bufStore
    | split
    | (refine Keeps.of ?_; dsimp only; with_reducible refine Keeps.parts ?_)

theorem keeps_rawMedium {z0 s : State} (h : Keeps z0 s) (e c b : Nat) (t : RawTarget) (decode : Bool) (recno : Nat) :
    Keeps z0 (rawMedium s e c b t decode recno) := by
  unfold rawMedium
  try dsimp only
  repeat' first
    | with_reducible assumption
    | with_reducible apply keeps_complete
    | with_reducible apply keeps_burn
    | with_reducible apply keeps_count
    | with_reducible apply keeps_bufStore
    | split
    | (refine Keeps.of ?_; dsimp only; with_reducible refine Keeps.parts ?_)

theorem keeps_mediaRawrdBody {z0 s : State} (h : Keeps z0 s) (e c : Nat) (w : SWord) :
    Keeps z0 (mediaRawrdBody e c s w) := by
  unfold mediaRawrdBody
  try dsimp only
  repeat' first
    | with_reducible assumption
    | with_reducible apply keeps_complete
    | with_reducible apply keeps_rawDram
    | with_reducible apply keeps_rawMedium
    | split
    | (refine Keeps.of ?_; dsimp only; with_reducible refine Keeps.parts ?_)

theorem keeps_execMediaRawrd {z0 s : State} (h : Keeps z0 s) (e c : Nat) :
    ∃ t, execMediaRawrd e c s = .next t ∧ Keeps z0 t := by
  unfold execMediaRawrd
  refine ⟨_, rfl, ?_⟩
  try dsimp only
  repeat' first
    | with_reducible assumption
    | with_reducible apply keeps_synStep
    | with_reducible apply keeps_mediaRawrdBody
    | (intro _; intros; try dsimp only)
    | split
    | (refine Keeps.of ?_; dsimp only; with_reducible refine Keeps.parts ?_)

theorem keeps_scratchClear {z0 s : State} (h : Keeps z0 s) (ch : Nat) :
    Keeps z0 (scratchClear s ch) := by
  unfold scratchClear
  try dsimp only
  repeat' first
    | with_reducible assumption
    | with_reducible apply keeps_count
    | with_reducible apply keeps_sampleFree
    | with_reducible apply keeps_onMedium
    | with_reducible apply keeps_updChan
    | split
    | (refine Keeps.of ?_; dsimp only; with_reducible refine Keeps.parts ?_)

theorem keeps_rawProgram {z0 s : State} (h : Keeps z0 s) (e c b : Nat) (t : RawTarget) (clr : Bool) :
    Keeps z0 (rawProgram s e c b t clr) := by
  unfold rawProgram
  try dsimp only
  repeat' first
    | with_reducible assumption
    | with_reducible apply keeps_complete
    | with_reducible apply keeps_scratchClear
    | with_reducible apply keeps_updChan
    | with_reducible apply keeps_count
    | with_reducible apply keeps_sampleFree
    | split
    | (refine Keeps.of ?_; dsimp only; with_reducible refine Keeps.parts ?_)

theorem keeps_rawWord {z0 s : State} (h : Keeps z0 s) (e c b : Nat) (t : RawTarget) :
    Keeps z0 (rawWord s e c b t) := by
  unfold rawWord
  try dsimp only
  repeat' first
    | with_reducible assumption
    | with_reducible apply keeps_complete
    | with_reducible apply keeps_onMedium
    | split
    | (refine Keeps.of ?_; dsimp only; with_reducible refine Keeps.parts ?_)

theorem keeps_mediaRawwrBody {z0 s : State} (h : Keeps z0 s) (e c : Nat) (w : SWord) :
    Keeps z0 (mediaRawwrBody e c s w) := by
  unfold mediaRawwrBody
  try dsimp only
  repeat' first
    | with_reducible assumption
    | with_reducible apply keeps_complete
    | with_reducible apply keeps_rawWord
    | with_reducible apply keeps_rawProgram
    | split
    | (refine Keeps.of ?_; dsimp only; with_reducible refine Keeps.parts ?_)

theorem keeps_execMediaRawwr {z0 s : State} (h : Keeps z0 s) (e c : Nat) :
    ∃ t, execMediaRawwr e c s = .next t ∧ Keeps z0 t := by
  unfold execMediaRawwr
  refine ⟨_, rfl, ?_⟩
  try dsimp only
  repeat' first
    | with_reducible assumption
    | with_reducible apply keeps_synStep
    | with_reducible apply keeps_mediaRawwrBody
    | (intro _; intros; try dsimp only)
    | split
    | (refine Keeps.of ?_; dsimp only; with_reducible refine Keeps.parts ?_)

theorem keeps_mediaRetireBody {z0 s : State} (h : Keeps z0 s) (e c : Nat) (w : SWord) :
    Keeps z0 (mediaRetireBody e c s w) := by
  unfold mediaRetireBody
  try dsimp only
  repeat' first
    | with_reducible assumption
    | with_reducible apply keeps_count
    | with_reducible apply keeps_complete
    | with_reducible apply keeps_suspend
    | with_reducible apply keeps_closeOpen
    | with_reducible apply keeps_onMedium
    | split
    | (refine Keeps.of ?_; dsimp only; with_reducible refine Keeps.parts ?_)

theorem keeps_execMediaRetire {z0 s : State} (h : Keeps z0 s) (e c : Nat) :
    ∃ t, execMediaRetire e c s = .next t ∧ Keeps z0 t := by
  unfold execMediaRetire
  refine ⟨_, rfl, ?_⟩
  try dsimp only
  repeat' first
    | with_reducible assumption
    | with_reducible apply keeps_synStep
    | with_reducible apply keeps_mediaRetireBody
    | (intro _; intros; try dsimp only)
    | split
    | (refine Keeps.of ?_; dsimp only; with_reducible refine Keeps.parts ?_)

theorem keeps_scrubLine {z0 : State} {acc : State × ScrubSum × Bool} (h : Keeps z0 acc.1) (found : List (Nat × Decoded))
    (ppn page j : Nat) : Keeps z0 (scrubLine found ppn page acc j).1 := by
  unfold scrubLine
  dsimp only
  repeat' first
    | with_reducible assumption
    | with_reducible apply keeps_scrubAct
    | with_reducible apply keeps_slotRead
    | split

theorem keeps_scrubPage {z0 : State} {acc : State × ScrubSum} (h : Keeps z0 acc.1) (w : ScrubFinds) (page : Nat) :
    Keeps z0 (scrubPage w acc page).1 := by
  obtain ⟨s, a⟩ := acc
  have k : Keeps z0 ((List.range 16).foldl (scrubLine w.found (s.mapEntry page) page) (houseRead s (s.mapEntry page), a, false)).1 :=
    Keeps.foldlPair (keeps_houseRead h _) (fun q x hq => keeps_scrubLine hq w.found _ page x)
  revert k
  unfold scrubPage
  dsimp only
  generalize (List.range 16).foldl (scrubLine w.found (s.mapEntry page) page) (houseRead s (s.mapEntry page), a, false) = y
  intro k
  repeat' split
  all_goals first
    | exact h
    | exact keeps_scrubFrame k _ _

theorem keeps_scrubRange {z0 s : State} (h : Keeps z0 s) (e c : Nat) (w : ScrubFinds) (us : Nat) (va vb vc : W64) :
    Keeps z0 (scrubRange e c w us s va vb vc) := by
  have k : ∀ l : List Nat, Keeps z0 (l.foldl (scrubPage w) (s, {})).1 :=
    fun l => Keeps.foldlPair h (fun q x hq => keeps_scrubPage hq w x)
  unfold scrubRange
  dsimp only
  repeat' first
    | with_reducible assumption
    | with_reducible apply k
    | with_reducible apply keeps_complete
    | with_reducible apply keeps_bufStore
    | split
    | (refine Keeps.of ?_; dsimp only; with_reducible refine Keeps.parts ?_)

theorem keeps_execScrubRange {z0 s : State} (h : Keeps z0 s) (e c : Nat) (found : List (Nat × Decoded)) (badHeaders : List Nat) (shifts : List (Nat × Nat)) (us : Nat) :
    ∃ t, execScrubRange e c found badHeaders shifts us s = .next t ∧ Keeps z0 t := by
  unfold execScrubRange
  refine ⟨_, rfl, ?_⟩
  try dsimp only
  repeat' first
    | with_reducible assumption
    | with_reducible apply keeps_synStep
    | with_reducible apply keeps_scrubRange
    | (intro _; intros; try dsimp only)
    | split
    | (refine Keeps.of ?_; dsimp only; with_reducible refine Keeps.parts ?_)

theorem keeps_execHScrubRange {z0 s : State} (h : Keeps z0 s) (e c : Nat) (found : List (Nat × Decoded)) (badHeaders : List Nat) (shifts : List (Nat × Nat)) (us : Nat) :
    ∃ t, execHScrubRange e c found badHeaders shifts us s = .next t ∧ Keeps z0 t := by
  unfold execHScrubRange
  refine ⟨_, rfl, ?_⟩
  try dsimp only
  repeat' first
    | with_reducible assumption
    | with_reducible apply keeps_houseStepOf
    | with_reducible apply keeps_complete
    | with_reducible apply keeps_scrubRange
    | (intro _; intros; try dsimp only)
    | split
    | (refine Keeps.of ?_; dsimp only; with_reducible refine Keeps.parts ?_)

theorem keeps_calLoad {z0 s : State} (h : Keeps z0 s) (ch : Nat) :
    Keeps z0 (calLoad s ch) := by
  unfold calLoad
  try dsimp only
  repeat' first
    | with_reducible assumption
    | with_reducible apply keeps_burn
    | with_reducible apply keeps_onMedium
    | with_reducible apply keeps_updChan
    | with_reducible apply keeps_count
    | with_reducible apply keeps_sampleFree
    | split
    | (refine Keeps.of ?_; dsimp only; with_reducible refine Keeps.parts ?_)

theorem keeps_startCal {z0 s : State} (h : Keeps z0 s) (chans ports : List Nat) :
    Keeps z0 (startCal s chans ports) := by
  unfold startCal
  try dsimp only
  repeat' first
    | with_reducible assumption
    | with_reducible apply keeps_calLoad
    | with_reducible apply keeps_onMedium
    | with_reducible apply Keeps.foldl
    | with_reducible apply Keeps.foldlPair
    | (intro _; intros; try dsimp only)
    | split
    | (refine Keeps.of ?_; dsimp only; with_reducible refine Keeps.parts ?_)

theorem keeps_calAll {z0 s : State} (h : Keeps z0 s) :
    Keeps z0 (calAll s) := by
  unfold calAll
  try dsimp only
  repeat' first
    | with_reducible assumption
    | with_reducible apply keeps_startCal
    | with_reducible apply keeps_onMedium
    | split
    | (refine Keeps.of ?_; dsimp only; with_reducible refine Keeps.parts ?_)

theorem keeps_execCalibrationStart {z0 s : State} (h : Keeps z0 s) :
    ∃ t, execCalibrationStart s = .next t ∧ Keeps z0 t := by
  unfold execCalibrationStart
  refine ⟨_, rfl, ?_⟩
  try dsimp only
  repeat' first
    | with_reducible assumption
    | with_reducible apply keeps_calAll
    | split
    | (refine Keeps.of ?_; dsimp only; with_reducible refine Keeps.parts ?_)

theorem keeps_execPeriodicCalibration {z0 s : State} (h : Keeps z0 s) :
    ∃ t, execPeriodicCalibration s = .next t ∧ Keeps z0 t := by
  unfold execPeriodicCalibration
  refine ⟨_, rfl, ?_⟩
  try dsimp only
  repeat' first
    | with_reducible assumption
    | with_reducible apply keeps_calAll
    | split
    | (refine Keeps.of ?_; dsimp only; with_reducible refine Keeps.parts ?_)

theorem keeps_allLoaded {z0 s : State} (h : Keeps z0 s) :
    Keeps z0 (allLoaded s) := by
  unfold allLoaded
  try dsimp only
  repeat' first
    | with_reducible assumption
    | with_reducible apply keeps_notifyCommit
    | with_reducible apply Keeps.foldl
    | with_reducible apply Keeps.foldlPair
    | (intro _; intros; try dsimp only)
    | split
    | (refine Keeps.of ?_; dsimp only; with_reducible refine Keeps.parts ?_)

theorem keeps_calReport {z0 s : State} (h : Keeps z0 s) (isPort : Bool) (unit : Nat) (loaded : Bool) :
    Keeps z0 (calReport s isPort unit loaded) := by
  unfold calReport
  try dsimp only
  repeat' first
    | with_reducible assumption
    | with_reducible apply keeps_complete
    | with_reducible apply keeps_updCtx
    | with_reducible apply Keeps.foldl
    | with_reducible apply Keeps.foldlPair
    | (intro _; intros; try dsimp only)
    | split
    | (refine Keeps.of ?_; dsimp only; with_reducible refine Keeps.parts ?_)

theorem keeps_calibrationDone {z0 s : State} (h : Keeps z0 s) (isPort : Bool) (unit : Nat) (loaded : Bool) :
    Keeps z0 (calibrationDone s isPort unit loaded) := by
  unfold calibrationDone
  try dsimp only
  repeat' first
    | with_reducible assumption
    | with_reducible apply keeps_onMedium
    | with_reducible apply keeps_updPort
    | with_reducible apply keeps_updChan
    | with_reducible apply keeps_loseCapability
    | with_reducible apply keeps_record
    | with_reducible apply keeps_calReport
    | with_reducible apply keeps_allLoaded
    | split
    | (refine Keeps.of ?_; dsimp only; with_reducible refine Keeps.parts ?_)

theorem keeps_execCalibrationDone {z0 s : State} (h : Keeps z0 s) (isPort : Bool) (unit : Nat) (loaded : Bool) :
    ∃ t, execCalibrationDone isPort unit loaded s = .next t ∧ Keeps z0 t := by
  unfold execCalibrationDone
  refine ⟨_, rfl, ?_⟩
  try dsimp only
  repeat' first
    | with_reducible assumption
    | with_reducible apply keeps_calibrationDone
    | split
    | (refine Keeps.of ?_; dsimp only; with_reducible refine Keeps.parts ?_)

theorem keeps_calRunBody {z0 s : State} (h : Keeps z0 s) (e c : Nat) (w : SWord) :
    Keeps z0 (calRunBody e c s w) := by
  unfold calRunBody
  try dsimp only
  repeat' first
    | with_reducible assumption
    | with_reducible apply keeps_complete
    | with_reducible apply keeps_suspend
    | with_reducible apply keeps_startCal
    | with_reducible apply keeps_updCtx
    | split
    | (refine Keeps.of ?_; dsimp only; with_reducible refine Keeps.parts ?_)

theorem keeps_execCalRun {z0 s : State} (h : Keeps z0 s) (e c : Nat) :
    ∃ t, execCalRun e c s = .next t ∧ Keeps z0 t := by
  unfold execCalRun
  refine ⟨_, rfl, ?_⟩
  try dsimp only
  repeat' first
    | with_reducible assumption
    | with_reducible apply keeps_synStep
    | with_reducible apply keeps_calRunBody
    | (intro _; intros; try dsimp only)
    | split
    | (refine Keeps.of ?_; dsimp only; with_reducible refine Keeps.parts ?_)

/-! ## Machine/Key.lean -/

theorem keeps_loadTk {z0 s : State} (h : Keeps z0 s) (q : Nat) (v : W64) :
    Keeps z0 (loadTk s q v).1 := by
  unfold loadTk
  try dsimp only
  repeat' first
    | with_reducible assumption
    | split
    | (refine Keeps.of ?_; dsimp only; with_reducible refine Keeps.parts ?_)

theorem keeps_loadTk_eq {z0 s out : State} {q : Nat} {v : W64} {res : Nat} (h : Keeps z0 s)
    (hu : loadTk s q v = (out, res)) : Keeps z0 out := by
  have k := keeps_loadTk h q v
  rw [hu] at k
  exact k

theorem keeps_takeKey {z0 s : State} (h : Keeps z0 s) (k img : Nat) :
    Keeps z0 (takeKey s k img).1 := by
  unfold takeKey
  try dsimp only
  repeat' first
    | with_reducible assumption
    | with_reducible apply keeps_putKey
    | split
    | (refine Keeps.of ?_; dsimp only; with_reducible refine Keeps.parts ?_)

theorem keeps_takeKey_eq {z0 s out : State} {k img : Nat} {res : Nat} (h : Keeps z0 s)
    (hu : takeKey s k img = (out, res)) : Keeps z0 out := by
  have k := keeps_takeKey h k img
  rw [hu] at k
  exact k

theorem keeps_loadKey {z0 s : State} (h : Keeps z0 s) (q k : Nat) (v : W64) :
    Keeps z0 (loadKey s q k v).1 := by
  unfold loadKey
  try dsimp only
  repeat' first
    | with_reducible assumption
    | with_reducible apply keeps_loadTk
    | (with_reducible refine keeps_loadTk_eq ?_ (by with_reducible assumption))
    | with_reducible apply keeps_takeKey
    | (with_reducible refine keeps_takeKey_eq ?_ (by with_reducible assumption))
    | split
    | (refine Keeps.of ?_; dsimp only; with_reducible refine Keeps.parts ?_)

theorem keeps_loadKey_eq {z0 s out : State} {q k : Nat} {v : W64} {res : Nat} (h : Keeps z0 s)
    (hu : loadKey s q k v = (out, res)) : Keeps z0 out := by
  have k := keeps_loadKey h q k v
  rw [hu] at k
  exact k

theorem keeps_keyLoadBody {z0 s : State} (h : Keeps z0 s) (e c : Nat) (w : SWord) :
    Keeps z0 (keyLoadBody e c s w) := by
  unfold keyLoadBody
  try dsimp only
  repeat' first
    | with_reducible assumption
    | with_reducible apply keeps_loadKey
    | (with_reducible refine keeps_loadKey_eq ?_ (by with_reducible assumption))
    | with_reducible apply keeps_complete
    | split
    | (refine Keeps.of ?_; dsimp only; with_reducible refine Keeps.parts ?_)

theorem keeps_execKeyLoad {z0 s : State} (h : Keeps z0 s) (e c : Nat) :
    ∃ t, execKeyLoad e c s = .next t ∧ Keeps z0 t := by
  unfold execKeyLoad
  refine ⟨_, rfl, ?_⟩
  try dsimp only
  repeat' first
    | with_reducible assumption
    | with_reducible apply keeps_synStep
    | with_reducible apply keeps_keyLoadBody
    | (intro _; intros; try dsimp only)
    | split
    | (refine Keeps.of ?_; dsimp only; with_reducible refine Keeps.parts ?_)

theorem keeps_retireKey {z0 s : State} (h : Keeps z0 s) (k : Nat) :
    Keeps z0 (retireKey s k).1 := by
  unfold retireKey
  try dsimp only
  repeat' first
    | with_reducible assumption
    | with_reducible apply keeps_putKey
    | with_reducible apply keeps_dropRange
    | split
    | (refine Keeps.of ?_; dsimp only; with_reducible refine Keeps.parts ?_)

theorem keeps_retireKey_eq {z0 s out : State} {k : Nat} {res : Nat} (h : Keeps z0 s)
    (hu : retireKey s k = (out, res)) : Keeps z0 out := by
  have k := keeps_retireKey h k
  rw [hu] at k
  exact k

theorem keeps_keyRetireBody {z0 s : State} (h : Keeps z0 s) (e c : Nat) (w : SWord) :
    Keeps z0 (keyRetireBody e c s w) := by
  unfold keyRetireBody
  try dsimp only
  repeat' first
    | with_reducible assumption
    | with_reducible apply keeps_retireKey
    | (with_reducible refine keeps_retireKey_eq ?_ (by with_reducible assumption))
    | with_reducible apply keeps_complete
    | split
    | (refine Keeps.of ?_; dsimp only; with_reducible refine Keeps.parts ?_)

theorem keeps_execKeyRetire {z0 s : State} (h : Keeps z0 s) (e c : Nat) :
    ∃ t, execKeyRetire e c s = .next t ∧ Keeps z0 t := by
  unfold execKeyRetire
  refine ⟨_, rfl, ?_⟩
  try dsimp only
  repeat' first
    | with_reducible assumption
    | with_reducible apply keeps_synStep
    | with_reducible apply keeps_keyRetireBody
    | (intro _; intros; try dsimp only)
    | split
    | (refine Keeps.of ?_; dsimp only; with_reducible refine Keeps.parts ?_)

theorem keeps_keyQueryBody {z0 s : State} (h : Keeps z0 s) (e c : Nat) (w : SWord) :
    Keeps z0 (keyQueryBody e c s w) := by
  unfold keyQueryBody
  try dsimp only
  repeat' first
    | with_reducible assumption
    | with_reducible apply keeps_complete
    | with_reducible apply keeps_completeD
    | split
    | (refine Keeps.of ?_; dsimp only; with_reducible refine Keeps.parts ?_)

theorem keeps_execKeyQuery {z0 s : State} (h : Keeps z0 s) (e c : Nat) :
    ∃ t, execKeyQuery e c s = .next t ∧ Keeps z0 t := by
  unfold execKeyQuery
  refine ⟨_, rfl, ?_⟩
  try dsimp only
  repeat' first
    | with_reducible assumption
    | with_reducible apply keeps_synStep
    | with_reducible apply keeps_keyQueryBody
    | (intro _; intros; try dsimp only)
    | split
    | (refine Keeps.of ?_; dsimp only; with_reducible refine Keeps.parts ?_)

theorem keeps_startRekey {z0 s : State} (h : Keeps z0 s) (e c idx new : Nat) :
    Keeps z0 (startRekey s e c idx new) := by
  unfold startRekey
  try dsimp only
  repeat' first
    | with_reducible assumption
    | with_reducible apply keeps_suspend
    | with_reducible apply keeps_complete
    | with_reducible apply keeps_putKey
    | split
    | (refine Keeps.of ?_; dsimp only; with_reducible refine Keeps.parts ?_)

theorem keeps_execHRekey {z0 s : State} (h : Keeps z0 s) (e c : Nat) :
    ∃ t, execHRekey e c s = .next t ∧ Keeps z0 t := by
  unfold execHRekey
  refine ⟨_, rfl, ?_⟩
  try dsimp only
  repeat' first
    | with_reducible assumption
    | with_reducible apply keeps_houseStepOf
    | with_reducible apply keeps_complete
    | with_reducible apply keeps_startRekey
    | (intro _; intros; try dsimp only)
    | split
    | (refine Keeps.of ?_; dsimp only; with_reducible refine Keeps.parts ?_)

theorem keeps_rekeyFrame {z0 s out : State} {num ch u : Nat} {pages : List Nat} (h : Keeps z0 s)
    (hu : rekeyFrame s ch u pages = some (num, out)) : Keeps z0 out := by
  have fresh : ∀ t : State, Keeps z0 t → (openFrame t ch u).bind (fun t1 =>
      (Tbl.find (t1.chan ch).opens u).map (fun fx => (fx, t1))) = some (num, out) → Keeps z0 out := by
    intro t ht hf
    obtain ⟨t1, h1, h2⟩ := Option.bind_eq_some_iff.mp hf
    obtain ⟨y, _, hy⟩ := Option.map_eq_some_iff.mp h2
    simp only [Prod.mk.injEq] at hy
    exact hy.2 ▸ keeps_openFrame ht h1
  unfold rekeyFrame at hu
  dsimp only at hu
  split at hu
  · exact fresh s h hu
  · split at hu
    · simp only [Option.some.injEq, Prod.mk.injEq] at hu
      exact hu.2 ▸ h
    · exact fresh _ (keeps_releaseTags (keeps_closeFrame h _ _ _)) hu

theorem keeps_rekeyPage {z0 s : State} (h : Keeps z0 s) (found : List (Nat × Decoded)) (k : Rekey) (r : Region) (page : Nat) :
    Keeps z0 (rekeyPage found s k r page) := by
  unfold rekeyPage
  try dsimp only
  repeat' first
    | with_reducible assumption
    | with_reducible apply keeps_gatherPage
    | with_reducible apply keeps_houseRead
    | with_reducible apply keeps_chargeRegion
    | with_reducible apply keeps_poisonLine
    | (with_reducible refine keeps_allocPos ?_ (by with_reducible assumption))
    | with_reducible apply keeps_issueVersion
    | with_reducible apply keeps_count
    | with_reducible apply keeps_onMaps
    | with_reducible apply Keeps.foldl
    | with_reducible apply Keeps.foldlPair
    | (intro _; intros; try dsimp only)
    | split
    | (refine Keeps.of ?_; dsimp only; with_reducible refine Keeps.parts ?_)

theorem keeps_commitWalk {z0 s : State} (h : Keeps z0 s) (k : Rekey) :
    Keeps z0 (commitWalk s k) := by
  unfold commitWalk
  try dsimp only
  repeat' first
    | with_reducible assumption
    | with_reducible apply keeps_putKey
    | split
    | (refine Keeps.of ?_; dsimp only; with_reducible refine Keeps.parts ?_)

theorem keeps_renewWalk {z0 s out : State} {k : Rekey} {r : Region} {page : Nat} (h : Keeps z0 s)
    (hu : renewWalk s k r page = some out) : Keeps z0 out := by
  unfold renewWalk at hu
  dsimp only at hu
  split at hu
  · cases hu
  · obtain ⟨y, hy, hz⟩ := Option.map_eq_some_iff.mp hu
    exact hz ▸ keeps_commitWalk (keeps_rekeyFrame h hy) _

theorem keeps_rekeyNext {z0 s : State} (h : Keeps z0 s) (found : List (Nat × Decoded)) (r : Region) (lowest : Option Nat) (page : Nat) :
    Keeps z0 (rekeyNext found r lowest s page) := by
  unfold rekeyNext
  try dsimp only
  repeat' first
    | with_reducible assumption
    | with_reducible apply keeps_rekeyPage
    | (with_reducible refine keeps_renewWalk ?_ (by with_reducible assumption))
    | split
    | (refine Keeps.of ?_; dsimp only; with_reducible refine Keeps.parts ?_)

theorem keeps_openBatch {z0 s : State} (h : Keeps z0 s) (found : List (Nat × Decoded)) (k : Rekey) (r : Region) :
    Keeps z0 (openBatch found s k r) := by
  have fold : ∀ (l : List Nat) (take : List Nat) (acc : Option (State × List Nat)) (t : State) (x : List Nat),
      (∀ t x, acc = some (t, x) → Keeps z0 t) →
      l.foldl (fun (acc : Option (State × List Nat)) (ch : Nat) =>
        match acc with
        | none => none
        | some (t, rfx) =>
          if (take.filter (fun p => s.home p == ch)).isEmpty then some (t, rfx)
          else (rekeyFrame t ch (layoutUse r) (take.filter (fun p => s.home p == ch))).map (fun q => (q.2, rfx.set ch q.1))) acc
        = some (t, x) → Keeps z0 t := by
    intro l take
    induction l with
    | nil => intro acc t x ha he; exact ha t x he
    | cons a l ih =>
      intro acc t x ha he
      refine ih _ t x ?_ he
      intro t' x' hs
      dsimp only at hs
      split at hs
      · exact absurd hs (by simp)
      · rename_i u rfx
        split at hs
        · simp only [Option.some.injEq, Prod.mk.injEq] at hs
          exact hs.1 ▸ ha u rfx rfl
        · obtain ⟨y, hy, hz⟩ := Option.map_eq_some_iff.mp hs
          simp only [Prod.mk.injEq] at hz
          exact hz.1 ▸ keeps_rekeyFrame (ha u rfx rfl) hy
  unfold openBatch
  dsimp only
  split
  · exact h
  · split
    · exact h
    · rename_i t rfx heq
      have ht : Keeps z0 t := fold _ _ _ t rfx (fun t x hs => by
        simp only [Option.some.injEq, Prod.mk.injEq] at hs
        exact hs.1 ▸ h) heq
      exact Keeps.foldl (keeps_commitWalk ht _) (fun u p hp => keeps_rekeyNext hp _ _ _ _)

theorem keeps_rekeyBatch {z0 s : State} (h : Keeps z0 s) (found : List (Nat × Decoded)) :
    Keeps z0 (rekeyBatch s found) := by
  unfold rekeyBatch
  try dsimp only
  repeat' first
    | with_reducible assumption
    | with_reducible apply keeps_rekeyNext
    | with_reducible apply keeps_openBatch
    | with_reducible apply Keeps.foldl
    | with_reducible apply Keeps.foldlPair
    | (intro _; intros; try dsimp only)
    | split
    | (refine Keeps.of ?_; dsimp only; with_reducible refine Keeps.parts ?_)

theorem keeps_execRekeyBatch {z0 s : State} (h : Keeps z0 s) (found : List (Nat × Decoded)) :
    ∃ t, execRekeyBatch found s = .next t ∧ Keeps z0 t := by
  unfold execRekeyBatch
  refine ⟨_, rfl, ?_⟩
  try dsimp only
  repeat' first
    | with_reducible assumption
    | with_reducible apply keeps_rekeyBatch
    | split
    | (refine Keeps.of ?_; dsimp only; with_reducible refine Keeps.parts ?_)

theorem keeps_rekeyEnded {z0 s : State} (h : Keeps z0 s) (e c st : Nat) :
    Keeps z0 (rekeyEnded s e c st) := by
  unfold rekeyEnded
  try dsimp only
  repeat' first
    | with_reducible assumption
    | with_reducible apply keeps_startRekey
    | with_reducible apply keeps_complete
    | split
    | (refine Keeps.of ?_; dsimp only; with_reducible refine Keeps.parts ?_)

theorem keeps_closeRekey {z0 s : State} (h : Keeps z0 s) (idx st : Nat) :
    Keeps z0 (closeRekey s idx st) := by
  unfold closeRekey
  try dsimp only
  repeat' first
    | with_reducible assumption
    | with_reducible apply keeps_rekeyEnded
    | with_reducible apply Keeps.foldl
    | with_reducible apply Keeps.foldlPair
    | (intro _; intros; try dsimp only)
    | split
    | (refine Keeps.of ?_; dsimp only; with_reducible refine Keeps.parts ?_)

theorem keeps_endWalk {z0 s : State} (h : Keeps z0 s) (k : Rekey) :
    Keeps z0 (endWalk s k) := by
  unfold endWalk
  try dsimp only
  repeat' first
    | with_reducible assumption
    | with_reducible apply keeps_putKey
    | split
    | (refine Keeps.of ?_; dsimp only; with_reducible refine Keeps.parts ?_)

theorem keeps_commitKeyId {z0 s out : State} {idx : Nat} {n : Region} (h : Keeps z0 s) (hu : commitKeyId s idx n = some out) :
    Keeps z0 out := by
  unfold commitKeyId at hu
  obtain ⟨y, hy, hz⟩ := Option.map_eq_some_iff.mp hu
  exact hz ▸ keeps_putJournal (keeps_onMaps (keeps_takePlace h hy) _) _ _ _

theorem keeps_rekeyComplete {z0 s : State} (h : Keeps z0 s) :
    Keeps z0 (rekeyComplete s) := by
  unfold rekeyComplete
  try dsimp only
  repeat' first
    | with_reducible assumption
    | with_reducible apply keeps_closeRekey
    | with_reducible apply keeps_endWalk
    | (with_reducible refine keeps_commitKeyId ?_ (by with_reducible assumption))
    | with_reducible apply keeps_raiseFloor
    | split
    | (refine Keeps.of ?_; dsimp only; with_reducible refine Keeps.parts ?_)

theorem keeps_execRekeyComplete {z0 s : State} (h : Keeps z0 s) :
    ∃ t, execRekeyComplete s = .next t ∧ Keeps z0 t := by
  unfold execRekeyComplete
  refine ⟨_, rfl, ?_⟩
  try dsimp only
  repeat' first
    | with_reducible assumption
    | with_reducible apply keeps_rekeyComplete
    | split
    | (refine Keeps.of ?_; dsimp only; with_reducible refine Keeps.parts ?_)

theorem keeps_secureEraseStep {z0 s : State} (h : Keeps z0 s) (e c : Nat) (step : Nat) :
    Keeps z0 (secureEraseStep e c s step) := by
  unfold secureEraseStep
  try dsimp only
  repeat' first
    | with_reducible assumption
    | with_reducible apply keeps_complete
    | with_reducible apply keeps_trimRange
    | with_reducible apply keeps_retireKey
    | (with_reducible refine keeps_retireKey_eq ?_ (by with_reducible assumption))
    | split
    | (refine Keeps.of ?_; dsimp only; with_reducible refine Keeps.parts ?_)

theorem keeps_execHSecureErase {z0 s : State} (h : Keeps z0 s) (e c : Nat) :
    ∃ t, execHSecureErase e c s = .next t ∧ Keeps z0 t := by
  unfold execHSecureErase
  refine ⟨_, rfl, ?_⟩
  try dsimp only
  repeat' first
    | with_reducible assumption
    | with_reducible apply keeps_houseStepOf
    | with_reducible apply keeps_secureEraseStep
    | (intro _; intros; try dsimp only)
    | split
    | (refine Keeps.of ?_; dsimp only; with_reducible refine Keeps.parts ?_)

theorem keeps_keyRollStep {z0 s : State} (h : Keeps z0 s) (e c : Nat) (step : Nat) :
    Keeps z0 (keyRollStep e c s step) := by
  unfold keyRollStep
  try dsimp only
  repeat' first
    | with_reducible assumption
    | with_reducible apply keeps_complete
    | with_reducible apply keeps_loadKey
    | (with_reducible refine keeps_loadKey_eq ?_ (by with_reducible assumption))
    | with_reducible apply keeps_updCtx
    | with_reducible apply keeps_retireKey
    | (with_reducible refine keeps_retireKey_eq ?_ (by with_reducible assumption))
    | with_reducible apply keeps_startRekey
    | split
    | (refine Keeps.of ?_; dsimp only; with_reducible refine Keeps.parts ?_)

theorem keeps_execHKeyRoll {z0 s : State} (h : Keeps z0 s) (e c : Nat) :
    ∃ t, execHKeyRoll e c s = .next t ∧ Keeps z0 t := by
  unfold execHKeyRoll
  refine ⟨_, rfl, ?_⟩
  try dsimp only
  repeat' first
    | with_reducible assumption
    | with_reducible apply keeps_houseStepOf
    | with_reducible apply keeps_keyRollStep
    | (intro _; intros; try dsimp only)
    | split
    | (refine Keeps.of ?_; dsimp only; with_reducible refine Keeps.parts ?_)

/-! ## Machine/Format.lean -/

theorem keeps_partition {z0 s : State} (h : Keeps z0 s) :
    Keeps z0 (partition s) := by
  unfold partition
  try dsimp only
  repeat' first
    | with_reducible assumption
    | with_reducible apply keeps_onMedium
    | with_reducible apply keeps_onCache
    | split
    | (refine Keeps.of ?_; dsimp only; with_reducible refine Keeps.parts ?_)

theorem keeps_setBudget {z0 s : State} (h : Keeps z0 s) (planes : Nat → Nat) :
    Keeps z0 (setBudget s planes) := by
  unfold setBudget
  try dsimp only
  repeat' first
    | with_reducible assumption
    | with_reducible apply keeps_onCache
    | with_reducible apply keeps_onPers
    | with_reducible apply keeps_record
    | split
    | (refine Keeps.of ?_; dsimp only; with_reducible refine Keeps.parts ?_)

theorem keeps_freeReserve {z0 s : State} (h : Keeps z0 s) (c fx : Nat) :
    Keeps z0 (freeReserve s c fx) := by
  unfold freeReserve
  try dsimp only
  repeat' first
    | with_reducible assumption
    | with_reducible apply keeps_updFrame
    | with_reducible apply keeps_updChan
    | split
    | (refine Keeps.of ?_; dsimp only; with_reducible refine Keeps.parts ?_)

theorem keeps_redeal {z0 s : State} (h : Keeps z0 s) :
    Keeps z0 (redeal s) := by
  unfold redeal
  try dsimp only
  repeat' first
    | with_reducible assumption
    | with_reducible apply keeps_count
    | with_reducible apply keeps_updFrame
    | with_reducible apply keeps_freeReserve
    | with_reducible apply keeps_updChan
    | with_reducible apply Keeps.foldl
    | with_reducible apply Keeps.foldlPair
    | (intro _; intros; try dsimp only)
    | split
    | (refine Keeps.of ?_; dsimp only; with_reducible refine Keeps.parts ?_)

theorem keeps_clearReserve {z0 s : State} (h : Keeps z0 s) (fx : Nat) :
    Keeps z0 (clearReserve s fx) := by
  unfold clearReserve
  try dsimp only
  repeat' first
    | with_reducible assumption
    | with_reducible apply keeps_headerClear
    | with_reducible apply keeps_onMedium
    | with_reducible apply keeps_afterClear
    | split
    | (refine Keeps.of ?_; dsimp only; with_reducible refine Keeps.parts ?_)

theorem keeps_clearReserves {z0 s : State} (h : Keeps z0 s) :
    Keeps z0 (clearReserves s) := by
  unfold clearReserves
  try dsimp only
  repeat' first
    | with_reducible assumption
    | with_reducible apply keeps_clearReserve
    | with_reducible apply Keeps.foldl
    | with_reducible apply Keeps.foldlPair
    | (intro _; intros; try dsimp only)
    | split
    | (refine Keeps.of ?_; dsimp only; with_reducible refine Keeps.parts ?_)

theorem keeps_clearJournals {z0 s : State} (h : Keeps z0 s) :
    Keeps z0 (clearJournals s) := by
  unfold clearJournals
  try dsimp only
  repeat' first
    | with_reducible assumption
    | with_reducible apply keeps_clearReserve
    | with_reducible apply Keeps.foldl
    | with_reducible apply Keeps.foldlPair
    | (intro _; intros; try dsimp only)
    | split
    | (refine Keeps.of ?_; dsimp only; with_reducible refine Keeps.parts ?_)

theorem keeps_initDefaults {z0 s : State} (h : Keeps z0 s) :
    Keeps z0 (initDefaults s) := by
  unfold initDefaults
  try dsimp only
  repeat' first
    | with_reducible assumption
    | with_reducible apply keeps_partition
    | with_reducible apply keeps_onCache
    | with_reducible apply keeps_onMedium
    | with_reducible apply keeps_setBudget
    | split
    | (refine Keeps.of ?_; dsimp only; with_reducible refine Keeps.parts ?_)

theorem keeps_hInit {z0 s : State} (h : Keeps z0 s) (e c u0 : Nat) : Keeps z0 (hInit e c s u0) := by
  have k : ∀ t, Keeps z0 t → Keeps z0 (hInit.releaseWaiting t) := by
    intro t ht
    unfold hInit.releaseWaiting
    refine Keeps.foldl ?_ (fun u r hu => keeps_enterTable hu r)
    exact Keeps.of ht.parts
  unfold hInit
  dsimp only
  repeat' first
    | with_reducible assumption
    | with_reducible apply keeps_complete
    | with_reducible apply keeps_initDefaults
    | with_reducible apply keeps_onMedium
    | with_reducible apply keeps_turnOn
    | with_reducible apply keeps_hs6Swap
    | with_reducible apply k
    | split
    | (refine Keeps.of ?_; dsimp only; with_reducible refine Keeps.parts ?_)

theorem keeps_execHInit {z0 s : State} (h : Keeps z0 s) (e c : Nat) :
    ∃ t, execHInit e c s = .next t ∧ Keeps z0 t := by
  unfold execHInit
  refine ⟨_, rfl, ?_⟩
  try dsimp only
  repeat' first
    | with_reducible assumption
    | with_reducible apply keeps_houseStepOf
    | with_reducible apply keeps_hInit
    | (intro _; intros; try dsimp only)
    | split
    | (refine Keeps.of ?_; dsimp only; with_reducible refine Keeps.parts ?_)

theorem keeps_enterWriteBack {z0 s : State} (h : Keeps z0 s) :
    Keeps z0 (enterWriteBack s) := by
  unfold enterWriteBack
  try dsimp only
  repeat' first
    | with_reducible assumption
    | with_reducible apply keeps_onPers
    | with_reducible apply keeps_onCache
    | split
    | (refine Keeps.of ?_; dsimp only; with_reducible refine Keeps.parts ?_)

theorem keeps_bindFrames {z0 s : State} (h : Keeps z0 s) :
    Keeps z0 (bindFrames s) := by
  unfold bindFrames
  try dsimp only
  repeat' first
    | with_reducible assumption
    | with_reducible apply keeps_updChan
    | with_reducible apply keeps_count
    | with_reducible apply Keeps.foldl
    | with_reducible apply Keeps.foldlPair
    | (intro _; intros; try dsimp only)
    | split
    | (refine Keeps.of ?_; dsimp only; with_reducible refine Keeps.parts ?_)

theorem keeps_formatDevice {z0 s : State} (h : Keeps z0 s) :
    Keeps z0 (formatDevice s) := by
  unfold formatDevice
  try dsimp only
  repeat' first
    | with_reducible assumption
    | with_reducible apply keeps_bindFrames
    | with_reducible apply keeps_onMedium
    | with_reducible apply keeps_onMaps
    | with_reducible apply keeps_enterWriteBack
    | with_reducible apply keeps_recompute
    | with_reducible apply keeps_clearJournals
    | with_reducible apply keeps_clearReserves
    | split
    | (refine Keeps.of ?_; dsimp only; with_reducible refine Keeps.parts ?_)

theorem keeps_hFormat {z0 s : State} (h : Keeps z0 s) (e c : Nat) (u2 : Nat) :
    Keeps z0 (hFormat e c s u2) := by
  unfold hFormat
  try dsimp only
  repeat' first
    | with_reducible assumption
    | with_reducible apply keeps_complete
    | with_reducible apply keeps_journalRegion
    | with_reducible apply keeps_formatDevice
    | split
    | (refine Keeps.of ?_; dsimp only; with_reducible refine Keeps.parts ?_)

theorem keeps_execHFormat {z0 s : State} (h : Keeps z0 s) (e c : Nat) :
    ∃ t, execHFormat e c s = .next t ∧ Keeps z0 t := by
  unfold execHFormat
  refine ⟨_, rfl, ?_⟩
  try dsimp only
  repeat' first
    | with_reducible assumption
    | with_reducible apply keeps_houseStepOf
    | with_reducible apply keeps_hFormat
    | (intro _; intros; try dsimp only)
    | split
    | (refine Keeps.of ?_; dsimp only; with_reducible refine Keeps.parts ?_)

end Sys2Proof.Laws
end

