-- ==== Sys2Proof/Laws/KeepsDevice.lean ====
section
/-! SUPPORT. What resets, power, flush, starts, the bus and the CSR window keep (see Laws/Keeps.lean): one lemma per operation. -/

namespace Sys2Proof.Laws

open Sys2Proof Sys2Proof.Machine

/-! ## Machine/Reset.lean -/

theorem keeps_tearLine {z0 s : State} (h : Keeps z0 s) (m : Move) (q : Snap) :
    Keeps z0 (tearLine m s q) := by
  unfold tearLine
  try dsimp only
  repeat' first
    | with_reducible assumption
    | with_reducible apply keeps_burn
    | with_reducible apply keeps_updStored
    | split
    | (refine Keeps.of ?_; dsimp only; with_reducible refine Keeps.parts ?_)

theorem keeps_tearPrograms {z0 s : State} (h : Keeps z0 s) :
    Keeps z0 (tearPrograms s) := by
  unfold tearPrograms
  try dsimp only
  repeat' first
    | with_reducible assumption
    | with_reducible apply keeps_tearLine
    | with_reducible apply Keeps.foldl
    | with_reducible apply Keeps.foldlPair
    | (intro _; intros; try dsimp only)
    | split
    | (refine Keeps.of ?_; dsimp only; with_reducible refine Keeps.parts ?_)

theorem keeps_tearSeal {z0 s : State} (h : Keeps z0 s) :
    Keeps z0 (tearSeal s) := by
  unfold tearSeal
  try dsimp only
  repeat' first
    | with_reducible assumption
    | with_reducible apply keeps_putJournal
    | with_reducible apply keeps_burn
    | split
    | (refine Keeps.of ?_; dsimp only; with_reducible refine Keeps.parts ?_)

theorem keeps_finishLine {z0 s : State} (h : Keeps z0 s) (m : Move) (q : Snap) :
    Keeps z0 (finishLine m s q) := by
  unfold finishLine
  try dsimp only
  repeat' first
    | with_reducible assumption
    | with_reducible apply keeps_burn
    | with_reducible apply keeps_leavePoisonSet
    | with_reducible apply keeps_cleanLine
    | with_reducible apply keeps_updStored
    | split
    | (refine Keeps.of ?_; dsimp only; with_reducible refine Keeps.parts ?_)

theorem keeps_finishPrograms {z0 s : State} (h : Keeps z0 s) :
    Keeps z0 (finishPrograms s) := by
  unfold finishPrograms
  try dsimp only
  repeat' first
    | with_reducible assumption
    | with_reducible apply keeps_commitRecord
    | with_reducible apply keeps_finishLine
    | with_reducible apply Keeps.foldl
    | with_reducible apply Keeps.foldlPair
    | (intro _; intros; try dsimp only)
    | split
    | (refine Keeps.of ?_; dsimp only; with_reducible refine Keeps.parts ?_)

theorem keeps_cutCopies {z0 s : State} (h : Keeps z0 s) :
    Keeps z0 (cutCopies s) := by
  unfold cutCopies
  try dsimp only
  repeat' first
    | with_reducible assumption
    | with_reducible apply keeps_updFrame
    | with_reducible apply Keeps.foldl
    | with_reducible apply Keeps.foldlPair
    | (intro _; intros; try dsimp only)
    | split
    | (refine Keeps.of ?_; dsimp only; with_reducible refine Keeps.parts ?_)

theorem keeps_abandonMoves {z0 s : State} (h : Keeps z0 s) :
    Keeps z0 (abandonMoves s) := by
  unfold abandonMoves
  try dsimp only
  repeat' first
    | with_reducible assumption
    | with_reducible apply keeps_cutCopies
    | with_reducible apply keeps_onMaps
    | with_reducible apply keeps_onPers
    | split
    | (refine Keeps.of ?_; dsimp only; with_reducible refine Keeps.parts ?_)

theorem keeps_coreReset {z0 s0 : State} (h : Keeps z0 s0) : Keeps z0 (coreReset s0) := by
  have k : Keeps z0 (cutCopies (tearSeal (tearPrograms s0))) := keeps_cutCopies (keeps_tearSeal (keeps_tearPrograms h))
  exact ⟨k.queue, k.fuses, fun _ => rfl, k.onward⟩

theorem keeps_deviceReset {z0 s : State} (h : Keeps z0 s) :
    Keeps z0 (deviceReset s) := by
  unfold deviceReset
  try dsimp only
  repeat' first
    | with_reducible assumption
    | with_reducible apply keeps_coreReset
    | split
    | (refine Keeps.of ?_; dsimp only; with_reducible refine Keeps.parts ?_)

theorem keeps_forcedReset {z0 s : State} (h : Keeps z0 s) :
    Keeps z0 (forcedReset s) := by
  unfold forcedReset
  try dsimp only
  repeat' first
    | with_reducible assumption
    | with_reducible apply keeps_record
    | with_reducible apply keeps_deviceReset
    | split
    | (refine Keeps.of ?_; dsimp only; with_reducible refine Keeps.parts ?_)

theorem keeps_powerLoss {z0 s : State} (h : Keeps z0 s) (cause : Nat) :
    Keeps z0 (powerLoss s cause) := by
  unfold powerLoss
  try dsimp only
  repeat' first
    | with_reducible assumption
    | with_reducible apply keeps_coreReset
    | split
    | (refine Keeps.of ?_; dsimp only; with_reducible refine Keeps.parts ?_)

theorem keeps_hs5Want {z0 s : State} (h : Keeps z0 s) :
    Keeps z0 (hs5Want s) := by
  unfold hs5Want
  try dsimp only
  repeat' first
    | with_reducible assumption
    | with_reducible apply keeps_arbWant
    | with_reducible apply Keeps.foldl
    | with_reducible apply Keeps.foldlPair
    | (intro _; intros; try dsimp only)
    | split
    | (refine Keeps.of ?_; dsimp only; with_reducible refine Keeps.parts ?_)

theorem keeps_hs5Granted {z0 s : State} (h : Keeps z0 s) :
    Keeps z0 (hs5Granted s) := by
  unfold hs5Granted
  try dsimp only
  repeat' first
    | with_reducible assumption
    | split
    | (refine Keeps.of ?_; dsimp only; with_reducible refine Keeps.parts ?_)

theorem keeps_startFlush {z0 s : State} (h : Keeps z0 s) (cause : Nat) :
    Keeps z0 (startFlush s cause) := by
  unfold startFlush
  try dsimp only
  repeat' first
    | with_reducible assumption
    | with_reducible apply keeps_hs5Want
    | split
    | (refine Keeps.of ?_; dsimp only; with_reducible refine Keeps.parts ?_)

theorem keeps_beginPowerDown {z0 s : State} (h : Keeps z0 s) (cause : Nat) :
    Keeps z0 (beginPowerDown s cause) := by
  unfold beginPowerDown
  try dsimp only
  repeat' first
    | with_reducible assumption
    | split
    | (refine Keeps.of ?_; dsimp only; with_reducible refine Keeps.parts ?_)

/-! ## Machine/Flush.lean -/

theorem keeps_abortClears {z0 s : State} (h : Keeps z0 s) :
    Keeps z0 (abortClears s) := by
  unfold abortClears
  try dsimp only
  repeat' first
    | with_reducible assumption
    | with_reducible apply keeps_updChan
    | with_reducible apply Keeps.foldl
    | with_reducible apply Keeps.foldlPair
    | (intro _; intros; try dsimp only)
    | split
    | (refine Keeps.of ?_; dsimp only; with_reducible refine Keeps.parts ?_)

theorem keeps_flushUnread {z0 s : State} (h : Keeps z0 s) (unread : List Nat) :
    Keeps z0 (flushUnread s unread) := by
  unfold flushUnread
  try dsimp only
  repeat' first
    | with_reducible assumption
    | with_reducible apply keeps_record
    | with_reducible apply keeps_onCache
    | with_reducible apply Keeps.foldl
    | with_reducible apply Keeps.foldlPair
    | (intro _; intros; try dsimp only)
    | split
    | (refine Keeps.of ?_; dsimp only; with_reducible refine Keeps.parts ?_)

theorem keeps_writeImage {z0 s0 : State} (h : Keeps z0 s0) (faulted unread : List Nat) :
    Keeps z0 (writeImage s0 faulted unread) := by
  unfold writeImage
  try dsimp only
  repeat' first
    | with_reducible assumption
    | with_reducible apply keeps_flushUnread
    | with_reducible apply keeps_flushFault
    | with_reducible apply keeps_onPers
    | with_reducible apply Keeps.foldl
    | with_reducible apply Keeps.foldlPair
    | (intro _; intros; try dsimp only)
    | split
    | (refine Keeps.of ?_; dsimp only; with_reducible refine Keeps.parts ?_)

theorem keeps_writeMapState {z0 s : State} (h : Keeps z0 s) :
    Keeps z0 (writeMapState s) := by
  unfold writeMapState
  try dsimp only
  repeat' first
    | with_reducible assumption
    | with_reducible apply keeps_onPers
    | split
    | (refine Keeps.of ?_; dsimp only; with_reducible refine Keeps.parts ?_)

theorem keeps_writeManifest {z0 s : State} (h : Keeps z0 s) (f : FlushRun) :
    Keeps z0 (writeManifest s f) := by
  unfold writeManifest
  try dsimp only
  repeat' first
    | with_reducible assumption
    | with_reducible apply keeps_sample
    | with_reducible apply keeps_burn
    | with_reducible apply keeps_onPers
    | split
    | (refine Keeps.of ?_; dsimp only; with_reducible refine Keeps.parts ?_)

theorem keeps_cutFlush {z0 s : State} (h : Keeps z0 s) :
    Keeps z0 (cutFlush s) := by
  unfold cutFlush
  try dsimp only
  repeat' first
    | with_reducible assumption
    | with_reducible apply keeps_onPers
    | with_reducible apply keeps_burn
    | split
    | (refine Keeps.of ?_; dsimp only; with_reducible refine Keeps.parts ?_)

theorem keeps_parkChannels {z0 s : State} (h : Keeps z0 s) :
    Keeps z0 (parkChannels s) := by
  unfold parkChannels
  try dsimp only
  repeat' first
    | with_reducible assumption
    | with_reducible apply keeps_onMedium
    | with_reducible apply keeps_onPers
    | split
    | (refine Keeps.of ?_; dsimp only; with_reducible refine Keeps.parts ?_)

theorem keeps_flushStepBegin {z0 s : State} (h : Keeps z0 s) (step : Nat) :
    Keeps z0 (flushStepBegin s step) := by
  unfold flushStepBegin
  try dsimp only
  repeat' first
    | with_reducible assumption
    | with_reducible apply keeps_hs5Want
    | split
    | (refine Keeps.of ?_; dsimp only; with_reducible refine Keeps.parts ?_)

theorem keeps_flushStepDone {z0 s : State} (h : Keeps z0 s) (faulted unread : List Nat) :
    Keeps z0 (flushStepDone s faulted unread) := by
  unfold flushStepDone
  try dsimp only
  repeat' first
    | with_reducible assumption
    | with_reducible apply keeps_abandonMoves
    | with_reducible apply keeps_finishPrograms
    | with_reducible apply keeps_abortClears
    | with_reducible apply keeps_writeImage
    | with_reducible apply keeps_writeMapState
    | with_reducible apply keeps_writeManifest
    | with_reducible apply keeps_parkChannels
    | with_reducible apply keeps_flushStepBegin
    | with_reducible apply keeps_hs5Granted
    | with_reducible apply keeps_onPers
    | split
    | (refine Keeps.of ?_; dsimp only; with_reducible refine Keeps.parts ?_)

theorem keeps_execFlushStepDone {z0 s : State} (h : Keeps z0 s) (faulted unread : List Nat) :
    ∃ t, execFlushStepDone faulted unread s = .next t ∧ Keeps z0 t := by
  unfold execFlushStepDone
  refine ⟨_, rfl, ?_⟩
  try dsimp only
  repeat' first
    | with_reducible assumption
    | with_reducible apply keeps_flushStepDone
    | split
    | (refine Keeps.of ?_; dsimp only; with_reducible refine Keeps.parts ?_)

/-! ## Machine/Power.lean -/

theorem keeps_updRail {z0 s : State} (h : Keeps z0 s) (n : Nat) (f : Rail → Rail) :
    Keeps z0 (State.updRail s n f) := by
  unfold State.updRail
  try dsimp only
  repeat' first
    | with_reducible assumption
    | with_reducible apply keeps_onGoose
    | split
    | (refine Keeps.of ?_; dsimp only; with_reducible refine Keeps.parts ?_)

theorem keeps_recordRail {z0 s : State} (h : Keeps z0 s) (n : Nat) :
    Keeps z0 (recordRail s n) := by
  unfold recordRail
  try dsimp only
  repeat' first
    | with_reducible assumption
    | with_reducible apply keeps_onGoose
    | with_reducible apply keeps_record
    | split
    | (refine Keeps.of ?_; dsimp only; with_reducible refine Keeps.parts ?_)

theorem keeps_cutAllRails {z0 s : State} (h : Keeps z0 s) (cause : Nat) :
    Keeps z0 (cutAllRails s cause) := by
  unfold cutAllRails
  try dsimp only
  repeat' first
    | with_reducible assumption
    | with_reducible apply keeps_powerLoss
    | with_reducible apply keeps_cutFlush
    | with_reducible apply keeps_onGoose
    | split
    | (refine Keeps.of ?_; dsimp only; with_reducible refine Keeps.parts ?_)

theorem keeps_serdesDown {z0 s : State} (h : Keeps z0 s) :
    Keeps z0 (serdesDown s) := by
  unfold serdesDown
  try dsimp only
  repeat' first
    | with_reducible assumption
    | split
    | (refine Keeps.of ?_; dsimp only; with_reducible refine Keeps.parts ?_)

theorem keeps_railOff {z0 s : State} (h : Keeps z0 s) (n : Nat) :
    Keeps z0 (railOff s n) := by
  unfold railOff
  try dsimp only
  repeat' first
    | with_reducible assumption
    | with_reducible apply keeps_updRail
    | with_reducible apply keeps_serdesDown
    | split
    | (refine Keeps.of ?_; dsimp only; with_reducible refine Keeps.parts ?_)

theorem keeps_railLost {z0 s : State} (h : Keeps z0 s) (n : Nat) :
    Keeps z0 (railLost s n) := by
  unfold railLost
  try dsimp only
  repeat' first
    | with_reducible assumption
    | with_reducible apply keeps_loseCapability
    | with_reducible apply keeps_railOff
    | with_reducible apply keeps_updRail
    | split
    | (refine Keeps.of ?_; dsimp only; with_reducible refine Keeps.parts ?_)

theorem keeps_requestReset {z0 s : State} (h : Keeps z0 s) :
    Keeps z0 (requestReset s) := by
  unfold requestReset
  try dsimp only
  repeat' first
    | with_reducible assumption
    | with_reducible apply keeps_startFlush
    | with_reducible apply keeps_deviceReset
    | split
    | (refine Keeps.of ?_; dsimp only; with_reducible refine Keeps.parts ?_)

theorem keeps_sysReset {z0 s : State} (h : Keeps z0 s) :
    Keeps z0 (sysReset s) := by
  unfold sysReset
  try dsimp only
  repeat' first
    | with_reducible assumption
    | with_reducible apply keeps_startFlush
    | with_reducible apply keeps_beginPowerDown
    | split
    | (refine Keeps.of ?_; dsimp only; with_reducible refine Keeps.parts ?_)

theorem keeps_retryRail {z0 s : State} (h : Keeps z0 s) (n : Nat) :
    Keeps z0 (retryRail s n) := by
  unfold retryRail
  try dsimp only
  repeat' first
    | with_reducible assumption
    | with_reducible apply keeps_railOff
    | with_reducible apply keeps_updRail
    | with_reducible apply keeps_railLost
    | split
    | (refine Keeps.of ?_; dsimp only; with_reducible refine Keeps.parts ?_)

theorem keeps_groupOff {z0 s : State} (h : Keeps z0 s) (n : Nat) :
    Keeps z0 (groupOff s n) := by
  unfold groupOff
  try dsimp only
  repeat' first
    | with_reducible assumption
    | with_reducible apply keeps_railLost
    | with_reducible apply Keeps.foldl
    | with_reducible apply Keeps.foldlPair
    | (intro _; intros; try dsimp only)
    | split
    | (refine Keeps.of ?_; dsimp only; with_reducible refine Keeps.parts ?_)

theorem keeps_ioReset {z0 s : State} (h : Keeps z0 s) :
    Keeps z0 (ioReset s) := by
  unfold ioReset
  try dsimp only
  repeat' first
    | with_reducible assumption
    | with_reducible apply keeps_forcedReset
    | split
    | (refine Keeps.of ?_; dsimp only; with_reducible refine Keeps.parts ?_)

theorem keeps_noteFault {z0 s : State} (h : Keeps z0 s) (n : Nat) :
    Keeps z0 (noteFault s n) := by
  unfold noteFault
  try dsimp only
  repeat' first
    | with_reducible assumption
    | with_reducible apply keeps_recordRail
    | with_reducible apply keeps_updRail
    | with_reducible apply keeps_onGoose
    | split
    | (refine Keeps.of ?_; dsimp only; with_reducible refine Keeps.parts ?_)

theorem keeps_railFaults {z0 s : State} (h : Keeps z0 s) (l : List Nat) :
    Keeps z0 (railFaults s l) := by
  unfold railFaults
  try dsimp only
  repeat' first
    | with_reducible assumption
    | with_reducible apply keeps_noteFault
    | with_reducible apply keeps_cutAllRails
    | with_reducible apply keeps_sysReset
    | with_reducible apply keeps_ioReset
    | with_reducible apply keeps_groupOff
    | with_reducible apply keeps_retryRail
    | with_reducible apply Keeps.foldl
    | with_reducible apply Keeps.foldlPair
    | (intro _; intros; try dsimp only)
    | split
    | (refine Keeps.of ?_; dsimp only; with_reducible refine Keeps.parts ?_)

theorem keeps_railClear {z0 s : State} (h : Keeps z0 s) (n : Nat) :
    Keeps z0 (railClear s n) := by
  unfold railClear
  try dsimp only
  repeat' first
    | with_reducible assumption
    | with_reducible apply keeps_updRail
    | split
    | (refine Keeps.of ?_; dsimp only; with_reducible refine Keeps.parts ?_)

theorem keeps_railPgChange {z0 s : State} (h : Keeps z0 s) (n : Nat) (level : Bool) (chatter : Nat) :
    Keeps z0 (railPgChange s n level chatter) := by
  unfold railPgChange
  try dsimp only
  repeat' first
    | with_reducible assumption
    | with_reducible apply keeps_updRail
    | with_reducible apply keeps_noteFault
    | with_reducible apply keeps_railFaults
    | with_reducible apply keeps_railClear
    | split
    | (refine Keeps.of ?_; dsimp only; with_reducible refine Keeps.parts ?_)

theorem keeps_execRailPgChange {z0 s : State} (h : Keeps z0 s) (rail : Nat) (level : Bool) (chatter : Nat) :
    ∃ t, execRailPgChange rail level chatter s = .next t ∧ Keeps z0 t := by
  unfold execRailPgChange
  refine ⟨_, rfl, ?_⟩
  try dsimp only
  repeat' first
    | with_reducible assumption
    | with_reducible apply keeps_railPgChange
    | split
    | (refine Keeps.of ?_; dsimp only; with_reducible refine Keeps.parts ?_)

theorem keeps_railSenseSample {z0 s : State} (h : Keeps z0 s) (mvs : List Nat) (vin vaux : Nat) :
    Keeps z0 (railSenseSample s mvs vin vaux) := by
  unfold railSenseSample
  try dsimp only
  repeat' first
    | with_reducible assumption
    | with_reducible apply keeps_onGoose
    | with_reducible apply keeps_railFaults
    | with_reducible apply keeps_railClear
    | with_reducible apply Keeps.foldl
    | with_reducible apply Keeps.foldlPair
    | (intro _; intros; try dsimp only)
    | split
    | (refine Keeps.of ?_; dsimp only; with_reducible refine Keeps.parts ?_)

theorem keeps_execRailSenseSample {z0 s : State} (h : Keeps z0 s) (mvs : List Nat) (vin vaux : Nat) :
    ∃ t, execRailSenseSample mvs vin vaux s = .next t ∧ Keeps z0 t := by
  unfold execRailSenseSample
  refine ⟨_, rfl, ?_⟩
  try dsimp only
  repeat' first
    | with_reducible assumption
    | with_reducible apply keeps_railSenseSample
    | split
    | (refine Keeps.of ?_; dsimp only; with_reducible refine Keeps.parts ?_)

theorem keeps_railEnableTimeout {z0 s : State} (h : Keeps z0 s) (n : Nat) :
    Keeps z0 (railEnableTimeout s n) := by
  unfold railEnableTimeout
  try dsimp only
  repeat' first
    | with_reducible assumption
    | with_reducible apply keeps_railFaults
    | split
    | (refine Keeps.of ?_; dsimp only; with_reducible refine Keeps.parts ?_)

theorem keeps_execRailEnableTimeout {z0 s : State} (h : Keeps z0 s) (rail : Nat) :
    ∃ t, execRailEnableTimeout rail s = .next t ∧ Keeps z0 t := by
  unfold execRailEnableTimeout
  refine ⟨_, rfl, ?_⟩
  try dsimp only
  repeat' first
    | with_reducible assumption
    | with_reducible apply keeps_railEnableTimeout
    | split
    | (refine Keeps.of ?_; dsimp only; with_reducible refine Keeps.parts ?_)

theorem keeps_railRetryExpiry {z0 s : State} (h : Keeps z0 s) (n : Nat) :
    Keeps z0 (railRetryExpiry s n) := by
  unfold railRetryExpiry
  try dsimp only
  repeat' first
    | with_reducible assumption
    | with_reducible apply keeps_updRail
    | split
    | (refine Keeps.of ?_; dsimp only; with_reducible refine Keeps.parts ?_)

theorem keeps_execRailRetryExpiry {z0 s : State} (h : Keeps z0 s) (rail : Nat) :
    ∃ t, execRailRetryExpiry rail s = .next t ∧ Keeps z0 t := by
  unfold execRailRetryExpiry
  refine ⟨_, rfl, ?_⟩
  try dsimp only
  repeat' first
    | with_reducible assumption
    | with_reducible apply keeps_railRetryExpiry
    | split
    | (refine Keeps.of ?_; dsimp only; with_reducible refine Keeps.parts ?_)

theorem keeps_railIncidentEnd {z0 s : State} (h : Keeps z0 s) (n : Nat) :
    Keeps z0 (railIncidentEnd s n) := by
  unfold railIncidentEnd
  try dsimp only
  repeat' first
    | with_reducible assumption
    | with_reducible apply keeps_updRail
    | split
    | (refine Keeps.of ?_; dsimp only; with_reducible refine Keeps.parts ?_)

theorem keeps_execRailIncidentEnd {z0 s : State} (h : Keeps z0 s) (rail : Nat) :
    ∃ t, execRailIncidentEnd rail s = .next t ∧ Keeps z0 t := by
  unfold execRailIncidentEnd
  refine ⟨_, rfl, ?_⟩
  try dsimp only
  repeat' first
    | with_reducible assumption
    | with_reducible apply keeps_railIncidentEnd
    | split
    | (refine Keeps.of ?_; dsimp only; with_reducible refine Keeps.parts ?_)

theorem keeps_enableStep {z0 s : State} (h : Keeps z0 s) (k : Nat) :
    Keeps z0 (enableStep s k) := by
  unfold enableStep
  try dsimp only
  repeat' first
    | with_reducible assumption
    | with_reducible apply keeps_updRail
    | with_reducible apply Keeps.foldl
    | with_reducible apply Keeps.foldlPair
    | (intro _; intros; try dsimp only)
    | split
    | (refine Keeps.of ?_; dsimp only; with_reducible refine Keeps.parts ?_)

theorem keeps_powerUpStart {z0 s : State} (h : Keeps z0 s) (mv : Nat) :
    Keeps z0 (powerUpStart s mv) := by
  unfold powerUpStart
  try dsimp only
  repeat' first
    | with_reducible assumption
    | with_reducible apply keeps_enableStep
    | with_reducible apply keeps_onGoose
    | split
    | (refine Keeps.of ?_; dsimp only; with_reducible refine Keeps.parts ?_)

theorem keeps_execPowerUpStart {z0 s : State} (h : Keeps z0 s) (mv : Nat) :
    ∃ t, execPowerUpStart mv s = .next t ∧ Keeps z0 t := by
  unfold execPowerUpStart
  refine ⟨_, rfl, ?_⟩
  try dsimp only
  repeat' first
    | with_reducible assumption
    | with_reducible apply keeps_powerUpStart
    | split
    | (refine Keeps.of ?_; dsimp only; with_reducible refine Keeps.parts ?_)

theorem keeps_powerUpStep {z0 s : State} (h : Keeps z0 s) :
    Keeps z0 (powerUpStep s) := by
  unfold powerUpStep
  try dsimp only
  repeat' first
    | with_reducible assumption
    | with_reducible apply keeps_enableStep
    | with_reducible apply keeps_onGoose
    | split
    | (refine Keeps.of ?_; dsimp only; with_reducible refine Keeps.parts ?_)

theorem keeps_execPowerUpStep {z0 s : State} (h : Keeps z0 s) :
    ∃ t, execPowerUpStep s = .next t ∧ Keeps z0 t := by
  unfold execPowerUpStep
  refine ⟨_, rfl, ?_⟩
  try dsimp only
  repeat' first
    | with_reducible assumption
    | with_reducible apply keeps_powerUpStep
    | split
    | (refine Keeps.of ?_; dsimp only; with_reducible refine Keeps.parts ?_)

theorem keeps_inputFail {z0 s : State} (h : Keeps z0 s) (cause : Nat) :
    Keeps z0 (inputFail s cause) := by
  unfold inputFail
  try dsimp only
  repeat' first
    | with_reducible assumption
    | with_reducible apply keeps_startFlush
    | with_reducible apply keeps_beginPowerDown
    | split
    | (refine Keeps.of ?_; dsimp only; with_reducible refine Keeps.parts ?_)

theorem keeps_execPfailNFall {z0 s : State} (h : Keeps z0 s) :
    ∃ t, execPfailNFall s = .next t ∧ Keeps z0 t := by
  unfold execPfailNFall
  refine ⟨_, rfl, ?_⟩
  try dsimp only
  repeat' first
    | with_reducible assumption
    | with_reducible apply keeps_inputFail
    | with_reducible apply keeps_onGoose
    | split
    | (refine Keeps.of ?_; dsimp only; with_reducible refine Keeps.parts ?_)

theorem keeps_execVinSnsLow {z0 s : State} (h : Keeps z0 s) (mv : Nat) :
    ∃ t, execVinSnsLow mv s = .next t ∧ Keeps z0 t := by
  unfold execVinSnsLow
  refine ⟨_, rfl, ?_⟩
  try dsimp only
  repeat' first
    | with_reducible assumption
    | with_reducible apply keeps_inputFail
    | with_reducible apply keeps_onGoose
    | split
    | (refine Keeps.of ?_; dsimp only; with_reducible refine Keeps.parts ?_)

theorem keeps_vauxCollapse {z0 s : State} (h : Keeps z0 s) (mv : Nat) :
    Keeps z0 (vauxCollapse s mv) := by
  unfold vauxCollapse
  try dsimp only
  repeat' first
    | with_reducible assumption
    | with_reducible apply keeps_powerLoss
    | with_reducible apply keeps_cutFlush
    | split
    | (refine Keeps.of ?_; dsimp only; with_reducible refine Keeps.parts ?_)

theorem keeps_execVauxCollapse {z0 s : State} (h : Keeps z0 s) (mv : Nat) :
    ∃ t, execVauxCollapse mv s = .next t ∧ Keeps z0 t := by
  unfold execVauxCollapse
  refine ⟨_, rfl, ?_⟩
  try dsimp only
  repeat' first
    | with_reducible assumption
    | with_reducible apply keeps_vauxCollapse
    | split
    | (refine Keeps.of ?_; dsimp only; with_reducible refine Keeps.parts ?_)

theorem keeps_vauxRise {z0 s : State} (h : Keeps z0 s) (mv : Nat) :
    Keeps z0 (vauxRise s mv) := by
  unfold vauxRise
  try dsimp only
  repeat' first
    | with_reducible assumption
    | with_reducible apply keeps_onGoose
    | split
    | (refine Keeps.of ?_; dsimp only; with_reducible refine Keeps.parts ?_)

theorem keeps_execVauxRise {z0 s : State} (h : Keeps z0 s) (mv : Nat) :
    ∃ t, execVauxRise mv s = .next t ∧ Keeps z0 t := by
  unfold execVauxRise
  refine ⟨_, rfl, ?_⟩
  try dsimp only
  repeat' first
    | with_reducible assumption
    | with_reducible apply keeps_vauxRise
    | split
    | (refine Keeps.of ?_; dsimp only; with_reducible refine Keeps.parts ?_)

theorem keeps_resetNLow {z0 s : State} (h : Keeps z0 s) :
    Keeps z0 (resetNLow s) := by
  unfold resetNLow
  try dsimp only
  repeat' first
    | with_reducible assumption
    | with_reducible apply keeps_forcedReset
    | split
    | (refine Keeps.of ?_; dsimp only; with_reducible refine Keeps.parts ?_)

theorem keeps_execResetNLow {z0 s : State} (h : Keeps z0 s) :
    ∃ t, execResetNLow s = .next t ∧ Keeps z0 t := by
  unfold execResetNLow
  refine ⟨_, rfl, ?_⟩
  try dsimp only
  repeat' first
    | with_reducible assumption
    | with_reducible apply keeps_resetNLow
    | split
    | (refine Keeps.of ?_; dsimp only; with_reducible refine Keeps.parts ?_)

theorem keeps_resetNRise {z0 s : State} (h : Keeps z0 s) :
    Keeps z0 (resetNRise s) := by
  unfold resetNRise
  try dsimp only
  repeat' first
    | with_reducible assumption
    | split
    | (refine Keeps.of ?_; dsimp only; with_reducible refine Keeps.parts ?_)

theorem keeps_execResetNRise {z0 s : State} (h : Keeps z0 s) :
    ∃ t, execResetNRise s = .next t ∧ Keeps z0 t := by
  unfold execResetNRise
  refine ⟨_, rfl, ?_⟩
  try dsimp only
  repeat' first
    | with_reducible assumption
    | with_reducible apply keeps_resetNRise
    | split
    | (refine Keeps.of ?_; dsimp only; with_reducible refine Keeps.parts ?_)

theorem keeps_resetDeviceBody {z0 s : State} (h : Keeps z0 s) (e c : Nat) (w : SWord) :
    Keeps z0 (resetDeviceBody e c s w) := by
  unfold resetDeviceBody
  try dsimp only
  repeat' first
    | with_reducible assumption
    | with_reducible apply keeps_complete
    | with_reducible apply keeps_forcedReset
    | with_reducible apply keeps_requestReset
    | split
    | (refine Keeps.of ?_; dsimp only; with_reducible refine Keeps.parts ?_)

theorem keeps_execResetKind0 {z0 s : State} (h : Keeps z0 s) (e c : Nat) :
    ∃ t, execResetKind0 e c s = .next t ∧ Keeps z0 t := by
  unfold execResetKind0
  refine ⟨_, rfl, ?_⟩
  try dsimp only
  repeat' first
    | with_reducible assumption
    | with_reducible apply keeps_synStep
    | with_reducible apply keeps_resetDeviceBody
    | (intro _; intros; try dsimp only)
    | split
    | (refine Keeps.of ?_; dsimp only; with_reducible refine Keeps.parts ?_)

theorem keeps_resetFlushTimeout {z0 s : State} (h : Keeps z0 s) : Keeps z0 (resetFlushTimeout s) := by
  unfold resetFlushTimeout
  split
  · exact ⟨h.queue, h.fuses, fun _ => rfl, h.onward⟩
  · exact h

theorem keeps_execResetFlushTimeout {z0 s : State} (h : Keeps z0 s) :
    ∃ t, execResetFlushTimeout s = .next t ∧ Keeps z0 t := by
  unfold execResetFlushTimeout
  refine ⟨_, rfl, ?_⟩
  try dsimp only
  repeat' first
    | with_reducible assumption
    | with_reducible apply keeps_resetFlushTimeout
    | split
    | (refine Keeps.of ?_; dsimp only; with_reducible refine Keeps.parts ?_)

theorem keeps_flushComplete {z0 s : State} (h : Keeps z0 s) (pfailN : Bool) (mv : Nat) :
    Keeps z0 (flushComplete s pfailN mv) := by
  unfold flushComplete
  try dsimp only
  repeat' first
    | with_reducible assumption
    | with_reducible apply keeps_onGoose
    | with_reducible apply keeps_beginPowerDown
    | with_reducible apply keeps_deviceReset
    | split
    | (refine Keeps.of ?_; dsimp only; with_reducible refine Keeps.parts ?_)

theorem keeps_execFlushComplete {z0 s : State} (h : Keeps z0 s) (pfailN : Bool) (mv : Nat) :
    ∃ t, execFlushComplete pfailN mv s = .next t ∧ Keeps z0 t := by
  unfold execFlushComplete
  refine ⟨_, rfl, ?_⟩
  try dsimp only
  repeat' first
    | with_reducible assumption
    | with_reducible apply keeps_flushComplete
    | split
    | (refine Keeps.of ?_; dsimp only; with_reducible refine Keeps.parts ?_)

theorem keeps_flushRestartDelay {z0 s : State} (h : Keeps z0 s) (pfailN : Bool) (mv : Nat) :
    Keeps z0 (flushRestartDelay s pfailN mv) := by
  unfold flushRestartDelay
  try dsimp only
  repeat' first
    | with_reducible assumption
    | with_reducible apply keeps_onGoose
    | with_reducible apply keeps_beginPowerDown
    | with_reducible apply keeps_deviceReset
    | split
    | (refine Keeps.of ?_; dsimp only; with_reducible refine Keeps.parts ?_)

theorem keeps_execFlushRestartDelay {z0 s : State} (h : Keeps z0 s) (pfailN : Bool) (mv : Nat) :
    ∃ t, execFlushRestartDelay pfailN mv s = .next t ∧ Keeps z0 t := by
  unfold execFlushRestartDelay
  refine ⟨_, rfl, ?_⟩
  try dsimp only
  repeat' first
    | with_reducible assumption
    | with_reducible apply keeps_flushRestartDelay
    | split
    | (refine Keeps.of ?_; dsimp only; with_reducible refine Keeps.parts ?_)

theorem keeps_flushStall {z0 s : State} (h : Keeps z0 s) :
    Keeps z0 (flushStall s) := by
  unfold flushStall
  try dsimp only
  repeat' first
    | with_reducible assumption
    | with_reducible apply keeps_cutFlush
    | with_reducible apply keeps_beginPowerDown
    | split
    | (refine Keeps.of ?_; dsimp only; with_reducible refine Keeps.parts ?_)

theorem keeps_execFlushStall {z0 s : State} (h : Keeps z0 s) :
    ∃ t, execFlushStall s = .next t ∧ Keeps z0 t := by
  unfold execFlushStall
  refine ⟨_, rfl, ?_⟩
  try dsimp only
  repeat' first
    | with_reducible assumption
    | with_reducible apply keeps_flushStall
    | split
    | (refine Keeps.of ?_; dsimp only; with_reducible refine Keeps.parts ?_)

theorem keeps_disableStep {z0 s : State} (h : Keeps z0 s) (k : Nat) :
    Keeps z0 (disableStep s k) := by
  unfold disableStep
  try dsimp only
  repeat' first
    | with_reducible assumption
    | with_reducible apply keeps_railOff
    | with_reducible apply Keeps.foldl
    | with_reducible apply Keeps.foldlPair
    | (intro _; intros; try dsimp only)
    | split
    | (refine Keeps.of ?_; dsimp only; with_reducible refine Keeps.parts ?_)

theorem keeps_powerDown {z0 s : State} (h : Keeps z0 s) :
    Keeps z0 (powerDown s) := by
  unfold powerDown
  try dsimp only
  repeat' first
    | with_reducible assumption
    | with_reducible apply keeps_disableStep
    | with_reducible apply keeps_onGoose
    | split
    | (refine Keeps.of ?_; dsimp only; with_reducible refine Keeps.parts ?_)

theorem keeps_execPowerDown {z0 s : State} (h : Keeps z0 s) :
    ∃ t, execPowerDown s = .next t ∧ Keeps z0 t := by
  unfold execPowerDown
  refine ⟨_, rfl, ?_⟩
  try dsimp only
  repeat' first
    | with_reducible assumption
    | with_reducible apply keeps_powerDown
    | split
    | (refine Keeps.of ?_; dsimp only; with_reducible refine Keeps.parts ?_)

theorem keeps_railsStuck {z0 s : State} (h : Keeps z0 s) :
    Keeps z0 (railsStuck s) := by
  unfold railsStuck
  try dsimp only
  repeat' first
    | with_reducible assumption
    | with_reducible apply keeps_noteFault
    | with_reducible apply Keeps.foldl
    | with_reducible apply Keeps.foldlPair
    | (intro _; intros; try dsimp only)
    | split
    | (refine Keeps.of ?_; dsimp only; with_reducible refine Keeps.parts ?_)

theorem keeps_powerDownStep {z0 s0 : State} (h : Keeps z0 s0) (vauxOk : Bool) (records : Nat) :
    Keeps z0 (powerDownStep s0 vauxOk records) := by
  unfold powerDownStep
  try dsimp only
  repeat' first
    | with_reducible assumption
    | with_reducible apply keeps_railsStuck
    | with_reducible apply keeps_onGoose
    | with_reducible apply keeps_disableStep
    | with_reducible apply keeps_appendStamp
    | with_reducible apply keeps_onRecs
    | with_reducible apply keeps_saveRecords
    | with_reducible apply keeps_powerLoss
    | split
    | (refine Keeps.of ?_; dsimp only; with_reducible refine Keeps.parts ?_)

theorem keeps_execPowerDownStep {z0 s : State} (h : Keeps z0 s) (vauxOk : Bool) (records : Nat) :
    ∃ t, execPowerDownStep vauxOk records s = .next t ∧ Keeps z0 t := by
  unfold execPowerDownStep
  refine ⟨_, rfl, ?_⟩
  try dsimp only
  repeat' first
    | with_reducible assumption
    | with_reducible apply keeps_powerDownStep
    | split
    | (refine Keeps.of ?_; dsimp only; with_reducible refine Keeps.parts ?_)

theorem keeps_norWriteAbandon {z0 s : State} (h : Keeps z0 s) :
    Keeps z0 (norWriteAbandon s) := by
  unfold norWriteAbandon
  try dsimp only
  repeat' first
    | with_reducible assumption
    | with_reducible apply keeps_saveRecords
    | with_reducible apply keeps_burn
    | with_reducible apply keeps_onGoose
    | split
    | (refine Keeps.of ?_; dsimp only; with_reducible refine Keeps.parts ?_)

theorem keeps_execNorWriteAbandon {z0 s : State} (h : Keeps z0 s) :
    ∃ t, execNorWriteAbandon s = .next t ∧ Keeps z0 t := by
  unfold execNorWriteAbandon
  refine ⟨_, rfl, ?_⟩
  try dsimp only
  repeat' first
    | with_reducible assumption
    | with_reducible apply keeps_norWriteAbandon
    | split
    | (refine Keeps.of ?_; dsimp only; with_reducible refine Keeps.parts ?_)

theorem keeps_trip {z0 s : State} (h : Keeps z0 s) :
    Keeps z0 (trip s) := by
  unfold trip
  try dsimp only
  repeat' first
    | with_reducible assumption
    | with_reducible apply keeps_onGoose
    | with_reducible apply keeps_startFlush
    | with_reducible apply keeps_beginPowerDown
    | split
    | (refine Keeps.of ?_; dsimp only; with_reducible refine Keeps.parts ?_)

theorem keeps_orderlyStop {z0 s : State} (h : Keeps z0 s) :
    Keeps z0 (orderlyStop s) := by
  unfold orderlyStop
  try dsimp only
  repeat' first
    | with_reducible assumption
    | split
    | (refine Keeps.of ?_; dsimp only; with_reducible refine Keeps.parts ?_)

theorem keeps_warnRaise {z0 s : State} (h : Keeps z0 s) :
    Keeps z0 (warnRaise s) := by
  unfold warnRaise
  try dsimp only
  repeat' first
    | with_reducible assumption
    | with_reducible apply keeps_irq
    | with_reducible apply keeps_onGoose
    | with_reducible apply keeps_notifyDevice
    | with_reducible apply keeps_burn
    | with_reducible apply keeps_trigHigh
    | split
    | (refine Keeps.of ?_; dsimp only; with_reducible refine Keeps.parts ?_)

theorem keeps_warnClear {z0 s : State} (h : Keeps z0 s) :
    Keeps z0 (warnClear s) := by
  unfold warnClear
  try dsimp only
  repeat' first
    | with_reducible assumption
    | with_reducible apply keeps_onGoose
    | with_reducible apply keeps_trigIdle
    | split
    | (refine Keeps.of ?_; dsimp only; with_reducible refine Keeps.parts ?_)

theorem keeps_tempSample {z0 s : State} (h : Keeps z0 s) (temps : List Int) (speeds : List Nat) :
    Keeps z0 (tempSample s temps speeds) := by
  unfold tempSample
  try dsimp only
  repeat' first
    | with_reducible assumption
    | with_reducible apply keeps_onGoose
    | with_reducible apply keeps_warnRaise
    | with_reducible apply keeps_warnClear
    | with_reducible apply keeps_trip
    | with_reducible apply keeps_orderlyStop
    | split
    | (refine Keeps.of ?_; dsimp only; with_reducible refine Keeps.parts ?_)

theorem keeps_execTempSample {z0 s : State} (h : Keeps z0 s) (temps : List Int) (speeds : List Nat) :
    ∃ t, execTempSample temps speeds s = .next t ∧ Keeps z0 t := by
  unfold execTempSample
  refine ⟨_, rfl, ?_⟩
  try dsimp only
  repeat' first
    | with_reducible assumption
    | with_reducible apply keeps_tempSample
    | split
    | (refine Keeps.of ?_; dsimp only; with_reducible refine Keeps.parts ?_)

theorem keeps_orderlyStopDrainEnd {z0 s : State} (h : Keeps z0 s) :
    Keeps z0 (orderlyStopDrainEnd s) := by
  unfold orderlyStopDrainEnd
  try dsimp only
  repeat' first
    | with_reducible assumption
    | with_reducible apply keeps_commitRecord
    | with_reducible apply keeps_startFlush
    | with_reducible apply keeps_beginPowerDown
    | split
    | (refine Keeps.of ?_; dsimp only; with_reducible refine Keeps.parts ?_)

theorem keeps_execOrderlyStopDrainEnd {z0 s : State} (h : Keeps z0 s) :
    ∃ t, execOrderlyStopDrainEnd s = .next t ∧ Keeps z0 t := by
  unfold execOrderlyStopDrainEnd
  refine ⟨_, rfl, ?_⟩
  try dsimp only
  repeat' first
    | with_reducible assumption
    | with_reducible apply keeps_orderlyStopDrainEnd
    | split
    | (refine Keeps.of ?_; dsimp only; with_reducible refine Keeps.parts ?_)

theorem keeps_thermalRestart {z0 s : State} (h : Keeps z0 s) :
    Keeps z0 (thermalRestart s) := by
  unfold thermalRestart
  try dsimp only
  repeat' first
    | with_reducible assumption
    | with_reducible apply keeps_onGoose
    | split
    | (refine Keeps.of ?_; dsimp only; with_reducible refine Keeps.parts ?_)

theorem keeps_execThermalRestart {z0 s : State} (h : Keeps z0 s) :
    ∃ t, execThermalRestart s = .next t ∧ Keeps z0 t := by
  unfold execThermalRestart
  refine ⟨_, rfl, ?_⟩
  try dsimp only
  repeat' first
    | with_reducible assumption
    | with_reducible apply keeps_thermalRestart
    | split
    | (refine Keeps.of ?_; dsimp only; with_reducible refine Keeps.parts ?_)

theorem keeps_wedged {z0 s : State} (h : Keeps z0 s) (detail : Nat) :
    Keeps z0 (wedged s detail) := by
  unfold wedged
  try dsimp only
  repeat' first
    | with_reducible assumption
    | with_reducible apply keeps_irq
    | with_reducible apply keeps_record
    | with_reducible apply keeps_onGoose
    | split
    | (refine Keeps.of ?_; dsimp only; with_reducible refine Keeps.parts ?_)

theorem keeps_execKeepaliveMissing {z0 s : State} (h : Keeps z0 s) :
    ∃ t, execKeepaliveMissing s = .next t ∧ Keeps z0 t := by
  unfold execKeepaliveMissing
  refine ⟨_, rfl, ?_⟩
  try dsimp only
  repeat' first
    | with_reducible assumption
    | with_reducible apply keeps_wedged
    | split
    | (refine Keeps.of ?_; dsimp only; with_reducible refine Keeps.parts ?_)

theorem keeps_execHsStepTimeout {z0 s : State} (h : Keeps z0 s) (hs : Nat) :
    ∃ t, execHsStepTimeout hs s = .next t ∧ Keeps z0 t := by
  unfold execHsStepTimeout
  refine ⟨_, rfl, ?_⟩
  try dsimp only
  repeat' first
    | with_reducible assumption
    | with_reducible apply keeps_wedged
    | split
    | (refine Keeps.of ?_; dsimp only; with_reducible refine Keeps.parts ?_)

theorem keeps_smbAnswer {z0 s : State} (h : Keeps z0 s) (l : List Byte) :
    Keeps z0 (smbAnswer s l) := by
  unfold smbAnswer
  try dsimp only
  repeat' first
    | with_reducible assumption
    | with_reducible apply keeps_onGoose
    | split
    | (refine Keeps.of ?_; dsimp only; with_reducible refine Keeps.parts ?_)

theorem keeps_execSmbStatus {z0 s : State} (h : Keeps z0 s) :
    ∃ t, execSmbStatus s = .next t ∧ Keeps z0 t := by
  unfold execSmbStatus
  refine ⟨_, rfl, ?_⟩
  try dsimp only
  repeat' first
    | with_reducible assumption
    | with_reducible apply keeps_smbAnswer
    | split
    | (refine Keeps.of ?_; dsimp only; with_reducible refine Keeps.parts ?_)

theorem keeps_execSmbTemps {z0 s : State} (h : Keeps z0 s) :
    ∃ t, execSmbTemps s = .next t ∧ Keeps z0 t := by
  unfold execSmbTemps
  refine ⟨_, rfl, ?_⟩
  try dsimp only
  repeat' first
    | with_reducible assumption
    | with_reducible apply keeps_smbAnswer
    | split
    | (refine Keeps.of ?_; dsimp only; with_reducible refine Keeps.parts ?_)

theorem keeps_alertRelease {z0 s : State} (h : Keeps z0 s) :
    Keeps z0 (alertRelease s) := by
  unfold alertRelease
  try dsimp only
  repeat' first
    | with_reducible assumption
    | with_reducible apply keeps_onGoose
    | split
    | (refine Keeps.of ?_; dsimp only; with_reducible refine Keeps.parts ?_)

theorem keeps_execSmbAlertClr {z0 s : State} (h : Keeps z0 s) :
    ∃ t, execSmbAlertClr s = .next t ∧ Keeps z0 t := by
  unfold execSmbAlertClr
  refine ⟨_, rfl, ?_⟩
  try dsimp only
  repeat' first
    | with_reducible assumption
    | with_reducible apply keeps_alertRelease
    | split
    | (refine Keeps.of ?_; dsimp only; with_reducible refine Keeps.parts ?_)

theorem keeps_execSmbAlertResponse {z0 s : State} (h : Keeps z0 s) :
    ∃ t, execSmbAlertResponse s = .next t ∧ Keeps z0 t := by
  unfold execSmbAlertResponse
  refine ⟨_, rfl, ?_⟩
  try dsimp only
  repeat' first
    | with_reducible assumption
    | with_reducible apply keeps_alertRelease
    | split
    | (refine Keeps.of ?_; dsimp only; with_reducible refine Keeps.parts ?_)

theorem keeps_smbRefuse {z0 s : State} (h : Keeps z0 s) :
    Keeps z0 (smbRefuse s) := by
  unfold smbRefuse
  try dsimp only
  repeat' first
    | with_reducible assumption
    | with_reducible apply keeps_onGoose
    | split
    | (refine Keeps.of ?_; dsimp only; with_reducible refine Keeps.parts ?_)

theorem keeps_smbRestart {z0 s : State} (h : Keeps z0 s) (v : Byte) :
    Keeps z0 (smbRestart s v) := by
  unfold smbRestart
  try dsimp only
  repeat' first
    | with_reducible assumption
    | with_reducible apply keeps_smbRefuse
    | with_reducible apply keeps_onGoose
    | split
    | (refine Keeps.of ?_; dsimp only; with_reducible refine Keeps.parts ?_)

theorem keeps_execSmbRestart {z0 s : State} (h : Keeps z0 s) (v : Byte) :
    ∃ t, execSmbRestart v s = .next t ∧ Keeps z0 t := by
  unfold execSmbRestart
  refine ⟨_, rfl, ?_⟩
  try dsimp only
  repeat' first
    | with_reducible assumption
    | with_reducible apply keeps_smbRestart
    | split
    | (refine Keeps.of ?_; dsimp only; with_reducible refine Keeps.parts ?_)

theorem keeps_smbNackCmd {z0 s : State} (h : Keeps z0 s) (cmd : Byte) :
    Keeps z0 (smbNackCmd s cmd) := by
  unfold smbNackCmd
  try dsimp only
  repeat' first
    | with_reducible assumption
    | with_reducible apply keeps_smbRefuse
    | split
    | (refine Keeps.of ?_; dsimp only; with_reducible refine Keeps.parts ?_)

theorem keeps_execSmbNack {z0 s : State} (h : Keeps z0 s) (cmd : Byte) :
    ∃ t, execSmbNack cmd s = .next t ∧ Keeps z0 t := by
  unfold execSmbNack
  refine ⟨_, rfl, ?_⟩
  try dsimp only
  repeat' first
    | with_reducible assumption
    | with_reducible apply keeps_smbNackCmd
    | split
    | (refine Keeps.of ?_; dsimp only; with_reducible refine Keeps.parts ?_)

/-! ## Machine/Start.lean -/

theorem keeps_strapFail {z0 s : State} (h : Keeps z0 s) :
    Keeps z0 (strapFail s) := by
  unfold strapFail
  try dsimp only
  repeat' first
    | with_reducible assumption
    | split
    | (refine Keeps.of ?_; dsimp only; with_reducible refine Keeps.parts ?_)

theorem keeps_strapWindowEnd {z0 s : State} (h : Keeps z0 s) (samples : List (BitVec 13)) :
    Keeps z0 (strapWindowEnd s samples) := by
  unfold strapWindowEnd
  try dsimp only
  repeat' first
    | with_reducible assumption
    | with_reducible apply keeps_strapFail
    | split
    | (refine Keeps.of ?_; dsimp only; with_reducible refine Keeps.parts ?_)

theorem keeps_execStrapWindowEnd {z0 s : State} (h : Keeps z0 s) (samples : List (BitVec 13)) :
    ∃ t, execStrapWindowEnd samples s = .next t ∧ Keeps z0 t := by
  unfold execStrapWindowEnd
  refine ⟨_, rfl, ?_⟩
  try dsimp only
  repeat' first
    | with_reducible assumption
    | with_reducible apply keeps_strapWindowEnd
    | split
    | (refine Keeps.of ?_; dsimp only; with_reducible refine Keeps.parts ?_)

theorem keeps_installSection {z0 s : State} (h : Keeps z0 s) (x : BootSection) :
    Keeps z0 (installSection s x) := by
  unfold installSection
  try dsimp only
  repeat' first
    | with_reducible assumption
    | with_reducible apply keeps_record
    | with_reducible apply Keeps.foldl
    | with_reducible apply Keeps.foldlPair
    | (intro _; intros; try dsimp only)
    | split
    | (refine Keeps.of ?_; dsimp only; with_reducible refine Keeps.parts ?_)

theorem keeps_installImage {z0 s : State} (h : Keeps z0 s) (l : List BootSection) (source : Nat) :
    Keeps z0 (installImage s l source) := by
  unfold installImage
  try dsimp only
  repeat' first
    | with_reducible assumption
    | with_reducible apply keeps_installSection
    | with_reducible apply Keeps.foldl
    | with_reducible apply Keeps.foldlPair
    | (intro _; intros; try dsimp only)
    | split
    | (refine Keeps.of ?_; dsimp only; with_reducible refine Keeps.parts ?_)

theorem keeps_bootFailed {z0 s : State} (h : Keeps z0 s) (rec : Bool) :
    Keeps z0 (bootFailed s rec) := by
  unfold bootFailed
  try dsimp only
  repeat' first
    | with_reducible assumption
    | with_reducible apply keeps_irq
    | with_reducible apply keeps_record
    | split
    | (refine Keeps.of ?_; dsimp only; with_reducible refine Keeps.parts ?_)

theorem keeps_bootImage {z0 s : State} (h : Keeps z0 s) :
    Keeps z0 (bootImage s) := by
  unfold bootImage
  try dsimp only
  repeat' first
    | with_reducible assumption
    | with_reducible apply keeps_installImage
    | with_reducible apply keeps_bootFailed
    | split
    | (refine Keeps.of ?_; dsimp only; with_reducible refine Keeps.parts ?_)

theorem keeps_diesGone {z0 s : State} (h : Keeps z0 s) :
    Keeps z0 (diesGone s) := by
  unfold diesGone
  try dsimp only
  repeat' first
    | with_reducible assumption
    | with_reducible apply keeps_onMedium
    | split
    | (refine Keeps.of ?_; dsimp only; with_reducible refine Keeps.parts ?_)

theorem keeps_dieUp {z0 s : State} (h : Keeps z0 s) (x : DieInfo) :
    Keeps z0 (dieUp s x) := by
  unfold dieUp
  try dsimp only
  repeat' first
    | with_reducible assumption
    | with_reducible apply keeps_updChan
    | with_reducible apply keeps_record
    | split
    | (refine Keeps.of ?_; dsimp only; with_reducible refine Keeps.parts ?_)

theorem keeps_channelsUp {z0 s : State} (h : Keeps z0 s) :
    Keeps z0 (channelsUp s) := by
  unfold channelsUp
  try dsimp only
  repeat' first
    | with_reducible assumption
    | with_reducible apply keeps_burn
    | with_reducible apply keeps_updChan
    | with_reducible apply Keeps.foldl
    | with_reducible apply Keeps.foldlPair
    | (intro _; intros; try dsimp only)
    | split
    | (refine Keeps.of ?_; dsimp only; with_reducible refine Keeps.parts ?_)

theorem keeps_lostDies {z0 s : State} (h : Keeps z0 s) :
    Keeps z0 (lostDies s) := by
  unfold lostDies
  try dsimp only
  repeat' first
    | with_reducible assumption
    | with_reducible apply keeps_loseCapability
    | with_reducible apply Keeps.foldl
    | with_reducible apply Keeps.foldlPair
    | (intro _; intros; try dsimp only)
    | split
    | (refine Keeps.of ?_; dsimp only; with_reducible refine Keeps.parts ?_)

theorem keeps_drawKeys {z0 s : State} (h : Keeps z0 s) :
    Keeps z0 (drawKeys s) := by
  unfold drawKeys
  try dsimp only
  repeat' first
    | with_reducible assumption
    | with_reducible apply keeps_burn
    | with_reducible apply keeps_onCache
    | with_reducible apply keeps_onMedium
    | split
    | (refine Keeps.of ?_; dsimp only; with_reducible refine Keeps.parts ?_)

theorem keeps_loadKeys {z0 s : State} (h : Keeps z0 s) (bad : List Nat) :
    Keeps z0 (loadKeys s bad) := by
  unfold loadKeys
  try dsimp only
  repeat' first
    | with_reducible assumption
    | with_reducible apply keeps_burn
    | split
    | (refine Keeps.of ?_; dsimp only; with_reducible refine Keeps.parts ?_)

theorem keeps_recorderUp {z0 s : State} (h : Keeps z0 s) (env : StartEnv) :
    Keeps z0 (recorderUp s env) := by
  unfold recorderUp
  try dsimp only
  repeat' first
    | with_reducible assumption
    | with_reducible apply keeps_reloadRecorder
    | with_reducible apply keeps_countPower
    | with_reducible apply keeps_loadClock
    | with_reducible apply keeps_norScan
    | split
    | (refine Keeps.of ?_; dsimp only; with_reducible refine Keeps.parts ?_)

theorem keeps_restoreLedger {z0 s : State} (h : Keeps z0 s) :
    Keeps z0 (restoreLedger s) := by
  unfold restoreLedger
  try dsimp only
  repeat' first
    | with_reducible assumption
    | with_reducible apply keeps_dropCommit
    | (with_reducible refine keeps_dropCommit_eq ?_ (by with_reducible assumption))
    | with_reducible apply Keeps.foldl
    | with_reducible apply Keeps.foldlPair
    | (intro _; intros; try dsimp only)
    | split
    | (refine Keeps.of ?_; dsimp only; with_reducible refine Keeps.parts ?_)

theorem keeps_portsTrain {z0 s : State} (h : Keeps z0 s) :
    Keeps z0 (portsTrain s) := by
  unfold portsTrain
  try dsimp only
  repeat' first
    | with_reducible assumption
    | split
    | (refine Keeps.of ?_; dsimp only; with_reducible refine Keeps.parts ?_)

theorem keeps_bringUp {z0 s : State} (h : Keeps z0 s) (env : StartEnv) :
    Keeps z0 (bringUp s env) := by
  unfold bringUp
  try dsimp only
  repeat' first
    | with_reducible assumption
    | with_reducible apply keeps_strapFail
    | with_reducible apply keeps_recorderUp
    | with_reducible apply keeps_onMedium
    | with_reducible apply keeps_lostDies
    | with_reducible apply keeps_channelsUp
    | with_reducible apply keeps_dieUp
    | with_reducible apply keeps_diesGone
    | with_reducible apply keeps_initDefaults
    | with_reducible apply keeps_drawKeys
    | with_reducible apply keeps_loadKeys
    | with_reducible apply keeps_bootImage
    | with_reducible apply keeps_restoreLedger
    | with_reducible apply keeps_redeal
    | with_reducible apply keeps_onCache
    | with_reducible apply keeps_record
    | with_reducible apply keeps_portsTrain
    | with_reducible apply Keeps.foldl
    | with_reducible apply Keeps.foldlPair
    | (intro _; intros; try dsimp only)
    | split
    | (refine Keeps.of ?_; dsimp only; with_reducible refine Keeps.parts ?_)

theorem keeps_startPhaseDone {z0 s : State} (h : Keeps z0 s) (env : StartEnv) :
    Keeps z0 (startPhaseDone s env) := by
  unfold startPhaseDone
  try dsimp only
  repeat' first
    | with_reducible assumption
    | with_reducible apply keeps_bringUp
    | with_reducible apply keeps_irq
    | with_reducible apply keeps_notifyDevice
    | split
    | (refine Keeps.of ?_; dsimp only; with_reducible refine Keeps.parts ?_)

theorem keeps_execStartPhaseDone {z0 s : State} (h : Keeps z0 s) (env : StartEnv) :
    ∃ t, execStartPhaseDone env s = .next t ∧ Keeps z0 t := by
  unfold execStartPhaseDone
  refine ⟨_, rfl, ?_⟩
  try dsimp only
  repeat' first
    | with_reducible assumption
    | with_reducible apply keeps_startPhaseDone
    | split
    | (refine Keeps.of ?_; dsimp only; with_reducible refine Keeps.parts ?_)

theorem keeps_rebuildRecords {z0 s0 : State} (h : Keeps z0 s0) (lost : List Nat) :
    Keeps z0 (rebuildRecords s0 lost) := by
  unfold rebuildRecords
  try dsimp only
  repeat' first
    | with_reducible assumption
    | with_reducible apply keeps_onPers
    | with_reducible apply keeps_raiseClock
    | split
    | (refine Keeps.of ?_; dsimp only; with_reducible refine Keeps.parts ?_)

theorem keeps_rebuildDirectory {z0 s : State} (h : Keeps z0 s) :
    Keeps z0 (rebuildDirectory s) := by
  unfold rebuildDirectory
  try dsimp only
  repeat' first
    | with_reducible assumption
    | with_reducible apply keeps_onMaps
    | with_reducible apply Keeps.foldl
    | with_reducible apply Keeps.foldlPair
    | (intro _; intros; try dsimp only)
    | split
    | (refine Keeps.of ?_; dsimp only; with_reducible refine Keeps.parts ?_)

theorem keeps_rebuildImage {z0 s : State} (h : Keeps z0 s) (lost : List Nat) :
    Keeps z0 (rebuildImage s lost) := by
  unfold rebuildImage
  try dsimp only
  repeat' first
    | with_reducible assumption
    | with_reducible apply keeps_updChan
    | with_reducible apply keeps_onPers
    | with_reducible apply keeps_record
    | with_reducible apply Keeps.foldl
    | with_reducible apply Keeps.foldlPair
    | (intro _; intros; try dsimp only)
    | split
    | (refine Keeps.of ?_; dsimp only; with_reducible refine Keeps.parts ?_)

theorem keeps_restoreBuffer {z0 s out : State} {line : Nat} {x : CLine}  (h : Keeps z0 s)
    (hu : restoreBuffer s line x = some out) : Keeps z0 out := by
  unfold restoreBuffer at hu
  try dsimp only at hu
  repeat' first
    | (split at hu)
    | contradiction
    | (injection hu; done)
  all_goals (first | contradiction | (cases hu; done) | (injections; subst_vars))
  all_goals
    try dsimp only
  all_goals
    repeat' first
      | with_reducible assumption
      | with_reducible apply keeps_onCache
      | split
      | (refine Keeps.of ?_; dsimp only; with_reducible refine Keeps.parts ?_)

theorem keeps_restoreWay {z0 s out : State} {line : Nat} {x : CLine}  (h : Keeps z0 s)
    (hu : restoreWay s line x = some out) : Keeps z0 out := by
  unfold restoreWay at hu
  try dsimp only at hu
  repeat' first
    | (split at hu)
    | contradiction
    | (injection hu; done)
  all_goals (first | contradiction | (cases hu; done) | (injections; subst_vars))
  all_goals
    try dsimp only
  all_goals
    repeat' first
      | with_reducible assumption
      | with_reducible apply keeps_onCache
      | split
      | (refine Keeps.of ?_; dsimp only; with_reducible refine Keeps.parts ?_)

theorem keeps_restoreLine {z0 s : State} (h : Keeps z0 s) (x : FSlot) : Keeps z0 (restoreLine s x) := by
  unfold restoreLine
  split
  · exact keeps_onPers h _
  · dsimp only
    split
    · exact h
    · rename_i t heq
      refine keeps_onPers ?_ _
      split at heq
      all_goals
        rw [Option.orElse_eq_orElse, Option.orElse_eq_or] at heq
        rcases Option.or_eq_some_iff.mp heq with hu | ⟨-, hu⟩
        all_goals
          first
          | exact keeps_restoreBuffer h hu
          | exact keeps_restoreWay h hu

theorem keeps_serveReads {z0 s : State} (h : Keeps z0 s) (f : Nat → Bool) :
    Keeps z0 (serveReads s f) := by
  unfold serveReads
  try dsimp only
  repeat' first
    | with_reducible assumption
    | with_reducible apply keeps_answerQueries
    | with_reducible apply keeps_access
    | with_reducible apply keeps_onPers
    | with_reducible apply Keeps.foldl
    | with_reducible apply Keeps.foldlPair
    | (intro _; intros; try dsimp only)
    | split
    | (refine Keeps.of ?_; dsimp only; with_reducible refine Keeps.parts ?_)

theorem keeps_rebuildPage {z0 s : State} (h : Keeps z0 s) (m : Nat) :
    Keeps z0 (rebuildPage s m) := by
  unfold rebuildPage
  try dsimp only
  repeat' first
    | with_reducible assumption
    | with_reducible apply keeps_onMaps
    | with_reducible apply keeps_restoreLine
    | with_reducible apply keeps_onPers
    | with_reducible apply keeps_serveReads
    | with_reducible apply Keeps.foldl
    | with_reducible apply Keeps.foldlPair
    | (intro _; intros; try dsimp only)
    | split
    | (refine Keeps.of ?_; dsimp only; with_reducible refine Keeps.parts ?_)

theorem keeps_restoreLate {z0 s : State} (h : Keeps z0 s) :
    Keeps z0 (restoreLate s) := by
  unfold restoreLate
  try dsimp only
  repeat' first
    | with_reducible assumption
    | with_reducible apply keeps_restoreLine
    | with_reducible apply keeps_serveReads
    | with_reducible apply keeps_onPers
    | with_reducible apply Keeps.foldl
    | with_reducible apply Keeps.foldlPair
    | (intro _; intros; try dsimp only)
    | split
    | (refine Keeps.of ?_; dsimp only; with_reducible refine Keeps.parts ?_)

theorem keeps_rebuildFrames {z0 s : State} (h : Keeps z0 s) :
    Keeps z0 (rebuildFrames s) := by
  unfold rebuildFrames
  try dsimp only
  repeat' first
    | with_reducible assumption
    | with_reducible apply keeps_onMedium
    | with_reducible apply keeps_updChan
    | with_reducible apply keeps_onMaps
    | with_reducible apply keeps_treeBuild
    | with_reducible apply keeps_recompute
    | with_reducible apply Keeps.foldl
    | with_reducible apply Keeps.foldlPair
    | (intro _; intros; try dsimp only)
    | split
    | (refine Keeps.of ?_; dsimp only; with_reducible refine Keeps.parts ?_)

theorem keeps_serveWrites {z0 s : State} (h : Keeps z0 s) :
    Keeps z0 (serveWrites s) := by
  unfold serveWrites
  try dsimp only
  repeat' first
    | with_reducible assumption
    | with_reducible apply keeps_access
    | with_reducible apply keeps_onPers
    | with_reducible apply Keeps.foldl
    | with_reducible apply Keeps.foldlPair
    | (intro _; intros; try dsimp only)
    | split
    | (refine Keeps.of ?_; dsimp only; with_reducible refine Keeps.parts ?_)

theorem keeps_rebuildStepDone {z0 s : State} (h : Keeps z0 s) (lost : List Nat) (ms : Nat) :
    Keeps z0 (rebuildStepDone s lost ms) := by
  have ite : ∀ (c : Prop) [Decidable c] (a b : State), Keeps z0 a → Keeps z0 b → Keeps z0 (if c then a else b) := by
    intro c _ a b ha hb
    split
    · exact ha
    · exact hb
  unfold rebuildStepDone
  dsimp only
  refine ite _ _ _ h (ite _ _ _ (keeps_onPers (Keeps.foldl h ?_) _) (ite _ _ _ (keeps_onPers (keeps_rebuildRecords h _) _)
    (ite _ _ _ (keeps_onPers (keeps_rebuildDirectory h) _) (ite _ _ _ (keeps_onPers (keeps_recoverRecords h _) _)
    (ite _ _ _ (keeps_onPers (keeps_rebuildImage h _) _) (ite _ _ _ ?_ (ite _ _ _ (keeps_serveWrites (keeps_onPers
    (keeps_rebuildFrames h) _)) (ite _ _ _ ?_ (keeps_restoreLate h)))))))))
  · intro t x ht
    exact keeps_treeBuild (keeps_groupRepair (keeps_groupsBuild (keeps_updChan ht _ _) _) _ _ _) _
  · split
    · exact keeps_rebuildPage h _
    · exact keeps_onPers h _
  · refine keeps_roEnter (keeps_serveWrites (keeps_serveReads (keeps_sample ?_ _ _) _))
    exact keeps_onPers (keeps_onPers (keeps_restoreLate h) _) _

theorem keeps_execRebuildStepDone {z0 s : State} (h : Keeps z0 s) (lost : List Nat) (ms : Nat) :
    ∃ t, execRebuildStepDone lost ms s = .next t ∧ Keeps z0 t := by
  unfold execRebuildStepDone
  refine ⟨_, rfl, ?_⟩
  try dsimp only
  repeat' first
    | with_reducible assumption
    | with_reducible apply keeps_rebuildStepDone
    | split
    | (refine Keeps.of ?_; dsimp only; with_reducible refine Keeps.parts ?_)

theorem keeps_replaceReserve {z0 s : State} (h : Keeps z0 s) (fx : Nat) :
    Keeps z0 (replaceReserve s fx) := by
  unfold replaceReserve
  try dsimp only
  repeat' first
    | with_reducible assumption
    | with_reducible apply keeps_putFrame
    | with_reducible apply keeps_onMedium
    | with_reducible apply keeps_updChan
    | with_reducible apply keeps_clearReserve
    | with_reducible apply keeps_updFrame
    | with_reducible apply keeps_setBudget
    | with_reducible apply Keeps.foldl
    | with_reducible apply Keeps.foldlPair
    | (intro _; intros; try dsimp only)
    | split
    | (refine Keeps.of ?_; dsimp only; with_reducible refine Keeps.parts ?_)

theorem keeps_restoredLinesSealed {z0 s : State} (h : Keeps z0 s) (badReserve : List Nat) :
    Keeps z0 (restoredLinesSealed s badReserve) := by
  unfold restoredLinesSealed
  try dsimp only
  repeat' first
    | with_reducible assumption
    | with_reducible apply keeps_onPers
    | with_reducible apply keeps_enterWriteBack
    | with_reducible apply keeps_replaceReserve
    | with_reducible apply keeps_clearReserves
    | with_reducible apply Keeps.foldl
    | with_reducible apply Keeps.foldlPair
    | (intro _; intros; try dsimp only)
    | split
    | (refine Keeps.of ?_; dsimp only; with_reducible refine Keeps.parts ?_)

theorem keeps_execRestoredLinesSealed {z0 s : State} (h : Keeps z0 s) (badReserve : List Nat) :
    ∃ t, execRestoredLinesSealed badReserve s = .next t ∧ Keeps z0 t := by
  unfold execRestoredLinesSealed
  refine ⟨_, rfl, ?_⟩
  try dsimp only
  repeat' first
    | with_reducible assumption
    | with_reducible apply keeps_restoredLinesSealed
    | split
    | (refine Keeps.of ?_; dsimp only; with_reducible refine Keeps.parts ?_)

theorem keeps_rebuildOnDemand {z0 s : State} (h : Keeps z0 s) (e c : Nat) (u2 : Nat) :
    Keeps z0 (rebuildOnDemand e c s u2) := by
  unfold rebuildOnDemand
  try dsimp only
  repeat' first
    | with_reducible assumption
    | with_reducible apply keeps_complete
    | with_reducible apply keeps_burn
    | with_reducible apply keeps_onMaps
    | with_reducible apply keeps_onPers
    | with_reducible apply keeps_sample
    | split
    | (refine Keeps.of ?_; dsimp only; with_reducible refine Keeps.parts ?_)

theorem keeps_execHRebuild {z0 s : State} (h : Keeps z0 s) (e c : Nat) :
    ∃ t, execHRebuild e c s = .next t ∧ Keeps z0 t := by
  unfold execHRebuild
  refine ⟨_, rfl, ?_⟩
  try dsimp only
  repeat' first
    | with_reducible assumption
    | with_reducible apply keeps_houseStepOf
    | with_reducible apply keeps_rebuildOnDemand
    | (intro _; intros; try dsimp only)
    | split
    | (refine Keeps.of ?_; dsimp only; with_reducible refine Keeps.parts ?_)

/-! ## Machine/Bus.lean -/

theorem keeps_dieAlert {z0 s : State} (h : Keeps z0 s) (ch : Nat) :
    Keeps z0 (dieAlert s ch) := by
  unfold dieAlert
  try dsimp only
  repeat' first
    | with_reducible assumption
    | with_reducible apply keeps_updChan
    | split
    | (refine Keeps.of ?_; dsimp only; with_reducible refine Keeps.parts ?_)

theorem keeps_execDieAlert {z0 s : State} (h : Keeps z0 s) (ch : Nat) :
    ∃ t, execDieAlert ch s = .next t ∧ Keeps z0 t := by
  unfold execDieAlert
  refine ⟨_, rfl, ?_⟩
  try dsimp only
  repeat' first
    | with_reducible assumption
    | with_reducible apply keeps_dieAlert
    | split
    | (refine Keeps.of ?_; dsimp only; with_reducible refine Keeps.parts ?_)

theorem keeps_dieStatusRecord {z0 s : State} (h : Keeps z0 s) (ch die : Nat) (rec : BitVec 128) :
    Keeps z0 (dieStatusRecord s ch die rec) := by
  unfold dieStatusRecord
  try dsimp only
  repeat' first
    | with_reducible assumption
    | with_reducible apply keeps_updChan
    | with_reducible apply keeps_frameDue
    | with_reducible apply keeps_record
    | with_reducible apply Keeps.foldl
    | with_reducible apply Keeps.foldlPair
    | (intro _; intros; try dsimp only)
    | split
    | (refine Keeps.of ?_; dsimp only; with_reducible refine Keeps.parts ?_)

theorem keeps_execDieStatusRecord {z0 s : State} (h : Keeps z0 s) (ch die : Nat) (record : BitVec 128) :
    ∃ t, execDieStatusRecord ch die record s = .next t ∧ Keeps z0 t := by
  unfold execDieStatusRecord
  refine ⟨_, rfl, ?_⟩
  try dsimp only
  repeat' first
    | with_reducible assumption
    | with_reducible apply keeps_dieStatusRecord
    | with_reducible apply keeps_record
    | split
    | (refine Keeps.of ?_; dsimp only; with_reducible refine Keeps.parts ?_)

theorem keeps_secondSamples {z0 s : State} (h : Keeps z0 s) :
    Keeps z0 (secondSamples s) := by
  unfold secondSamples
  try dsimp only
  repeat' first
    | with_reducible assumption
    | with_reducible apply keeps_sample
    | with_reducible apply Keeps.foldl
    | with_reducible apply Keeps.foldlPair
    | (intro _; intros; try dsimp only)
    | split
    | (refine Keeps.of ?_; dsimp only; with_reducible refine Keeps.parts ?_)

theorem keeps_operatingSecond {z0 s : State} (h : Keeps z0 s) (w : ScrubFinds) :
    Keeps z0 (operatingSecond s w) := by
  unfold operatingSecond
  try dsimp only
  repeat' first
    | with_reducible assumption
    | with_reducible apply keeps_secondSamples
    | with_reducible apply keeps_headerUpdate
    | with_reducible apply keeps_onRecs
    | with_reducible apply keeps_onMedium
    | with_reducible apply keeps_scrubSecond
    | with_reducible apply Keeps.foldl
    | with_reducible apply Keeps.foldlPair
    | (intro _; intros; try dsimp only)
    | split
    | (refine Keeps.of ?_; dsimp only; with_reducible refine Keeps.parts ?_)

theorem keeps_execOperatingSecond {z0 s : State} (h : Keeps z0 s) (found : List (Nat × Decoded)) (badHeaders : List Nat) (shifts : List (Nat × Nat)) :
    ∃ t, execOperatingSecond found badHeaders shifts s = .next t ∧ Keeps z0 t := by
  unfold execOperatingSecond
  refine ⟨_, rfl, ?_⟩
  try dsimp only
  repeat' first
    | with_reducible assumption
    | with_reducible apply keeps_operatingSecond
    | split
    | (refine Keeps.of ?_; dsimp only; with_reducible refine Keeps.parts ?_)

theorem keeps_jtagInstruction {z0 s : State} (h : Keeps z0 s) (ir : Nat) :
    Keeps z0 (jtagInstruction s ir) := by
  unfold jtagInstruction
  try dsimp only
  repeat' first
    | with_reducible assumption
    | split
    | (refine Keeps.of ?_; dsimp only; with_reducible refine Keeps.parts ?_)

theorem keeps_execJtagInstruction {z0 s : State} (h : Keeps z0 s) (ir : Nat) :
    ∃ t, execJtagInstruction ir s = .next t ∧ Keeps z0 t := by
  unfold execJtagInstruction
  refine ⟨_, rfl, ?_⟩
  try dsimp only
  repeat' first
    | with_reducible assumption
    | with_reducible apply keeps_jtagInstruction
    | split
    | (refine Keeps.of ?_; dsimp only; with_reducible refine Keeps.parts ?_)

theorem keeps_execJtagTapReset {z0 s : State} (h : Keeps z0 s) :
    ∃ t, execJtagTapReset s = .next t ∧ Keeps z0 t := by
  unfold execJtagTapReset
  refine ⟨_, rfl, ?_⟩
  try dsimp only
  repeat' first
    | with_reducible assumption
    | split
    | (refine Keeps.of ?_; dsimp only; with_reducible refine Keeps.parts ?_)

/-! ## Machine/Csr.lean -/

theorem keeps_csrRead {z0 s : State} (h : Keeps z0 s) (p n off : Nat) :
    Keeps z0 (csrRead s p n off).1 := by
  unfold csrRead
  try dsimp only
  repeat' first
    | with_reducible assumption
    | with_reducible apply keeps_updSess
    | split
    | (refine Keeps.of ?_; dsimp only; with_reducible refine Keeps.parts ?_)

theorem keeps_csrRead_eq {z0 s out : State} {p n off : Nat} {res : Nat} (h : Keeps z0 s)
    (hu : csrRead s p n off = (out, res)) : Keeps z0 out := by
  have k := keeps_csrRead h p n off
  rw [hu] at k
  exact k

theorem keeps_csrReads {z0 s : State} (h : Keeps z0 s) (p n off k : Nat) : Keeps z0 (csrReads s p n off k).1 := by
  induction k generalizing s off with
  | zero => exact h
  | succ k ih => exact ih (keeps_csrRead h p n off) (off + 4)

theorem keeps_bootGo {z0 s : State} (h : Keeps z0 s) (len : Nat) : Keeps z0 (bootGo s len) := by
  unfold bootGo
  dsimp only
  split
  · exact h
  · split
    · exact ⟨h.queue, h.fuses, fun b => buf_wf_filter _ (h.canon b), h.onward⟩
    · split
      · exact keeps_bootFailed h _
      · rename_i l _
        have k := keeps_installImage h l 2
        exact ⟨k.queue, k.fuses, fun b => buf_wf_filter _ (k.canon b), k.onward⟩

theorem keeps_bootFuse {z0 s : State} (h : Keeps z0 s) : Keeps z0 (bootFuse s) := by
  unfold bootFuse
  split
  · exact h
  · rename_i hs
    refine keeps_record ?_ _ _
    exact ⟨h.queue, fun k => absurd (h.fuses k).1 hs, h.canon, h.onward⟩

theorem keeps_okhWrite {z0 s : State} (h : Keeps z0 s) (i v : Nat) :
    Keeps z0 (okhWrite s i v) := by
  unfold okhWrite
  try dsimp only
  repeat' first
    | with_reducible assumption
    | split
    | (refine Keeps.of ?_; dsimp only; with_reducible refine Keeps.parts ?_)

theorem keeps_csrPut {z0 s : State} (h : Keeps z0 s) (p off : Nat) (v : W32) :
    Keeps z0 (csrPut s p off v) := by
  unfold csrPut
  try dsimp only
  repeat' first
    | with_reducible assumption
    | with_reducible apply keeps_bootFuse
    | with_reducible apply keeps_bootGo
    | with_reducible apply keeps_okhWrite
    | with_reducible apply keeps_onGoose
    | with_reducible apply keeps_updQueue
    | with_reducible apply keeps_onRecs
    | with_reducible apply keeps_record
    | split
    | (refine Keeps.of ?_; dsimp only; with_reducible refine Keeps.parts ?_)

theorem keeps_csrPuts {z0 s : State} (h : Keeps z0 s) (p off : Nat) (ws : List W32) : Keeps z0 (csrPuts s p off ws) := by
  induction ws generalizing s off with
  | nil => exact h
  | cons v t ih => exact ih (keeps_csrPut h p off v) (off + 4)

theorem keeps_mgt {z0 s0 : State} (h : Keeps z0 s0) (p n tag words : Nat) (go : State → MgtAns)
    (hg : ∀ t, Keeps z0 t → Keeps z0 (go t).state) : Keeps z0 (mgt s0 p n tag words go) := by
  unfold mgt
  dsimp only
  repeat' first
    | with_reducible assumption
    | with_reducible apply hg
    | with_reducible apply keeps_sendCpl
    | with_reducible apply keeps_record
    | with_reducible apply keeps_updPort
    | with_reducible apply keeps_freeCredit
    | with_reducible apply keeps_rxFlits
    | split
    | (refine Keeps.of ?_; dsimp only; with_reducible refine Keeps.parts ?_)

theorem keeps_mgtReadGo {z0 s : State} (h : Keeps z0 s) (p n : Nat) (buffer : Bool) (addr words : Nat) :
    Keeps z0 (mgtReadGo p n buffer addr words s).state := by
  unfold mgtReadGo
  try dsimp only
  repeat' first
    | with_reducible assumption
    | with_reducible apply keeps_csrReads
    | split
    | (refine Keeps.of ?_; dsimp only; with_reducible refine Keeps.parts ?_)

theorem keeps_mgtWriteGo {z0 s : State} (h : Keeps z0 s) (p n : Nat) (buffer : Bool) (addr : Nat) (ws : List W32) :
    Keeps z0 (mgtWriteGo p n buffer addr ws s).state := by
  unfold mgtWriteGo
  try dsimp only
  repeat' first
    | with_reducible assumption
    | with_reducible apply keeps_bufStore
    | with_reducible apply keeps_csrPuts
    | split
    | (refine Keeps.of ?_; dsimp only; with_reducible refine Keeps.parts ?_)

theorem keeps_mgtOpenGo {z0 s : State} (h : Keeps z0 s) (p n target : Nat) (admin : Bool) :
    Keeps z0 (mgtOpenGo p n target admin s).state := by
  unfold mgtOpenGo
  try dsimp only
  repeat' first
    | with_reducible assumption
    | with_reducible apply keeps_openSession
    | split
    | (refine Keeps.of ?_; dsimp only; with_reducible refine Keeps.parts ?_)

theorem keeps_mgtCloseGo {z0 s : State} (h : Keeps z0 s) (p n target : Nat) :
    Keeps z0 (mgtCloseGo p n target s).state := by
  unfold mgtCloseGo
  try dsimp only
  repeat' first
    | with_reducible assumption
    | with_reducible apply keeps_closeSession
    | split
    | (refine Keeps.of ?_; dsimp only; with_reducible refine Keeps.parts ?_)

theorem keeps_execMgtRead {z0 s : State} (h : Keeps z0 s) (port session tag : Nat) (buffer : Bool) (addr words : Nat) :
    ∃ t, execMgtRead port session tag buffer addr words s = .next t ∧ Keeps z0 t := by
  unfold execMgtRead
  refine ⟨_, rfl, ?_⟩
  try dsimp only
  repeat' first
    | with_reducible assumption
    | with_reducible apply keeps_mgt
    | with_reducible apply keeps_mgtReadGo
    | (intro _; intros; try dsimp only)
    | split
    | (refine Keeps.of ?_; dsimp only; with_reducible refine Keeps.parts ?_)

theorem keeps_execMgtWrite {z0 s : State} (h : Keeps z0 s) (port session tag : Nat) (buffer : Bool) (addr : Nat) (ws : List W32) :
    ∃ t, execMgtWrite port session tag buffer addr ws s = .next t ∧ Keeps z0 t := by
  unfold execMgtWrite
  refine ⟨_, rfl, ?_⟩
  try dsimp only
  repeat' first
    | with_reducible assumption
    | with_reducible apply keeps_mgt
    | with_reducible apply keeps_mgtWriteGo
    | (intro _; intros; try dsimp only)
    | split
    | (refine Keeps.of ?_; dsimp only; with_reducible refine Keeps.parts ?_)

theorem keeps_execMgtOpen {z0 s : State} (h : Keeps z0 s) (port session tag target : Nat) (admin : Bool) :
    ∃ t, execMgtOpen port session tag target admin s = .next t ∧ Keeps z0 t := by
  unfold execMgtOpen
  refine ⟨_, rfl, ?_⟩
  try dsimp only
  repeat' first
    | with_reducible assumption
    | with_reducible apply keeps_mgt
    | with_reducible apply keeps_mgtOpenGo
    | (intro _; intros; try dsimp only)
    | split
    | (refine Keeps.of ?_; dsimp only; with_reducible refine Keeps.parts ?_)

theorem keeps_execMgtClose {z0 s : State} (h : Keeps z0 s) (port session tag target : Nat) :
    ∃ t, execMgtClose port session tag target s = .next t ∧ Keeps z0 t := by
  unfold execMgtClose
  refine ⟨_, rfl, ?_⟩
  try dsimp only
  repeat' first
    | with_reducible assumption
    | with_reducible apply keeps_mgt
    | with_reducible apply keeps_mgtCloseGo
    | (intro _; intros; try dsimp only)
    | split
    | (refine Keeps.of ?_; dsimp only; with_reducible refine Keeps.parts ?_)

theorem keeps_execQdTail {z0 s : State} (h : Keeps z0 s) (port session tag q v : Nat) :
    ∃ t, execQdTail port session tag q v s = .next t ∧ Keeps z0 t := by
  unfold execQdTail
  refine ⟨_, rfl, ?_⟩
  try dsimp only
  repeat' first
    | with_reducible assumption
    | with_reducible apply keeps_mgt
    | with_reducible apply keeps_mgtWriteGo
    | (intro _; intros; try dsimp only)
    | split
    | (refine Keeps.of ?_; dsimp only; with_reducible refine Keeps.parts ?_)

theorem keeps_execQdChead {z0 s : State} (h : Keeps z0 s) (port session tag q v : Nat) :
    ∃ t, execQdChead port session tag q v s = .next t ∧ Keeps z0 t := by
  unfold execQdChead
  refine ⟨_, rfl, ?_⟩
  try dsimp only
  repeat' first
    | with_reducible assumption
    | with_reducible apply keeps_mgt
    | with_reducible apply keeps_mgtWriteGo
    | (intro _; intros; try dsimp only)
    | split
    | (refine Keeps.of ?_; dsimp only; with_reducible refine Keeps.parts ?_)

theorem keeps_execIdBootGo {z0 s : State} (h : Keeps z0 s) (port session tag len : Nat) :
    ∃ t, execIdBootGo port session tag len s = .next t ∧ Keeps z0 t := by
  unfold execIdBootGo
  refine ⟨_, rfl, ?_⟩
  try dsimp only
  repeat' first
    | with_reducible assumption
    | with_reducible apply keeps_mgt
    | with_reducible apply keeps_mgtWriteGo
    | (intro _; intros; try dsimp only)
    | split
    | (refine Keeps.of ?_; dsimp only; with_reducible refine Keeps.parts ?_)

theorem keeps_execIdBootFuse {z0 s : State} (h : Keeps z0 s) (port session tag : Nat) :
    ∃ t, execIdBootFuse port session tag s = .next t ∧ Keeps z0 t := by
  unfold execIdBootFuse
  refine ⟨_, rfl, ?_⟩
  try dsimp only
  repeat' first
    | with_reducible assumption
    | with_reducible apply keeps_mgt
    | with_reducible apply keeps_mgtWriteGo
    | (intro _; intros; try dsimp only)
    | split
    | (refine Keeps.of ?_; dsimp only; with_reducible refine Keeps.parts ?_)

theorem keeps_execPerfCounterRead {z0 s : State} (h : Keeps z0 s) (port session tag i : Nat) :
    ∃ t, execPerfCounterRead port session tag i s = .next t ∧ Keeps z0 t := by
  unfold execPerfCounterRead
  refine ⟨_, rfl, ?_⟩
  try dsimp only
  repeat' first
    | with_reducible assumption
    | with_reducible apply keeps_mgt
    | with_reducible apply keeps_mgtReadGo
    | (intro _; intros; try dsimp only)
    | split
    | (refine Keeps.of ?_; dsimp only; with_reducible refine Keeps.parts ?_)

theorem keeps_execCsrWrite {z0 s : State} (h : Keeps z0 s) (port session tag off : Nat) (v : W32) :
    ∃ t, execCsrWrite port session tag off v s = .next t ∧ Keeps z0 t := by
  unfold execCsrWrite
  refine ⟨_, rfl, ?_⟩
  try dsimp only
  repeat' first
    | with_reducible assumption
    | with_reducible apply keeps_mgt
    | with_reducible apply keeps_mgtWriteGo
    | (intro _; intros; try dsimp only)
    | split
    | (refine Keeps.of ?_; dsimp only; with_reducible refine Keeps.parts ?_)

end Sys2Proof.Laws
end

