-- ==== Sys2Proof/Laws/State.lean ====
section
/-! SUPPORT. Every part of the state after every named update: one lemma a part and update, true by unfolding. -/

namespace Sys2Proof.Laws

open Sys2Proof Sys2Proof.Machine

/-! ## putCtx -/

@[simp] theorem putCtx_boot (s : State) (e c : Nat) (x : Ctx) : (s.putCtx e c x).boot = s.boot := rfl
@[simp] theorem putCtx_goose (s : State) (e c : Nat) (x : Ctx) : (s.putCtx e c x).goose = s.goose := rfl
@[simp] theorem putCtx_ports (s : State) (e c : Nat) (x : Ctx) : (s.putCtx e c x).ports = s.ports := rfl
@[simp] theorem putCtx_cache (s : State) (e c : Nat) (x : Ctx) : (s.putCtx e c x).cache = s.cache := rfl
@[simp] theorem putCtx_maps (s : State) (e c : Nat) (x : Ctx) : (s.putCtx e c x).maps = s.maps := rfl
@[simp] theorem putCtx_medium (s : State) (e c : Nat) (x : Ctx) : (s.putCtx e c x).medium = s.medium := rfl
@[simp] theorem putCtx_pers (s : State) (e c : Nat) (x : Ctx) : (s.putCtx e c x).pers = s.pers := rfl
@[simp] theorem putCtx_regul (s : State) (e c : Nat) (x : Ctx) : (s.putCtx e c x).regul = s.regul := rfl
@[simp] theorem putCtx_keys (s : State) (e c : Nat) (x : Ctx) : (s.putCtx e c x).keys = s.keys := rfl
@[simp] theorem putCtx_recs (s : State) (e c : Nat) (x : Ctx) : (s.putCtx e c x).recs = s.recs := rfl
@[simp] theorem putCtx_free (s : State) (e c : Nat) (x : Ctx) : (s.putCtx e c x).free = s.free := rfl
@[simp] theorem putCtx_pending (s : State) (e c : Nat) (x : Ctx) : (s.putCtx e c x).pending = s.pending := rfl

/-! ## updCtx -/

@[simp] theorem updCtx_boot (s : State) (e c : Nat) (f : Ctx → Ctx) : (s.updCtx e c f).boot = s.boot := rfl
@[simp] theorem updCtx_goose (s : State) (e c : Nat) (f : Ctx → Ctx) : (s.updCtx e c f).goose = s.goose := rfl
@[simp] theorem updCtx_ports (s : State) (e c : Nat) (f : Ctx → Ctx) : (s.updCtx e c f).ports = s.ports := rfl
@[simp] theorem updCtx_cache (s : State) (e c : Nat) (f : Ctx → Ctx) : (s.updCtx e c f).cache = s.cache := rfl
@[simp] theorem updCtx_maps (s : State) (e c : Nat) (f : Ctx → Ctx) : (s.updCtx e c f).maps = s.maps := rfl
@[simp] theorem updCtx_medium (s : State) (e c : Nat) (f : Ctx → Ctx) : (s.updCtx e c f).medium = s.medium := rfl
@[simp] theorem updCtx_pers (s : State) (e c : Nat) (f : Ctx → Ctx) : (s.updCtx e c f).pers = s.pers := rfl
@[simp] theorem updCtx_regul (s : State) (e c : Nat) (f : Ctx → Ctx) : (s.updCtx e c f).regul = s.regul := rfl
@[simp] theorem updCtx_keys (s : State) (e c : Nat) (f : Ctx → Ctx) : (s.updCtx e c f).keys = s.keys := rfl
@[simp] theorem updCtx_recs (s : State) (e c : Nat) (f : Ctx → Ctx) : (s.updCtx e c f).recs = s.recs := rfl
@[simp] theorem updCtx_free (s : State) (e c : Nat) (f : Ctx → Ctx) : (s.updCtx e c f).free = s.free := rfl
@[simp] theorem updCtx_pending (s : State) (e c : Nat) (f : Ctx → Ctx) : (s.updCtx e c f).pending = s.pending := rfl

/-! ## updPort -/

@[simp] theorem updPort_boot (s : State) (p : Nat) (f : Port → Port) : (s.updPort p f).boot = s.boot := rfl
@[simp] theorem updPort_goose (s : State) (p : Nat) (f : Port → Port) : (s.updPort p f).goose = s.goose := rfl
@[simp] theorem updPort_cache (s : State) (p : Nat) (f : Port → Port) : (s.updPort p f).cache = s.cache := rfl
@[simp] theorem updPort_maps (s : State) (p : Nat) (f : Port → Port) : (s.updPort p f).maps = s.maps := rfl
@[simp] theorem updPort_medium (s : State) (p : Nat) (f : Port → Port) : (s.updPort p f).medium = s.medium := rfl
@[simp] theorem updPort_pers (s : State) (p : Nat) (f : Port → Port) : (s.updPort p f).pers = s.pers := rfl
@[simp] theorem updPort_regul (s : State) (p : Nat) (f : Port → Port) : (s.updPort p f).regul = s.regul := rfl
@[simp] theorem updPort_eng (s : State) (p : Nat) (f : Port → Port) : (s.updPort p f).eng = s.eng := rfl
@[simp] theorem updPort_keys (s : State) (p : Nat) (f : Port → Port) : (s.updPort p f).keys = s.keys := rfl
@[simp] theorem updPort_recs (s : State) (p : Nat) (f : Port → Port) : (s.updPort p f).recs = s.recs := rfl
@[simp] theorem updPort_free (s : State) (p : Nat) (f : Port → Port) : (s.updPort p f).free = s.free := rfl
@[simp] theorem updPort_pending (s : State) (p : Nat) (f : Port → Port) : (s.updPort p f).pending = s.pending := rfl

/-! ## updSess -/

@[simp] theorem updSess_boot (s : State) (p n : Nat) (f : Session → Session) : (s.updSess p n f).boot = s.boot := rfl
@[simp] theorem updSess_goose (s : State) (p n : Nat) (f : Session → Session) : (s.updSess p n f).goose = s.goose := rfl
@[simp] theorem updSess_cache (s : State) (p n : Nat) (f : Session → Session) : (s.updSess p n f).cache = s.cache := rfl
@[simp] theorem updSess_maps (s : State) (p n : Nat) (f : Session → Session) : (s.updSess p n f).maps = s.maps := rfl
@[simp] theorem updSess_medium (s : State) (p n : Nat) (f : Session → Session) : (s.updSess p n f).medium = s.medium := rfl
@[simp] theorem updSess_pers (s : State) (p n : Nat) (f : Session → Session) : (s.updSess p n f).pers = s.pers := rfl
@[simp] theorem updSess_regul (s : State) (p n : Nat) (f : Session → Session) : (s.updSess p n f).regul = s.regul := rfl
@[simp] theorem updSess_eng (s : State) (p n : Nat) (f : Session → Session) : (s.updSess p n f).eng = s.eng := rfl
@[simp] theorem updSess_keys (s : State) (p n : Nat) (f : Session → Session) : (s.updSess p n f).keys = s.keys := rfl
@[simp] theorem updSess_recs (s : State) (p n : Nat) (f : Session → Session) : (s.updSess p n f).recs = s.recs := rfl
@[simp] theorem updSess_free (s : State) (p n : Nat) (f : Session → Session) : (s.updSess p n f).free = s.free := rfl
@[simp] theorem updSess_pending (s : State) (p n : Nat) (f : Session → Session) : (s.updSess p n f).pending = s.pending := rfl

/-! ## updChan -/

@[simp] theorem updChan_boot (s : State) (c : Nat) (f : Chan → Chan) : (s.updChan c f).boot = s.boot := rfl
@[simp] theorem updChan_goose (s : State) (c : Nat) (f : Chan → Chan) : (s.updChan c f).goose = s.goose := rfl
@[simp] theorem updChan_ports (s : State) (c : Nat) (f : Chan → Chan) : (s.updChan c f).ports = s.ports := rfl
@[simp] theorem updChan_cache (s : State) (c : Nat) (f : Chan → Chan) : (s.updChan c f).cache = s.cache := rfl
@[simp] theorem updChan_maps (s : State) (c : Nat) (f : Chan → Chan) : (s.updChan c f).maps = s.maps := rfl
@[simp] theorem updChan_pers (s : State) (c : Nat) (f : Chan → Chan) : (s.updChan c f).pers = s.pers := rfl
@[simp] theorem updChan_regul (s : State) (c : Nat) (f : Chan → Chan) : (s.updChan c f).regul = s.regul := rfl
@[simp] theorem updChan_eng (s : State) (c : Nat) (f : Chan → Chan) : (s.updChan c f).eng = s.eng := rfl
@[simp] theorem updChan_keys (s : State) (c : Nat) (f : Chan → Chan) : (s.updChan c f).keys = s.keys := rfl
@[simp] theorem updChan_recs (s : State) (c : Nat) (f : Chan → Chan) : (s.updChan c f).recs = s.recs := rfl
@[simp] theorem updChan_free (s : State) (c : Nat) (f : Chan → Chan) : (s.updChan c f).free = s.free := rfl
@[simp] theorem updChan_pending (s : State) (c : Nat) (f : Chan → Chan) : (s.updChan c f).pending = s.pending := rfl

/-! ## updQueue -/

@[simp] theorem updQueue_boot (s : State) (q : Nat) (f : Queue → Queue) : (s.updQueue q f).boot = s.boot := rfl
@[simp] theorem updQueue_goose (s : State) (q : Nat) (f : Queue → Queue) : (s.updQueue q f).goose = s.goose := rfl
@[simp] theorem updQueue_ports (s : State) (q : Nat) (f : Queue → Queue) : (s.updQueue q f).ports = s.ports := rfl
@[simp] theorem updQueue_cache (s : State) (q : Nat) (f : Queue → Queue) : (s.updQueue q f).cache = s.cache := rfl
@[simp] theorem updQueue_maps (s : State) (q : Nat) (f : Queue → Queue) : (s.updQueue q f).maps = s.maps := rfl
@[simp] theorem updQueue_medium (s : State) (q : Nat) (f : Queue → Queue) : (s.updQueue q f).medium = s.medium := rfl
@[simp] theorem updQueue_pers (s : State) (q : Nat) (f : Queue → Queue) : (s.updQueue q f).pers = s.pers := rfl
@[simp] theorem updQueue_regul (s : State) (q : Nat) (f : Queue → Queue) : (s.updQueue q f).regul = s.regul := rfl
@[simp] theorem updQueue_keys (s : State) (q : Nat) (f : Queue → Queue) : (s.updQueue q f).keys = s.keys := rfl
@[simp] theorem updQueue_recs (s : State) (q : Nat) (f : Queue → Queue) : (s.updQueue q f).recs = s.recs := rfl
@[simp] theorem updQueue_free (s : State) (q : Nat) (f : Queue → Queue) : (s.updQueue q f).free = s.free := rfl
@[simp] theorem updQueue_pending (s : State) (q : Nat) (f : Queue → Queue) : (s.updQueue q f).pending = s.pending := rfl

/-! ## onCache -/

@[simp] theorem onCache_boot (s : State) (f : Cache → Cache) : (s.onCache f).boot = s.boot := rfl
@[simp] theorem onCache_goose (s : State) (f : Cache → Cache) : (s.onCache f).goose = s.goose := rfl
@[simp] theorem onCache_ports (s : State) (f : Cache → Cache) : (s.onCache f).ports = s.ports := rfl
@[simp] theorem onCache_cache (s : State) (f : Cache → Cache) : (s.onCache f).cache = f s.cache := rfl
@[simp] theorem onCache_maps (s : State) (f : Cache → Cache) : (s.onCache f).maps = s.maps := rfl
@[simp] theorem onCache_medium (s : State) (f : Cache → Cache) : (s.onCache f).medium = s.medium := rfl
@[simp] theorem onCache_pers (s : State) (f : Cache → Cache) : (s.onCache f).pers = s.pers := rfl
@[simp] theorem onCache_regul (s : State) (f : Cache → Cache) : (s.onCache f).regul = s.regul := rfl
@[simp] theorem onCache_eng (s : State) (f : Cache → Cache) : (s.onCache f).eng = s.eng := rfl
@[simp] theorem onCache_keys (s : State) (f : Cache → Cache) : (s.onCache f).keys = s.keys := rfl
@[simp] theorem onCache_recs (s : State) (f : Cache → Cache) : (s.onCache f).recs = s.recs := rfl
@[simp] theorem onCache_free (s : State) (f : Cache → Cache) : (s.onCache f).free = s.free := rfl
@[simp] theorem onCache_pending (s : State) (f : Cache → Cache) : (s.onCache f).pending = s.pending := rfl

/-! ## onMaps -/

@[simp] theorem onMaps_boot (s : State) (f : MapSt → MapSt) : (s.onMaps f).boot = s.boot := rfl
@[simp] theorem onMaps_goose (s : State) (f : MapSt → MapSt) : (s.onMaps f).goose = s.goose := rfl
@[simp] theorem onMaps_ports (s : State) (f : MapSt → MapSt) : (s.onMaps f).ports = s.ports := rfl
@[simp] theorem onMaps_cache (s : State) (f : MapSt → MapSt) : (s.onMaps f).cache = s.cache := rfl
@[simp] theorem onMaps_maps (s : State) (f : MapSt → MapSt) : (s.onMaps f).maps = f s.maps := rfl
@[simp] theorem onMaps_medium (s : State) (f : MapSt → MapSt) : (s.onMaps f).medium = s.medium := rfl
@[simp] theorem onMaps_pers (s : State) (f : MapSt → MapSt) : (s.onMaps f).pers = s.pers := rfl
@[simp] theorem onMaps_regul (s : State) (f : MapSt → MapSt) : (s.onMaps f).regul = s.regul := rfl
@[simp] theorem onMaps_eng (s : State) (f : MapSt → MapSt) : (s.onMaps f).eng = s.eng := rfl
@[simp] theorem onMaps_keys (s : State) (f : MapSt → MapSt) : (s.onMaps f).keys = s.keys := rfl
@[simp] theorem onMaps_recs (s : State) (f : MapSt → MapSt) : (s.onMaps f).recs = s.recs := rfl
@[simp] theorem onMaps_free (s : State) (f : MapSt → MapSt) : (s.onMaps f).free = s.free := rfl
@[simp] theorem onMaps_pending (s : State) (f : MapSt → MapSt) : (s.onMaps f).pending = s.pending := rfl

/-! ## onMedium -/

@[simp] theorem onMedium_boot (s : State) (f : Medium → Medium) : (s.onMedium f).boot = s.boot := rfl
@[simp] theorem onMedium_goose (s : State) (f : Medium → Medium) : (s.onMedium f).goose = s.goose := rfl
@[simp] theorem onMedium_ports (s : State) (f : Medium → Medium) : (s.onMedium f).ports = s.ports := rfl
@[simp] theorem onMedium_cache (s : State) (f : Medium → Medium) : (s.onMedium f).cache = s.cache := rfl
@[simp] theorem onMedium_maps (s : State) (f : Medium → Medium) : (s.onMedium f).maps = s.maps := rfl
@[simp] theorem onMedium_medium (s : State) (f : Medium → Medium) : (s.onMedium f).medium = f s.medium := rfl
@[simp] theorem onMedium_pers (s : State) (f : Medium → Medium) : (s.onMedium f).pers = s.pers := rfl
@[simp] theorem onMedium_regul (s : State) (f : Medium → Medium) : (s.onMedium f).regul = s.regul := rfl
@[simp] theorem onMedium_eng (s : State) (f : Medium → Medium) : (s.onMedium f).eng = s.eng := rfl
@[simp] theorem onMedium_keys (s : State) (f : Medium → Medium) : (s.onMedium f).keys = s.keys := rfl
@[simp] theorem onMedium_recs (s : State) (f : Medium → Medium) : (s.onMedium f).recs = s.recs := rfl
@[simp] theorem onMedium_free (s : State) (f : Medium → Medium) : (s.onMedium f).free = s.free := rfl
@[simp] theorem onMedium_pending (s : State) (f : Medium → Medium) : (s.onMedium f).pending = s.pending := rfl

/-! ## onPers -/

@[simp] theorem onPers_boot (s : State) (f : Persist → Persist) : (s.onPers f).boot = s.boot := rfl
@[simp] theorem onPers_goose (s : State) (f : Persist → Persist) : (s.onPers f).goose = s.goose := rfl
@[simp] theorem onPers_ports (s : State) (f : Persist → Persist) : (s.onPers f).ports = s.ports := rfl
@[simp] theorem onPers_cache (s : State) (f : Persist → Persist) : (s.onPers f).cache = s.cache := rfl
@[simp] theorem onPers_maps (s : State) (f : Persist → Persist) : (s.onPers f).maps = s.maps := rfl
@[simp] theorem onPers_medium (s : State) (f : Persist → Persist) : (s.onPers f).medium = s.medium := rfl
@[simp] theorem onPers_pers (s : State) (f : Persist → Persist) : (s.onPers f).pers = f s.pers := rfl
@[simp] theorem onPers_regul (s : State) (f : Persist → Persist) : (s.onPers f).regul = s.regul := rfl
@[simp] theorem onPers_eng (s : State) (f : Persist → Persist) : (s.onPers f).eng = s.eng := rfl
@[simp] theorem onPers_keys (s : State) (f : Persist → Persist) : (s.onPers f).keys = s.keys := rfl
@[simp] theorem onPers_recs (s : State) (f : Persist → Persist) : (s.onPers f).recs = s.recs := rfl
@[simp] theorem onPers_free (s : State) (f : Persist → Persist) : (s.onPers f).free = s.free := rfl
@[simp] theorem onPers_pending (s : State) (f : Persist → Persist) : (s.onPers f).pending = s.pending := rfl

/-! ## onGoose -/

@[simp] theorem onGoose_boot (s : State) (f : Goose → Goose) : (s.onGoose f).boot = s.boot := rfl
@[simp] theorem onGoose_goose (s : State) (f : Goose → Goose) : (s.onGoose f).goose = f s.goose := rfl
@[simp] theorem onGoose_ports (s : State) (f : Goose → Goose) : (s.onGoose f).ports = s.ports := rfl
@[simp] theorem onGoose_cache (s : State) (f : Goose → Goose) : (s.onGoose f).cache = s.cache := rfl
@[simp] theorem onGoose_maps (s : State) (f : Goose → Goose) : (s.onGoose f).maps = s.maps := rfl
@[simp] theorem onGoose_medium (s : State) (f : Goose → Goose) : (s.onGoose f).medium = s.medium := rfl
@[simp] theorem onGoose_pers (s : State) (f : Goose → Goose) : (s.onGoose f).pers = s.pers := rfl
@[simp] theorem onGoose_regul (s : State) (f : Goose → Goose) : (s.onGoose f).regul = s.regul := rfl
@[simp] theorem onGoose_eng (s : State) (f : Goose → Goose) : (s.onGoose f).eng = s.eng := rfl
@[simp] theorem onGoose_keys (s : State) (f : Goose → Goose) : (s.onGoose f).keys = s.keys := rfl
@[simp] theorem onGoose_recs (s : State) (f : Goose → Goose) : (s.onGoose f).recs = s.recs := rfl
@[simp] theorem onGoose_free (s : State) (f : Goose → Goose) : (s.onGoose f).free = s.free := rfl
@[simp] theorem onGoose_pending (s : State) (f : Goose → Goose) : (s.onGoose f).pending = s.pending := rfl

/-! ## onRecs -/

@[simp] theorem onRecs_boot (s : State) (f : Records → Records) : (s.onRecs f).boot = s.boot := rfl
@[simp] theorem onRecs_goose (s : State) (f : Records → Records) : (s.onRecs f).goose = s.goose := rfl
@[simp] theorem onRecs_ports (s : State) (f : Records → Records) : (s.onRecs f).ports = s.ports := rfl
@[simp] theorem onRecs_cache (s : State) (f : Records → Records) : (s.onRecs f).cache = s.cache := rfl
@[simp] theorem onRecs_maps (s : State) (f : Records → Records) : (s.onRecs f).maps = s.maps := rfl
@[simp] theorem onRecs_medium (s : State) (f : Records → Records) : (s.onRecs f).medium = s.medium := rfl
@[simp] theorem onRecs_pers (s : State) (f : Records → Records) : (s.onRecs f).pers = s.pers := rfl
@[simp] theorem onRecs_regul (s : State) (f : Records → Records) : (s.onRecs f).regul = s.regul := rfl
@[simp] theorem onRecs_eng (s : State) (f : Records → Records) : (s.onRecs f).eng = s.eng := rfl
@[simp] theorem onRecs_keys (s : State) (f : Records → Records) : (s.onRecs f).keys = s.keys := rfl
@[simp] theorem onRecs_recs (s : State) (f : Records → Records) : (s.onRecs f).recs = f s.recs := rfl
@[simp] theorem onRecs_free (s : State) (f : Records → Records) : (s.onRecs f).free = s.free := rfl
@[simp] theorem onRecs_pending (s : State) (f : Records → Records) : (s.onRecs f).pending = s.pending := rfl

/-! ## burn -/

@[simp] theorem burn_boot (s : State) (n : Nat) : (s.burn n).boot = s.boot := rfl
@[simp] theorem burn_goose (s : State) (n : Nat) : (s.burn n).goose = s.goose := rfl
@[simp] theorem burn_ports (s : State) (n : Nat) : (s.burn n).ports = s.ports := rfl
@[simp] theorem burn_cache (s : State) (n : Nat) : (s.burn n).cache = s.cache := rfl
@[simp] theorem burn_maps (s : State) (n : Nat) : (s.burn n).maps = s.maps := rfl
@[simp] theorem burn_medium (s : State) (n : Nat) : (s.burn n).medium = s.medium := rfl
@[simp] theorem burn_pers (s : State) (n : Nat) : (s.burn n).pers = s.pers := rfl
@[simp] theorem burn_regul (s : State) (n : Nat) : (s.burn n).regul = s.regul := rfl
@[simp] theorem burn_eng (s : State) (n : Nat) : (s.burn n).eng = s.eng := rfl
@[simp] theorem burn_keys (s : State) (n : Nat) : (s.burn n).keys = s.keys := rfl
@[simp] theorem burn_recs (s : State) (n : Nat) : (s.burn n).recs = s.recs := rfl
@[simp] theorem burn_free (s : State) (n : Nat) : (s.burn n).free = s.free + n := rfl
@[simp] theorem burn_pending (s : State) (n : Nat) : (s.burn n).pending = s.pending := rfl

/-! ## bufStore -/

@[simp] theorem bufStore_boot (s : State) (a : Nat) (l : List Byte) : (s.bufStore a l).boot = s.boot := rfl
@[simp] theorem bufStore_goose (s : State) (a : Nat) (l : List Byte) : (s.bufStore a l).goose = s.goose := rfl
@[simp] theorem bufStore_ports (s : State) (a : Nat) (l : List Byte) : (s.bufStore a l).ports = s.ports := rfl
@[simp] theorem bufStore_cache (s : State) (a : Nat) (l : List Byte) : (s.bufStore a l).cache = s.cache := rfl
@[simp] theorem bufStore_maps (s : State) (a : Nat) (l : List Byte) : (s.bufStore a l).maps = s.maps := rfl
@[simp] theorem bufStore_medium (s : State) (a : Nat) (l : List Byte) : (s.bufStore a l).medium = s.medium := rfl
@[simp] theorem bufStore_pers (s : State) (a : Nat) (l : List Byte) : (s.bufStore a l).pers = s.pers := rfl
@[simp] theorem bufStore_regul (s : State) (a : Nat) (l : List Byte) : (s.bufStore a l).regul = s.regul := rfl
@[simp] theorem bufStore_keys (s : State) (a : Nat) (l : List Byte) : (s.bufStore a l).keys = s.keys := rfl
@[simp] theorem bufStore_recs (s : State) (a : Nat) (l : List Byte) : (s.bufStore a l).recs = s.recs := rfl
@[simp] theorem bufStore_free (s : State) (a : Nat) (l : List Byte) : (s.bufStore a l).free = s.free := rfl
@[simp] theorem bufStore_pending (s : State) (a : Nat) (l : List Byte) : (s.bufStore a l).pending = s.pending := rfl

end Sys2Proof.Laws
end

