-- ==== Sys2Proof/WellFormed.lean ====
section
/-! DEFINITION. When a command is well formed: every operand lies within the width the spec gives its field. -/

namespace Sys2Proof

/-- Whose report a mule makes names a context, a page or the flush. -/
def Mule.wf : Mule → Bool
  | .ctx e c => decide (e < 16) && decide (c < 32)
  | .page p => decide (p < 2 ^ 32)
  | .flush => true

/-- Whether every operand of a command lies within its field (Tables 12-4 to 12-6, 10-1, 10-6, 15-2 and the others that
the command's rule names). -/
def Instr.wf : Instr → Bool
  | .rd64 port session tag addr _ => decide (port < 4) && decide (session < 8) && decide (tag < 4096) && decide (addr < 2 ^ 44)
  | .rd256 port session tag addr _ => decide (port < 4) && decide (session < 8) && decide (tag < 4096) && decide (addr < 2 ^ 44)
  | .wr64 port session tag addr _ _ => decide (port < 4) && decide (session < 8) && decide (tag < 4096) && decide (addr < 2 ^ 44)
  | .wr256 port session tag addr _ _ => decide (port < 4) && decide (session < 8) && decide (tag < 4096) && decide (addr < 2 ^ 44)
  | .wrp port session tag addr _ _ _ => decide (port < 4) && decide (session < 8) && decide (tag < 4096) && decide (addr < 2 ^ 44)
  | .acc port session tag addr _ _ => decide (port < 4) && decide (session < 8) && decide (tag < 4096) && decide (addr < 2 ^ 44)
  | .mgtRead port session tag _ addr words => decide (port < 4) && decide (session < 8) && decide (tag < 4096) && decide (addr < 2 ^ 40) && decide (words < 32)
  | .mgtWrite port session tag _ addr ws => decide (port < 4) && decide (session < 8) && decide (tag < 4096) && decide (addr < 2 ^ 40) && decide (ws.length < 32)
  | .mgtOpen port session tag target _ => decide (port < 4) && decide (session < 8) && decide (tag < 4096) && decide (target < 8)
  | .mgtClose port session tag target => decide (port < 4) && decide (session < 8) && decide (tag < 4096) && decide (target < 8)
  | .protocolError port => decide (port < 4)
  | .badFlit port _ => decide (port < 4)
  | .credit port vc n => decide (port < 4) && decide (vc < 4) && decide (n < 2 ^ 16)
  | .nak port expSeq => decide (port < 4) && decide (expSeq < 1024)
  | .linkInit port _ vc2 vc3 ack => decide (port < 4) && decide (vc2 < 2 ^ 16) && decide (vc3 < 2 ^ 16) && decide (ack < 1024)
  | .trainDetected port => decide (port < 4)
  | .downReceived port reason => decide (port < 4) && decide (reason < 16)
  | .nakRepeat port => decide (port < 4)
  | .replayTimeout port => decide (port < 4)
  | .creditReturnTimer port vc => decide (port < 4) && decide (vc < 4)
  | .skipSend port => decide (port < 4)
  | .keepWindowExpiry port => decide (port < 4)
  | .trainingPhaseDone port => decide (port < 4)
  | .trainingPhaseTimeout port => decide (port < 4)
  | .trainRetry port => decide (port < 4)
  | .tokenRefill => true
  | .ntfSend port session => decide (port < 4) && decide (session < 8)
  | .taskRun e c q _ => decide (e < 16) && decide (c < 32) && decide (q < 4096)
  | .hcall e c q _ => decide (e < 16) && decide (c < 32) && decide (q < 4096)
  | .qopen e c q _ => decide (e < 16) && decide (c < 32) && decide (q < 4096)
  | .qclose e c q _ => decide (e < 16) && decide (c < 32) && decide (q < 4096)
  | .pload e c q _ => decide (e < 16) && decide (c < 32) && decide (q < 4096)
  | .completionWrite e c => decide (e < 16) && decide (c < 32)
  | .step e c => decide (e < 16) && decide (c < 32)
  | .jmp e c => decide (e < 16) && decide (c < 32)
  | .br e c => decide (e < 16) && decide (c < 32)
  | .loop e c => decide (e < 16) && decide (c < 32)
  | .waitTimer e c => decide (e < 16) && decide (c < 32)
  | .waitNotify e c => decide (e < 16) && decide (c < 32)
  | .call e c => decide (e < 16) && decide (c < 32)
  | .callHouse e c => decide (e < 16) && decide (c < 32)
  | .ret e c => decide (e < 16) && decide (c < 32)
  | .endTask e c => decide (e < 16) && decide (c < 32)
  | .yield e c => decide (e < 16) && decide (c < 32)
  | .set e c => decide (e < 16) && decide (c < 32)
  | .add e c => decide (e < 16) && decide (c < 32)
  | .and e c => decide (e < 16) && decide (c < 32)
  | .or e c => decide (e < 16) && decide (c < 32)
  | .xor e c => decide (e < 16) && decide (c < 32)
  | .shf e c => decide (e < 16) && decide (c < 32)
  | .cmp e c => decide (e < 16) && decide (c < 32)
  | .ld e c _ => decide (e < 16) && decide (c < 32)
  | .st e c _ => decide (e < 16) && decide (c < 32)
  | .move e c _ => decide (e < 16) && decide (c < 32)
  | .copy e c _ => decide (e < 16) && decide (c < 32)
  | .fill e c _ => decide (e < 16) && decide (c < 32)
  | .fence e c => decide (e < 16) && decide (c < 32)
  | .postedUnitDone e c _ => decide (e < 16) && decide (c < 32)
  | .strmDef e c => decide (e < 16) && decide (c < 32)
  | .strmGo e c => decide (e < 16) && decide (c < 32)
  | .strmStop e c => decide (e < 16) && decide (c < 32)
  | .strmStopDrop e c => decide (e < 16) && decide (c < 32)
  | .strmStat e c => decide (e < 16) && decide (c < 32)
  | .rgnDef e c => decide (e < 16) && decide (c < 32)
  | .rgnAttr e c => decide (e < 16) && decide (c < 32)
  | .rgnDrop e c => decide (e < 16) && decide (c < 32)
  | .rgnDropDrainEnd region => decide (region < 256)
  | .mapTrim e c => decide (e < 16) && decide (c < 32)
  | .mapTrimPoison e c => decide (e < 16) && decide (c < 32)
  | .mapQuery e c => decide (e < 16) && decide (c < 32)
  | .ckpt e c => decide (e < 16) && decide (c < 32)
  | .cacheOn e c => decide (e < 16) && decide (c < 32)
  | .cacheOnForce e c => decide (e < 16) && decide (c < 32)
  | .cacheOff e c => decide (e < 16) && decide (c < 32)
  | .cacheOffForce e c => decide (e < 16) && decide (c < 32)
  | .cacheWays e c => decide (e < 16) && decide (c < 32)
  | .cacheFlush e c => decide (e < 16) && decide (c < 32)
  | .cacheClean e c => decide (e < 16) && decide (c < 32)
  | .cacheInval e c => decide (e < 16) && decide (c < 32)
  | .cacheZero e c _ => decide (e < 16) && decide (c < 32)
  | .scrubRange e c _ _ _ _ => decide (e < 16) && decide (c < 32)
  | .scrubRate e c => decide (e < 16) && decide (c < 32)
  | .mediaRawrd e c => decide (e < 16) && decide (c < 32)
  | .mediaRawwr e c => decide (e < 16) && decide (c < 32)
  | .mediaRetire e c => decide (e < 16) && decide (c < 32)
  | .calRun e c => decide (e < 16) && decide (c < 32)
  | .lblSet e c => decide (e < 16) && decide (c < 32)
  | .lblSetLimit e c => decide (e < 16) && decide (c < 32)
  | .ledgAdmit e c => decide (e < 16) && decide (c < 32)
  | .ledgDrop e c => decide (e < 16) && decide (c < 32)
  | .ledgQuery e c => decide (e < 16) && decide (c < 32)
  | .slotLoad e c => decide (e < 16) && decide (c < 32)
  | .slotSwap e c => decide (e < 16) && decide (c < 32)
  | .arbCfg e c => decide (e < 16) && decide (c < 32)
  | .arbRead e c => decide (e < 16) && decide (c < 32)
  | .keyLoad e c => decide (e < 16) && decide (c < 32)
  | .keyRetire e c => decide (e < 16) && decide (c < 32)
  | .keyQuery e c => decide (e < 16) && decide (c < 32)
  | .xtsEnc e c _ => decide (e < 16) && decide (c < 32)
  | .xtsDec e c => decide (e < 16) && decide (c < 32)
  | .claim e c => decide (e < 16) && decide (c < 32)
  | .claimForce e c => decide (e < 16) && decide (c < 32)
  | .free e c => decide (e < 16) && decide (c < 32)
  | .railCfg e c => decide (e < 16) && decide (c < 32)
  | .thermCfg e c => decide (e < 16) && decide (c < 32)
  | .evtRead e c => decide (e < 16) && decide (c < 32)
  | .evtReadSnap e c => decide (e < 16) && decide (c < 32)
  | .perfCfg e c => decide (e < 16) && decide (c < 32)
  | .perfDump e c => decide (e < 16) && decide (c < 32)
  | .nvPut e c => decide (e < 16) && decide (c < 32)
  | .nvGet e c => decide (e < 16) && decide (c < 32)
  | .resetKind0 e c => decide (e < 16) && decide (c < 32)
  | .resetKind1 e c => decide (e < 16) && decide (c < 32)
  | .resetKind2 e c => decide (e < 16) && decide (c < 32)
  | .hInit e c => decide (e < 16) && decide (c < 32)
  | .hFormat e c => decide (e < 16) && decide (c < 32)
  | .hFlushAll e c => decide (e < 16) && decide (c < 32)
  | .hScrubRange e c _ _ _ _ => decide (e < 16) && decide (c < 32)
  | .hSecureErase e c => decide (e < 16) && decide (c < 32)
  | .hKeyRoll e c => decide (e < 16) && decide (c < 32)
  | .hRekey e c => decide (e < 16) && decide (c < 32)
  | .hStreamLoop e c => decide (e < 16) && decide (c < 32)
  | .hRebuild e c => decide (e < 16) && decide (c < 32)
  | .qdTail port session tag q v => decide (port < 4) && decide (session < 8) && decide (tag < 4096) && decide (q < 4096) && decide (v < 2 ^ 16)
  | .qdChead port session tag q v => decide (port < 4) && decide (session < 8) && decide (tag < 4096) && decide (q < 4096) && decide (v < 2 ^ 16)
  | .idBootGo port session tag len => decide (port < 4) && decide (session < 8) && decide (tag < 4096) && decide (len < 2 ^ 21)
  | .idBootFuse port session tag => decide (port < 4) && decide (session < 8) && decide (tag < 4096)
  | .perfCounterRead port session tag i => decide (port < 4) && decide (session < 8) && decide (tag < 4096) && decide (i < 256)
  | .csrWrite port session tag off _ => decide (port < 4) && decide (session < 8) && decide (tag < 4096) && decide (off < 2 ^ 24)
  | .smbStatus => true
  | .smbTemps => true
  | .smbAlertClr => true
  | .smbRestart _ => true
  | .smbAlertResponse => true
  | .pfailNFall => true
  | .vinSnsLow mv => decide (mv < 2 ^ 16)
  | .resetNLow => true
  | .resetNRise => true
  | .strapWindowEnd samples => decide (samples.length = 8)
  | .vauxCollapse mv => decide (mv < 2 ^ 16)
  | .vauxRise mv => decide (mv < 2 ^ 16)
  | .powerUpStart mv => decide (mv < 2 ^ 16)
  | .powerUpStep => true
  | .railEnableTimeout rail => decide (rail < 12)
  | .railPgChange rail _ _ => decide (rail < 12)
  | .railSenseSample mvs vin vaux => decide (mvs.length = 12) && decide (vin < 2 ^ 16) && decide (vaux < 2 ^ 16)
  | .railRetryExpiry rail => decide (rail < 12)
  | .railIncidentEnd rail => decide (rail < 12)
  | .flushStepDone _ _ => true
  | .flushComplete _ mv => decide (mv < 2 ^ 16)
  | .flushRestartDelay _ mv => decide (mv < 2 ^ 16)
  | .resetFlushTimeout => true
  | .powerDown => true
  | .powerDownStep _ _ => true
  | .norWriteAbandon => true
  | .tempSample temps speeds => decide (temps.length = 8) && decide (speeds.length = 8)
  | .orderlyStopDrainEnd => true
  | .thermalRestart => true
  | .keepaliveMissing => true
  | .hsStepTimeout hs => decide (hs < 8)
  | .flushStall => true
  | .jtagInstruction ir => decide (ir < 6)
  | .jtagTapReset => true
  | .startPhaseDone _ => true
  | .rebuildStepDone _ _ => true
  | .restoredLinesSealed _ => true
  | .muleReport m _ _ => m.wf
  | .mediaReadDecoded line _ => decide (line < 2 ^ 36)
  | .reReadDone line _ _ => decide (line < 2 ^ 36)
  | .fillComplete line => decide (line < 2 ^ 36)
  | .laneProtectedRunEnd ch => decide (ch < 16)
  | .dieAlert ch => decide (ch < 16)
  | .dieStatusRecord ch die _ => decide (ch < 16) && decide (die < 8)
  | .wbbEntryFreed => true
  | .writeBackStart page _ _ => decide (page < 2 ^ 32)
  | .pageCopyProgrammed page _ => decide (page < 2 ^ 32)
  | .journalRecordStart => true
  | .journalBodyVerified _ => true
  | .sealVerified _ => true
  | .monotoneProgramDone page line n _ => decide (page < 2 ^ 32) && decide (line < 2 ^ 36) && decide (1 ≤ n) && decide (n ≤ 4)
  | .migrationStart page _ => decide (page < 2 ^ 32)
  | .reclaimStart ch _ => decide (ch < 16)
  | .frameClearStart ch => decide (ch < 16)
  | .clearDone ch _ _ => decide (ch < 16)
  | .treeRebuilt ch _ _ _ => decide (ch < 16)
  | .integrityFrameClose ch use => decide (ch < 16) && decide (use < 12)
  | .frameRetire fx _ => decide (fx < 2 ^ 25)
  | .ledgerRevalidate => true
  | .scrubPassStart ch => decide (ch < 16)
  | .relocationStart ch _ => decide (ch < 16)
  | .patchFrameMove ch _ => decide (ch < 16)
  | .patchRepairCheck ch _ _ => decide (ch < 16)
  | .operatingSecond _ _ _ => true
  | .stampTableAppend => true
  | .checkpointStart => true
  | .checkpointSealVerified => true
  | .rekeyBatch _ => true
  | .rekeyComplete => true
  | .dieDirectoryRebuild fx => decide (fx < 2 ^ 25)
  | .mapEntryRecovery page _ => decide (page < 2 ^ 32)
  | .calibrationStart => true
  | .periodicCalibration => true
  | .calibrationDone _ unit _ => decide (unit < 16)
  | .streamFetchIssue n _ => decide (n < 1024)
  | .streamFlitRelease n => decide (n < 1024)
  | .slotEntryElapse ch => decide (ch < 16)
  | .arbitrationDecision arb => decide (arb < 0x50)
  | .timerExpiry n => decide (n < 8)
  | .limitMsExpiry e c => decide (e < 16) && decide (c < 32)
  | .contextStallRecord e c => decide (e < 16) && decide (c < 32)
  | .creditWaitRecord port _ => decide (port < 4)
  | .periodicDump => true
  | .nvCompaction area => decide (area < 2)
  | .trigPulseEnd ball => decide (ball < 4)
  | .smbNack _ => true
  | .ackAdvanced port ack _ => decide (port < 4) && decide (ack < 1024)

end Sys2Proof
end

