-- ==== Sys2Proof/Tests/Slice0.lean ====
section
/-! SUPPORT. Small states and the tests on them: for every statement with hypotheses, a state and operands that meet them. -/

namespace Sys2Proof.Tests

set_option Elab.async false

open Sys2Proof Sys2Proof.Machine

/-! ## States -/

/-- A region of a number of pages from a base, T density unless said otherwise. -/
def rgn (base pages : Nat) (mono : Bool := false) (integ : Bool := false) (density : Nat := 1) (key : Nat := 1) : Region :=
  { base := base, size := 4096 * pages, density := density, mono := mono, integ := integ, key := key, label := 0, access := 0,
    ways := 0xFFFF }

/-- A device in full service: its rails are on, port 0 is active with session 0 open and ADMIN, Q0 is that session's control queue,
Q32 a queue of it with a buffer of 1 MiB, regions 0 and 1 stand with the loaded key 1, the cache is write-back and empty. -/
def up : State :=
  { State.reset with
    boot := { stage := 7, full := true, formatted := true, sysFrames := true, cold := 0 }
    goose := { State.reset.goose with
      phase := 3, upStep := 8, rails := (List.range 12).map (fun i => { Rail.reset i with on := true, pg := true, inWin := true }) }
    ports := (List.range 4).map (fun p => if p = 0
      then { Port.reset with
        state := 2, elecIdle := false, credit := [0, 0, 64, 64]
        sessions := { isOpen := true, admin := true } :: List.replicate 7 Session.closed }
      else Port.reset)
    cache := { State.reset.cache with on := true, wback := true, sets := 64, budget := 512 }
    maps := { hcap := 2 ^ 30, regions := [(0, rgn 0 1024), (1, rgn 0x400000 512 true)] }
    pers := { rebuild := 11, reserveOk := true }
    keys := { State.reset.keys with recs := [(1, { state := 1, ceil := 1000 })] }
    eng := { State.reset.eng with
      queues := [(0, { port := 0, session := 0, engine := 0, label := 0, dlog := 6, clog := 6, bufMib := 0 }),
        (32, { port := 0, session := 0, engine := 0, label := 0, dlog := 6, clog := 6, bufMib := 1 })] } }

/-- A device with other regulators. -/
def regul (s : State) (f : Regul → Regul) : State := { s with regul := f s.regul }

/-- A word of an opcode: registers A to D are g1 to g4 where they are named. -/
def wd (op : Nat) (imm : Nat := 0) (a b c d : BitVec 5 := 0) (force : Bool := false) : SWord :=
  { opcode := BitVec.ofNat 8 op, step := 0, expert := force, force := force, long := false, imm := false, a := a, b := b, c := c,
    d := d, immf := BitVec.ofNat 28 imm }

/-- A device whose engine 0 runs a task of Q0 in context 0, at a word, with registers. -/
def run (w : SWord) (g : List W64) (s : State := up) (x : Ctx := {}) : State :=
  { s with eng := { s.eng with prog := [(0, encodeWord w)], ctx := [(0, { x with state := 1, g := g })] } }

/-- Its context. -/
def cx (s : State) : Ctx := s.ctx 0 0

/-- Buffer operand of an offset in Q32's buffer. -/
def bufOp (off : Nat) : W64 := BitVec.ofNat 64 (2 ^ 63 + bufAddr 32 off)

/-- Whether the first context issues a word in a state. -/
def iss (s : State) (w : SWord) : Bool := s.issues 0 0 w w.op

/-- The device with session 0 a TENANT. -/
def tenant : State := up.updSess 0 0 (fun x => { x with admin := false })

/-! ## Witnesses -/

/-- The premises of StepRunsFrontCommand need nothing; EmptyQueueIdles meets the state after reset. -/
theorem wit_EmptyQueueIdles : State.reset.pending = [] := rfl

/-- RegisterResults: a word of each opcode issues. -/
theorem wit_RegisterResults :
    [0x10, 0x11, 0x12, 0x13, 0x14, 0x15].all (fun op => let w := wd op 0 1 (if op = 0x10 then 0 else 2) 0 4
      iss (run w [0, 2 ^ 64 - 1, 1]) w) = true
    ∧ iss (run (wd 0x16 0 1 2) [0, 5, 5]) (wd 0x16 0 1 2) = true := by decide +kernel

/-- FlowResults: STEP of the last status, JMP, BR taken and not taken, LOOP at 2 and at 1, CALL with seven entries, CALL of H.INIT and
of H.REBUILD, RET with one entry, END, YIELD; a code that is none, a reserved condition, a routine that is none, a TENANT queue. -/
theorem wit_FlowResults :
    (iss (run (wd 0 0x12) []) (wd 0 0x12) = true ∧ (wd 0 0x12).fld 7 0 ≤ 0x12)
    ∧ (iss (run (wd 0 0x13) []) (wd 0 0x13) = true ∧ 0x12 < (wd 0 0x13).fld 7 0)
    ∧ (iss (run (wd 2 0x90005) []) (wd 2 0x90005) = true ∧ brTaken ((wd 2 0x90005).fld 19 16) (flagsOf 0) = none)
    ∧ (let w := wd 5 (2 ^ 27 + 10); iss (run w []) w && w.bit 27 && decide (9 < w.fld 7 0)) = true
    ∧ [3, 4].all (fun n => let w := wd 5 (2 ^ 27 + n); let s := run w [] tenant; iss s w && w.bit 27 && !s.queueAdmin 0) = true
    ∧ iss (run (wd 1 0x1FFF) []) (wd 1 0x1FFF) = true
    ∧ (iss (run (wd 2 0x80005) []) (wd 2 0x80005) = true ∧ brTaken ((wd 2 0x80005).fld 19 16) (flagsOf 0) = some true)
    ∧ (iss (run (wd 2 0x5) []) (wd 2 0x5) = true ∧ brTaken ((wd 2 0x5).fld 19 16) (flagsOf 0) = some false)
    ∧ (iss (run (wd 3 7 1) [0, 2]) (wd 3 7 1) = true ∧ (cx (run (wd 3 7 1) [0, 2])).reg 1 - 1 ≠ 0)
    ∧ (iss (run (wd 3 7 1) [0, 1]) (wd 3 7 1) = true ∧ (cx (run (wd 3 7 1) [0, 1])).reg 1 - 1 = 0)
    ∧ (iss (run (wd 5 9) [] up { stack := List.replicate 7 3 }) (wd 5 9) = true ∧ (wd 5 9).bit 27 = false)
    ∧ [1, 9].all (fun n => let w := wd 5 (2 ^ 27 + n); iss (run w []) w && w.bit 27 && (run w []).queueAdmin 0) = true
    ∧ (iss (run (wd 6) [] up { stack := [8191] }) (wd 6) = true ∧ (cx (run (wd 6) [] up { stack := [8191] })).stack = [8191])
    ∧ iss (run (wd 7) []) (wd 7) = true ∧ iss (run (wd 8) []) (wd 8) = true := by decide +kernel

/-- A device with timer 7 armed for context 0, which waits. -/
def timed (w : Wait) : State :=
  { up with eng := { up.eng with
      timers := List.replicate 7 {} ++ [{ armed := true, due := 0, e := 0, c := 0 }], ctx := [(0, { state := 3, wait := w })] } }

/-- WaitsAndTimers: the shortest and the longest wait on a free timer, a wait for a notification without and with one, an expired
timer of either wait, an expired limit of a READY context, a stalled context, no warning. -/
theorem wit_WaitsAndTimers :
    [1, 2 ^ 32 - 1].all (fun d => let w := wd 4 0x700 1; let s := run w [0, BitVec.ofNat 64 d]
      iss s w && !w.bit 0 && durationOk ((cx s).reg 1) && s.claimOk 0 15) = true
    ∧ (iss (run (wd 4 1) []) (wd 4 1) = true ∧ (wd 4 1).bit 0 = true ∧ (wd 4 1).bit 11 = false)
    ∧ [1, 2 ^ 32 - 1].all (fun d => let w := wd 4 0x801 1; let s := run w [0, BitVec.ofNat 64 d]
        iss s w && w.bit 0 && w.bit 11 && durationOk ((cx s).reg 1) && s.claimOk 0 8) = true
    ∧ [Wait.timer 7, Wait.notify (some 7)].all (fun k => let s := timed k; let tm := s.eng.timers.getD 7 {}
        s.live && tm.armed && decide (tm.due ≤ s.regul.refTicks) && (s.ctx tm.e tm.c).state == 3
          && (s.ctx tm.e tm.c).wait == k) = true
    ∧ (let s := run (wd 0) [] up { limit := 1 }
       s.live && (cx s).limit == 1 && !(cx s).expired && (cx s).state == 1) = true
    ∧ (let s := run (wd 0) [] up { limit := 1 }; let t := s.updCtx 0 0 (fun x => { x with state := 3 })
       t.live && (cx t).limit == 1 && !(cx t).expired && (cx t).state == 3) = true
    ∧ (let s := (run (wd 0) []).updCtx 0 0 (fun x => { x with state := 4 }); s.live && (cx s).state == 4) = true
    ∧ up.goose.warn = false := by decide +kernel

/-- LoadStoreResults: the widest load at the end of the buffer and the last host place, and the same stores; an address that is none, a buffer
that the queue may not reach. -/
theorem wit_LoadStoreResults :
    [0x17, 0x18].all (fun op =>
      let w := if op = 0x17 then wd op (3 * 2 ^ 26) 1 0 0 4 else wd op (3 * 2 ^ 26) 1 2
      let s := run w [0, bufOp 0xFFFF8, 0xAB]
      let h := run w [0, BitVec.ofNat 64 (2 ^ 44 - 8), 0xAB]
      iss s w && memAddr ((cx s).reg 1) w == some (.buf (bufAddr 32 0xFFFF8)) && s.bufCheck 0 (bufAddr 32 0xFFFF8) 8 == Config.OK
        && iss h w && memAddr ((cx h).reg 1) w == some (.host (2 ^ 44 - 8))) = true
    ∧ [0x17, 0x18].all (fun op =>
      let w := if op = 0x17 then wd op (3 * 2 ^ 26) 1 0 0 4 else wd op (3 * 2 ^ 26) 1 2
      let s := run w [0, 4, 0xAB]
      let b := run w [0, bufOp 0x100000, 0xAB]
      iss s w && (memAddr ((cx s).reg 1) w).isNone && iss b w && memAddr ((cx b).reg 1) w == some (.buf (bufAddr 32 0x100000))
        && b.bufCheck 0 (bufAddr 32 0x100000) 8 != Config.OK) = true := by decide +kernel

/-- A move from the buffer to page 0 whose first unit of 64 bytes has been written. -/
def oneMove (len : Nat) : Xfer :=
  { kind := 0, dst := 0, src := 2 ^ 63 + bufAddr 32 0, len := len, done := 0, acc := false, pat := 0, rd := some 0
    out := some (Config.OK, 0) }

/-- A context with such a move posted, and one that waits for it. -/
def posted : State := run (wd 0x23 0 0 0 0 4) [] up { posted := [oneMove 64] }
def waiting (k : Wait := .xfer (oneMove 64)) : State := { up with eng := { up.eng with ctx := [(0, { state := 3, wait := k })] } }

/-- A device with a change of page 0 whose copy is being enciphered. -/
def moving : State :=
  { up with maps := { up.maps with moves := [(0, { kind := .writeBack, old := 0, new := 32, snap := [⟨0, 0, false⟩], stage := 0
                                                   img := ⟨0, 1, false, false, []⟩, buf := [] })] } }

/-- TransferResults: the shortest transfers, FENCE with nothing and with one move posted, reports of moves that are done, of a
CACHE.ZERO and an XTS instruction, a cipher fault with pipelines left, a flush. -/
theorem wit_TransferResults :
    (let w := wd 0x20 0 1 2 3; let s := run w [0, 0, bufOp 0, 64]
     iss s w && !(isHost 0 && isHost (bufOp 0).toNat) && !w.bit 0 && s.rangeCheck 0 0 64 64 (w.bit 0) == Config.OK
       && s.rangeCheck 0 (bufOp 0).toNat 64 64 false == Config.OK) = true
    ∧ (let w := wd 0x20 1 1 2 3; let s := run w [0, 0x400000, bufOp 0, 64]
       iss s w && w.bit 0 && isHost 0x400000 && s.rangeCheck 0 0x400000 64 64 (w.bit 0) == Config.OK) = true
    ∧ (let w := wd 0x21 0 1 2 3; let s := run w [0, 0x100, 0, 0x100]
       iss s w && isHost 0x100 && isHost 0 && s.rangeCheck 0 0x100 0x100 256 false == Config.OK
         && s.rangeCheck 0 0 0x100 256 false == Config.OK) = true
    ∧ (let w := wd 0x22 0 1 2 3; let s := run w [0, 0, 7, 64]; iss s w && s.rangeCheck 0 0 64 64 false == Config.OK) = true
    ∧ (let w := wd 0x23 0 0 0 0 4; iss (run w []) w && (cx (run w [])).posted.isEmpty) = true
    ∧ (iss posted (wd 0x23 0 0 0 0 4) = true ∧ (cx posted).posted ≠ [] ∧ posted.live = true)
    ∧ ((cx posted).posted = [oneMove 64] ∧ (stepXfer posted 0 0 true (oneMove 64) .ok).2.isSome = true)
    ∧ (waiting.live = true ∧ (cx waiting).state = 3 ∧ (cx waiting).wait = .xfer (oneMove 64)
        ∧ (stepXfer waiting 0 0 false (oneMove 64) .ok).2.isSome = true)
    ∧ ((stepXfer posted 0 0 true (oneMove 128) .ok).2.isNone = true
        ∧ (stepXfer waiting 0 0 false (oneMove 128) .ok).2.isNone = true)
    ∧ [Wait.zero 0 0 256 (some Config.OK), .xts 0 0 16 0 false].all (fun k => (waiting k).live && (cx (waiting k)).state == 3
        && (cx (waiting k)).wait == k) = true
    ∧ (moving.live && (Tbl.find moving.maps.moves 0).any (fun m => m.stage == 0) && (cipherFault moving 0).pipesLeft) = true
    ∧ ({ up with pers := { up.pers with flush := some { step := 5, cause := 4, start := 0 } } } : State).flushing = true := by
  decide +kernel

/-! ### Host, link, management -/

/-- A device that holds line 0, and line 0x4000 of the monotone region, in its cache. -/
def holding (bad : Bool := false) : State :=
  let l : CLine := { data := 5, dirty := false, delta := false, orphan := false, mono := false, poison := bad, region := 0
                     label := 0, set := 0, way := 0, used := 0, frozen := false }
  { up with cache := { up.cache with lines := [(0, l), (0x4000, { l with region := 1, mono := true, set := 1 })] } }

/-- A request of session 0 as it arrives. -/
def came (addr : Nat) (op : MemOp) (s : State := holding) : Option (State × Req) :=
  let q := s.arrived 0 0 4095 addr op .ok
  q.1.atLookup q.2

/-- Whether a line is installed for a request. -/
def puts (u : State × Req) (t : State) (d : Line) (delta : Bool := false) : Bool :=
  (install (laneFree t u.2) u.2.line d true delta false u.2.rways u.2.label).isSome

/-- HostHits: reads and writes of a line the cache holds, good or poisoned, reach their lookup and hit; a full write of another line is
installed. -/
theorem wit_HostHits :
    (holding.live = true ∧ holding.hears 0 4095 = true ∧ (holding.sess 0 0).isOpen = true)
    ∧ [MemOp.rd64, .rd256].all (fun op => [false, true].all (fun b => (came 0 op (holding b)).any (fun u =>
        !u.1.cache.filling u.2.line && u.1.cache.full u.2.line == some (5, b)))) = true
    ∧ (came 0x100 (.wr256 9) up).any (fun u => u.1.cache.on && u.1.cache.wback && (Tbl.find u.1.cache.fills u.2.line).isNone
        && puts u u.1 ((MemOp.wr256 9).merge 0x100 0)) = true
    ∧ [MemOp.wr64 9, .wrp 1 9].all (fun op => [false, true].all (fun b => (came 0 op (holding b)).any (fun u =>
        u.1.cache.on && u.1.cache.wback && !u.1.cache.filling u.2.line && u.1.cache.full u.2.line == some (5, b)
          && puts u (count u.1 0x04 0x3F none 1) (op.merge 0 5)))) = true
    ∧ [false, true].all (fun b => (came 0x400000 (.acc 9) (holding b)).any (fun u => u.1.cache.on && u.1.cache.wback
        && !u.1.cache.filling u.2.line && (u.1.cache.hit u.2.line).any (fun x => x.poison == b
          && puts u (count u.1 0x04 0x3F none 1) ((MemOp.acc 9).merge 0x400000 x.data) x.delta))) = true := by decide +kernel

/-- RequestsTurnedAway: a request whose tag is outstanding, and one of session 7, which is not open. -/
theorem wit_RequestsTurnedAway :
    (hostCommand 0 0 4095 0 .ok .rd64 = some (.rd64 0 0 4095 0 .ok) ∧ up.live = true ∧ 0 < up.portCount
      ∧ (up.port 0).up = true)
    ∧ ((up.updPort 0 (fun x => { x with outTags := [4095] })).port 0).outTags.contains 4095 = true
    ∧ up.hears 0 4095 = true ∧ (up.sess 0 7).isOpen = false := by decide +kernel

/-- A device whose port 0 has changed. -/
def port0 (f : Port → Port) : State := up.updPort 0 f

/-- LinkTraining: a port in each state that the clauses name. -/
theorem wit_LinkTraining :
    up.linked 0 = true
    ∧ [0, 2].all (fun k => let s := port0 (fun x => { x with state := 1, phase := k })
        s.linked 0 && (s.port 0).state == 1 && decide ((s.port 0).phase < 3)) = true
    ∧ (let s := port0 (fun x => { x with state := 1, phase := 3 }); (s.port 0).state == 1 && (s.port 0).phase == 3) = true
    ∧ [false, true].all (fun b => let s := port0 (fun x => { x with state := 1, rate56 := b })
        (s.port 0).state == 1 && (s.port 0).rate56 == b) = true
    ∧ (port0 (fun x => { x with retryWait := true })).linked 0 = true
    ∧ [7, 8].all (fun k => let s := port0 (fun x => { x with state := 0, fails := k })
        s.linked 0 && (s.port 0).state == 0 && !(s.port 0).retryWait && (s.port 0).fails == k) = true
    ∧ [false, true].all (fun b => let s := port0 (fun x => { x with state := 1, phase := 4, keepAsk := b })
        s.linked 0 && (s.port 0).state == 1 && (s.port 0).phase == 4 && (s.port 0).keepAsk == b) = true := by decide +kernel

/-- A flit of a completion. -/
def aFlit (n : Nat) : Flit := ⟨n, 3, .cpl 3 0 1 0 0 0, 0⟩

/-- LinkReplay: an active port that holds flit 1023 for replay, its seventh replay done. -/
theorem wit_LinkReplay :
    let s := port0 (fun x => { x with replay := [aFlit 1023], replayFrom := 1023, replaySame := 7, nakOut := true })
    s.linked 0 = true ∧ (s.port 0).up = true ∧ (s.port 0).replay.any (fun f => f.seq == 1023) = true
      ∧ (s.port 0).replay = [aFlit 1023] ∧ (s.port 0).nakOut = true := by decide +kernel

/-- LinkCreditsAndDown: an active port with 15 flits of credit to return, and one that withholds VC0; a port that went down with KEEP. -/
theorem wit_LinkCreditsAndDown :
    (let s := port0 (fun x => { x with rem := [15, 0, 0, 0] })
     s.linked 0 && (s.port 0).up && (s.port 0).rem.getD 0 0 != 0 && !(s.port 0).vc0Held) = true
    ∧ (let s := port0 (fun x => { x with vc0Held := true }); s.linked 0 && (s.port 0).up && (s.port 0).vc0Held) = true
    ∧ (let s := port0 (fun x => { x with state := 0, keepWin := true })
       s.linked 0 && (s.port 0).keepWin && !(s.port 0).up) = true := by decide +kernel

/-- A device whose BOOT strap asks for link-load. -/
def linkLoad : State := { up with boot := { up.boot with straps := { boot := 1 } } }

/-- ManagementAccesses: session 0 reads and writes registers, its buffer, counter 255, its own doorbells, ID_BOOT; a
TENANT session may read none of them, nobody the buffer of Q33, which is not open. -/
theorem wit_ManagementAccesses :
    (up.serves = true ∧ up.hears 0 4095 = true ∧ (up.sess 0 0).isOpen = true)
    ∧ (let t := up.mgtArrived 0 4095 0
       (List.range 16).all (fun k => t.csrMay 0 0 (0x140800 + 4 * k)) && t.bufStatus 0 0 (bufAddr 32 0) 64 == Config.OK
         && t.csrMay 0 0 (0x140000 + 8 * 255) && t.bufStatus 0 0 (bufAddr 33 0) 64 != Config.OK) = true
    ∧ (let t := fun k => up.mgtArrived 0 4095 k
       worst ((t 1).putStatuses 0 0 0x010008 [1]) == Config.OK && (t 16).bufStatus 0 0 (bufAddr 32 0) 64 == Config.OK
         && (t 1).putStatus 0 0 0x140804 5 == Config.OK
         && (t 1).putStatus 0 0 (0x100000 + 8 * 32) (BitVec.ofNat 32 63) == Config.OK
         && (t 1).putStatus 0 0 (0x100004 + 8 * 32) (BitVec.ofNat 32 63) == Config.OK
         && (linkLoad.mgtArrived 0 4095 1).putStatus 0 0 0x00000C 0 == Config.OK) = true
    ∧ (let t := tenant.mgtArrived 0 4095 0
       tenant.serves && (tenant.sess 0 0).isOpen && !t.csrMay 0 0 0x140800 && worst (t.putStatuses 0 0 0x140804 [5]) != Config.OK) = true := by
  decide +kernel

/-- PartIdentity, SessionsOpenAndClose: session 0 is ADMIN, session 7 not open; a TENANT session 7 that is open. -/
theorem wit_SessionsOpenAndClose :
    (up.serves = true ∧ up.hears 0 4095 = true ∧ (up.sess 0 0).isOpen = true)
    ∧ (((up.mgtArrived 0 4095 0).sess 0 0).admin = true ∧ ((up.mgtArrived 0 4095 0).sess 0 7).isOpen = false)
    ∧ (let t := (openSession up 0 7 false).mgtArrived 0 4095 0
       (t.sess 0 7).isOpen = true ∧ (t.sess 0 7).admin = false ∧ (t.sess 0 0).admin = true) := by decide +kernel

/-- OwnerKeyHashBurnedOnce, OwnerKeyHashStays: fuses that are blank, and fuses that are burned. -/
theorem wit_OwnerKeyHash :
    up.boot.okhSet = false ∧ (bootFuse up).boot.okhSet = true
    ∧ (match step (bootFuse up) with | .next _ => true | _ => false) = true := by decide +kernel

/-! ### Queues -/

/-- A descriptor of a kind with an entry and arguments. -/
def desc (kind entry : Nat) (a b c : Nat := 0) : BitVec 512 :=
  BitVec.ofNat 512 (kind + entry * 2 ^ 16 + 7 * 2 ^ 32 + a * 2 ^ 64 + b * 2 ^ 128 + c * 2 ^ 192)

/-- A device with one descriptor in Q0. -/
def fetching : State := up.updQueue 0 (fun q => { q with tail := 1 })

/-- The state after Q0's descriptor is fetched. -/
def got (d : BitVec 512) : State :=
  match fetching.queue 0 with
  | some x => fetchDesc fetching 0 0 0 x (taskDesc d)
  | none => fetching

/-- DescriptorsRun: one descriptor of each kind, at the ends of its ranges; one with ORDER behind an earlier one, one with a reserved field. -/
theorem wit_DescriptorsRun :
    (fetching.live = true ∧ (fetching.ctx 0 0).state = 0 ∧ fetching.nextQueue 0 = some 0 ∧ (fetching.queue 0).isSome = true
      ∧ ((fetching.queue 0).map (·.busy)).getD 1 = 0)
    ∧ (let s := fetching.updQueue 0 (fun q => { q with busy := 1 })
       s.live && (s.ctx 0 0).state == 0 && s.nextQueue 0 == some 0 && (s.queue 0).any (fun q => q.busy == 1)
         && (taskDesc (desc 257 0)).order && (taskDesc (desc 257 0)).kind == 1 && !(taskDesc (desc 1025 0)).reservedOk
         && (taskDesc (desc 6 0)).reservedOk && (taskDesc (desc 6 0)).kind == 6) = true
    ∧ [desc 1 8191, desc 2 1, desc 2 9].all (fun d => !(taskDesc d).order && (taskDesc d).reservedOk) = true
    ∧ ((taskDesc (desc 1 8191)).kind = 1 ∧ (taskDesc (desc 2 1)).kind = 2 ∧ (taskDesc (desc 2 1)).entry = 1
        ∧ (taskDesc (desc 2 9)).entry = 9 ∧ ((got (desc 2 9)).sess 0 0).admin = true)
    ∧ [(33, 6, 0), (4095, 16, 64)].all (fun k =>
        let d := desc 3 0 (k.1 + k.2.1 * 2 ^ 20 + k.2.1 * 2 ^ 25 + k.2.2 * 2 ^ 40)
        let a := qopenArg ((taskDesc d).args.headD 0)
        let y : Queue := { port := 0, session := 0, engine := a.engine, label := a.label, dlog := a.dlog, clog := a.clog
                           bufMib := a.bufMib }
        (taskDesc d).kind == 3 && (taskDesc d).reservedOk && a.reservedOk && a.queue == k.1 && ((got d).queue a.queue).isNone
          && a.dlog == k.2.1 && a.clog == k.2.1 && a.bufMib == k.2.2 && decide ((got d).poolUsed + y.poolBytes ≤ 2 ^ 30)) = true
    ∧ (let d := desc 4 0 32
       (taskDesc d).kind == 4 && (taskDesc d).reservedOk && ((taskDesc d).args.headD 0).toNat == 32
         && ((got d).queue 32).isSome && (got d).sameSession 0 32) = true
    ∧ [(8191, 1), (0, 8192)].all (fun k =>
        let d := desc 5 0 (bufAddr 32 0) (15 + k.1 * 2 ^ 16) k.2
        let t := taskDesc d
        t.kind == 5 && t.reservedOk && (got d).queueAdmin 0 && bitsOf (t.args.getD 0 0).toNat 62 40 == 0
          && bitsOf (t.args.getD 1 0).toNat 28 16 == k.1 && (t.args.getD 2 0).toNat == k.2
          && (got d).bufCheck 0 (bufAddr 32 0) (8 * k.2) == Config.OK
          && !(got d).inTable 15 k.1 (k.1 + k.2) (ctxKey 0 0)) = true := by decide +kernel

/-- A notification. -/
def aNtf : Ntf := ⟨1, 0, 32, false, 0, 0, 0⟩

/-- CompletionsAndNotifications: a task that has ended on a queue whose ring holds one entry less than is allowed; a session with a
record to send, one that has dropped records. -/
theorem wit_CompletionsAndNotifications :
    (let s := (up.updQueue 32 (fun q => { q with ctail := 62 })).putCtx 0 0 { state := 5, queue := 32, notify := true }
     s.live && (cx s).state == 5 && (s.queue (cx s).queue).any (fun q => decide (q.unread < 2 ^ q.clog - 1))) = true
    ∧ (let s := up.updSess 0 0 (fun x => { x with ntfq := [aNtf] })
       s.running && (s.port 0).up && (s.sess 0 0).isOpen && (s.sess 0 0).ntfq == [aNtf] && (s.sess 0 0).dropped == 0) = true
    ∧ (let s := up.updSess 0 0 (fun x => { x with ntfq := List.replicate 193 aNtf, dropped := 1 })
       (s.sess 0 0).ntfq == aNtf :: List.replicate 192 aNtf && decide (0 < (s.sess 0 0).dropped)) = true := by decide +kernel

/-! ### Media, fills, buckets -/

/-- The descriptor of a die of four planes that holds every mode. -/
def aDesc : Desc :=
  { sig := 0, dver := 1, planes := 4, framesPhys := 2100, framesNom := 2048, slotsS := 1024, slotsT := 3072, endS := 100000
    endT := 3000, retT := 3, retS := 12, tRdS := 100, tRdT := 380, tRef := 200, tSusp := 250, tRes := 100, tProgS := 100
    tProgT := 300, tMprog := 600, tRprog := 300, tClrS := 1000, tClrT := 1500, ckMax := 20, capT := true, capMono := true
    badCount := 0, mfr := 0, bad := [] }

/-- A channel whose die 0 is accepted. -/
def dies (c : Chan) : Chan := { c with dies := updAt c.dies 0 (fun x => { x with present := true, accepted := true, desc := some aDesc }) }

/-- A device that stores page 0 at PPN 384 in a frame of a mode, and reads line 0 of it. -/
def filling (stage mode : Nat) (res : Option Nat := none) (integ : Bool := false) : State :=
  let i : LImg := { plain := 9, keys := ⟨0, 0, 0⟩, tweak := tweakOf 0 1 1 false, poison := false }
  { up with
    maps := { up.maps with map := [(0, 384)] }
    medium := { up.medium with
      pages := [(384, ⟨0, 1, false, integ, List.replicate 16 i⟩)]
      frames := [(2, { ch := 0, die := 0, plane := 0, frame := 0, bound := true, state := 4, mode := mode, live := 1, staged := false
                       integ := integ, order := 0, next := 1, sClears := 0, tClears := 0, stamp := 0, pins := 1 })]
      chans := updAt up.medium.chans 0 dies }
    cache := { up.cache with
      fills := [(0, { ppn := 384, reqs := [], merge := false, doomed := false, lane := integ, stage := stage, res := res
                      issued := true, auto := integ })] } }

/-- The fill of line 0 awaits a decode. -/
def waits (s : State) : Bool :=
  s.live && (Tbl.find s.cache.fills 0).any (fun f => f.issued && f.res.isNone && s.readable 0 f.ppn
    && s.plainAt 0 f.ppn == some (9, false))

/-- MediaReads: a fill in each stage, of a T-mode, an S-mode and an integrity slot, the last a lane read with AUTO, re-read ahead; a
die-directory word, a map entry to recover; room in the write-back buffer. -/
theorem wit_MediaReads :
    [filling 0 2, filling 1 2, filling 2 2, filling 0 1, filling 0 2 none true].all waits = true
    ∧ [(0, 2), (1, 2), (2, 2), (0, 1)].all (fun k => (Tbl.find (filling k.1 k.2).cache.fills 0).any (fun f =>
        f.stage == k.1 && !f.eager && ((filling k.1 k.2).frame (fxOf f.ppn)).mode == k.2)) = true
    ∧ (let s := filling 0 2 none true
       (Tbl.find s.cache.fills 0).any (fun f => s.tagged f && f.auto && f.eager)) = true
    ∧ (let s := { up with medium := { up.medium with dieBad := [0] }, maps := { up.maps with mapBad := [5] } }
       s.live && s.medium.dieBad.contains (3 / Config.dieWordFrames) && s.maps.mapBad.contains 5 && !s.maps.waitMoves.contains (5, .poison)
         && (Tbl.find s.maps.moves 5).isNone && decide (s.cache.wbb.length < Config.wbbLines)) = true := by decide +kernel

/-- FillsComplete: a fill that found its line, with no request, and with a read; one that found none; one under a lost accumulate. -/
theorem wit_FillsComplete :
    (let s := filling 0 2 (some Config.OK)
     s.live && (Tbl.find s.cache.fills 0).any (fun f => f.res == some Config.OK && !f.bad (s.cache.deltaBad 0)
       && !s.cache.crowded 0 0 0 && (serveGood s 0 f).2.isEmpty)) = true
    ∧ (let s := filling 0 2 (some Config.POISON)
       s.live && (Tbl.find s.cache.fills 0).any (fun f => f.res == some Config.POISON)) = true
    ∧ (let s := filling 0 2 (some Config.OK)
       let t := s.onCache (fun c => { c with wbb := [(0, { data := 1, delta := true, mono := true, poison := true, region := 0 })] })
       t.live && (Tbl.find t.cache.fills 0).any (fun f => f.res == some Config.OK && f.bad (t.cache.deltaBad 0))) = true := by
  decide +kernel

/-- TokenBuckets: a device in service and one not; a bucket at its depth from which a request takes. -/
theorem wit_TokenBuckets :
    up.live = true ∧ State.reset.live = false
    ∧ (let s := { up with regul := { up.regul with buckets := [(0, { rate := 1, depth := 256, tokens := 1024 * 256 })] } }
       s.regul.buckets.all (fun p => decide (p.2.tokens ≤ 1024 * p.2.depth)) && (takeTokens s 0 0 256).isSome) = true := by
  decide +kernel

/-! ### Streams -/

/-- A generator of one line, at offset 0, for a number of passes. -/
def gen1 (passes : Nat) : Gen :=
  { base := 0, ind := false, n0 := 1, n1 := 1, n2 := 1, s0 := 0, s1 := 0, s2 := 0, wrapLo := 0, wrapHi := 1, xmask := 0
    passes := passes, tlen := 0, tbuf := 0 }

/-- Stream 1023 of session 0 from region 0, in a state. -/
def strm (st : Nat) : Strm :=
  { region := 0, port := 0, session := 0, rate := 1000, gen := gen1 2, best := true, commit := none, owner := 0, label := 0
    trig := none, state := st, fetched := [(0, (5, Config.OK))] }

/-- A device with that stream. -/
def streaming (st : Nat) (s : State := up) : State := s.putStrm 1023 (strm st)

/-- A stream block for stream 1023 and its generator, in Q32's buffer. -/
def strmBlock : State :=
  (up.bufStore (bufAddr 32 0) (bytesOf (1023 + 1000 * 2 ^ 32 + bufAddr 32 64 * 2 ^ 64 + 2 ^ 128) 32)).bufStore (bufAddr 32 64)
    (bytesOf (2 ^ 48 + 2 ^ 72 + 2 ^ 96 + 2 ^ 288 + 2 ^ 368) 64)

/-- The word of STRM.DEF, best effort. -/
def defWord : SWord := { wd 0x28 0 1 0 0 4 with expert := true }

/-- A context in the first step of H.STREAM_LOOP: stream 1023 at rate 1,000 from region 0, lines 0 to 15. -/
def looping (step : Nat) (s : State := up) : State :=
  s.putCtx 0 0 { state := 1, house := 8, houseStep := step, lastArg := 1023, g := [BitVec.ofNat 64 (1023 + 1000 * 2 ^ 32), 0, 0, 16] }

/-- StreamInstructions: an idle stream to start, a running one to stop, with and without DROP, and to report; a stream block that
Tables 11-9 and 10-11 allow; both steps of H.STREAM_LOOP. -/
theorem wit_StreamInstructions :
    (let w := wd 0x29 0 1; let s := run w [0, 1023] (streaming 1)
     iss s w && ((cx s).reg 1).toNat == 1023 && (s.strm 1023).any (fun y => s.sameSession y.owner 0 && y.state != 2)) = true
    ∧ [0, 1].all (fun k => let w := wd 0x2A k 1; let s := run w [0, 1023] (streaming 2)
        iss s w && w.bit 0 == (k == 1) && (s.strm 1023).any (fun y => s.mayStop 0 y)) = true
    ∧ (let w := wd 0x2B 0 1 0 0 4; let s := run w [0, 1023] (streaming 2); iss s w && (s.strm 1023).isSome) = true
    ∧ (let s := looping 1 (streaming 1)
       s.inHouse 0 0 8 && (cx s).houseStep == 1 && (s.strm (cx s).lastArg).any (fun z => s.sameSession z.owner 0 && z.state != 2)) = true
    ∧ (let s := run defWord [0, bufOp 0] strmBlock
       let b := s.bufNum (bufAddr 32 0) 32
       let v := s.bufNum (bitsOf b 103 64) 64
       iss s defWord && s.bufArg 0 ((cx s).reg 1) 32 == (bufAddr 32 0, Config.OK) && bitsOf b 15 10 == 0 && bitsOf b 31 29 == 0
         && bitsOf b 127 104 == 0 && bitsOf b 255 132 == 0 && bitOf b 128 && defWord.expert
         && s.strmOk (bitsOf b 9 0) (bitsOf b 23 16) (bitsOf b 25 24) (bitsOf b 28 26) (bitsOf b 63 32) == some 16384
         && bitsOf b 103 64 % 64 == 0 && s.bufCheck 0 (bitsOf b 103 64) 64 == Config.OK && genReserved v == 0
         && genOk (genOf v) 16384 && !(genOf v).ind) = true
    ∧ (let s := looping 0
       let x := cx s
       s.inHouse 0 0 8 && x.houseStep == 0 && (s.queue 0).isSome && s.fullService
         && s.strmOk ((x.reg 0).toNat % 1024) (x.reg 1).toNat 0 0 (bitsOf (x.reg 0).toNat 63 32) == some 16384
         && (loopGen (x.reg 2).toNat (x.reg 3).toNat 16384).isSome && bitsOf (x.reg 0).toNat 31 10 == 0) = true := by
  decide +kernel

/-- StreamInstructions, what they refuse: a stream that is not defined, one of another session, one that runs. -/
theorem wit_StreamsRefused :
    [(0x29, 0), (0x2A, 0), (0x2A, 1)].all (fun k => let w := wd k.1 k.2 1; let s := run w [0, 1023]
      iss s w && (s.strm 1023).isNone) = true
    ∧ (let w := wd 0x2B 0 1 0 0 4
       iss (run w [0, 1024]) w && iss (run w [0, 1023]) w && ((run w [0, 1023]).strm 1023).isNone) = true
    ∧ (let s := tenant.putStrm 1023 { strm 1 with owner := 7 }
       iss (run (wd 0x29 0 1) [0, 1023] s) (wd 0x29 0 1) && !s.sameSession 7 0 && !s.mayStop 0 { strm 1 with owner := 7 }
         && iss (run (wd 0x2A 0 1) [0, 1023] s) (wd 0x2A 0 1)) = true
    ∧ (let w := wd 0x29 0 1; let s := run w [0, 1023] (streaming 2)
       iss s w && (s.strm 1023).any (fun y => s.sameSession y.owner 0 && y.state == 2)) = true := by decide +kernel

/-- StreamsRun: a running stream whose next line is due, and one whose next line is beyond its region; its first flit, whose line is there,
and the last one of its last pass. -/
theorem wit_StreamsRun :
    (let s := streaming 2
     let x := strm 2
     s.live && s.strm 1023 == some x && x.state == 2 && x.inRun x.fetchNext
       && decide (x.issueNs x.fetchNext ≤ nsOf (s.regul.refTicks - x.t0))
       && (s.region x.region).any (fun r => decide (x.lineOff x.fetchNext < r.size / 256))) = true
    ∧ (let s := streaming 2
       let x := strm 2
       x.total == some 2 && decide (112 < 256 * 2) && x.trig.isNone && Tbl.has x.fetched 0 && x.lineSt 0 == Config.OK
         && (s.port x.port).canEmit (x.flit 1023 0 112) && (s.port x.port).txq.all (fun q => q.vc != 2)
         && decide (0 ≤ s.strmNs x * x.rate)) = true
    ∧ (let x := { strm 2 with gen := { gen1 2 with ind := true }, table := [16384] }
       let s := up.putStrm 1023 x
       s.live && x.inRun x.fetchNext && (s.region x.region).any (fun r => decide (r.size / 256 ≤ x.lineOff x.fetchNext))) = true
    ∧ (let x := { strm 2 with flits := 4, fetched := [(1, (5, Config.OK))] }
       let s := regul (up.putStrm 1023 x) (fun g => { g with refTicks := 100000 })
       s.live && x.total == some (512 / 256) && Tbl.has x.fetched 1 && (s.port x.port).canEmit (x.flit 1023 448 512)
         && (s.port x.port).txq.all (fun q => q.vc != 2) && decide (448 * 1000 ≤ s.strmNs x * x.rate)) = true := by decide +kernel

/-! ### Regions, map, cache -/

/-- A region record for an index, in Q32's buffer. -/
def rgnBlock (idx base size act : Nat) : State :=
  up.bufStore (bufAddr 32 0) (bytesOf (idx + 2 ^ 8 + 2 ^ 12 + 0xFFFF * 2 ^ 32 + base * 2 ^ 64 + size * 2 ^ 128 + act * 2 ^ 192) 32)

/-- A device whose region 0 is closing and whose context waits for that. -/
def closing : State :=
  { up with
    maps := { up.maps with regions := [(0, { rgn 0 1024 with closing := true })] }
    eng := { up.eng with ctx := [(0, { state := 3, wait := .rgnDrain 0 })] } }

/-- RegionChanges: region 255 to define above the others, region 0 to change, to drop, and drained. -/
theorem wit_RegionChanges :
    (let w := wd 0x30 0 1; let s := run w [0, bufOp 0] (rgnBlock 255 0x600000 0x200000 0)
     let d := rgnRec (s.bufNum (bufAddr 32 0) 32)
     s.rgnMay 0 0 && iss s w && s.bufArg 0 ((cx s).reg 1) 32 == (bufAddr 32 0, Config.OK) && d.ok && d.act == 0 && d.index == 255
       && s.defCheck d.index d.region == Config.OK) = true
    ∧ (let w := wd 0x31 0 1; let s := run w [0, bufOp 0] (rgnBlock 0 0 0x400000 1)
       let d := rgnRec (s.bufNum (bufAddr 32 0) 32)
       s.rgnMay 0 0 && iss s w && d.ok && d.act == 1 && d.index == 0
         && (s.openRegion 0).any (fun o => s.attrCheck 0 o d.region == Config.OK)) = true
    ∧ (let w := wd 0x32 0 1; let s := run w [0, 1]
       s.rgnMay 0 0 && iss s w && (s.openRegion 1).isSome && !s.regul.commits.any (fun p => p.2.region == 1 && p.2.kind != 3)) = true
    ∧ (closing.live && (closing.region 0).any (fun r => r.closing && !closing.regionBusy r)
        && !(closing.waiters (fun w => w == .rgnDrain 0)).isEmpty) = true := by decide +kernel

/-- RegionChanges, what they refuse: a region that stands, attributes and a drop of a region that does not, a drop of a region with a
commitment; a wait behind another region change. -/
theorem wit_RegionsRefused :
    (let w := wd 0x30 0 1; let s := run w [0, bufOp 0] (rgnBlock 0 0x600000 0x200000 0)
     let d := rgnRec (s.bufNum (bufAddr 32 0) 32)
     s.rgnMay 0 0 && iss s w && d.ok && s.defCheck d.index d.region != Config.OK) = true
    ∧ [(255, 0x600000), (0, 0x200000)].all (fun k => let w := wd 0x31 0 1
        let s := run w [0, bufOp 0] (rgnBlock k.1 k.2 0x200000 1)
        let d := rgnRec (s.bufNum (bufAddr 32 0) 32)
        s.rgnMay 0 0 && iss s w && d.ok && d.act == 1
          && (match s.openRegion d.index with
              | some o => k.1 == 0 && s.attrCheck 0 o d.region != Config.OK
              | none => k.1 == 255)) = true
    ∧ (let w := wd 0x32 0 1
       iss (run w [0, 255]) w && ((run w [0, 255]).openRegion 255).isNone
         && (let s := run w [0, 0] (regul up (fun g => { g with commits := [(0,
               { label := 5, kind := 0, region := 0, rate := 1, ports := 1, headroom := 1, owner := some 0, gen := 3, stream := none })] }))
             iss s w && s.rgnMay 0 0 && (s.openRegion 0).isSome
               && s.regul.commits.any (fun p => p.2.region == 0 && p.2.kind != 3))) = true
    ∧ (run (wd 0x32 0 1) [0, 1] (up.onMaps (fun m => { m with jregion := [(255, none)] }))).rgnMay 0 0 = false := by decide +kernel

/-- MapInstructions: the last page of region 0, with the map rebuilt and not yet. -/
theorem wit_MapInstructions :
    [0, 1].all (fun k => let w := wd 0x33 k 1 2; let s := run w [0, 0x3FF000, 4096]
      hostOf ((cx s).reg 1) == some 0x3FF000 && iss s w && w.bit 0 == (k == 1) && s.queueAdmin 0
        && !s.maps.regions.any (fun p => decide (p.2.base < 0x3FF000 + 4096) && decide (0x3FF000 < p.2.base + p.2.size)
          && !reaches p.2 (s.queueAdmin 0) (s.queueSessLabel 0))
        && (s.regionRange 0x3FF000 4096).isSome) = true
    ∧ [11, 6].all (fun k => let w := wd 0x34 0 1 0 0 4
        let s := run w [0, 0x3FF000] { up with pers := { up.pers with rebuild := k } }
        iss s w && (s.regionAt 0x3FF000).any (fun q => !q.2.closing) && s.rangeBuilt 0x3FF == (k == 11)) = true
    ∧ (let w := wd 0x35 0 0 0 0 4; let s := run w [0, 0]
       iss s w && (hostOf ((cx s).reg 0)).isSome && s.pers.ckpt.isNone && (s.waiters (fun w => w == .ckpt)).isEmpty) = true := by
  decide +kernel

/-- MapInstructions, what they refuse: a range of no pages, pages that an ADMIN region keeps from a TENANT queue, a page of no region,
of a closing one, a checkpoint that another one is asked for. -/
theorem wit_MapRefused :
    [0, 1].all (fun k => let w := wd 0x33 k 1 2; let s := run w [0, 0x3FF000, 0]
      iss s w && hostOf ((cx s).reg 1) == some 0x3FF000 && s.queueAdmin 0) = true
    ∧ [0, 1].all (fun k => let w := wd 0x33 k 1 2
        let s := run w [0, 0x3FF000, 4096] (tenant.onMaps (fun m => { m with regions := [(0, { rgn 0 1024 with access := 2 })] }))
        iss s w && !s.queueAdmin 0 && s.maps.regions.any (fun p => !reaches p.2 (s.queueAdmin 0) (s.queueSessLabel 0))) = true
    ∧ (let w := wd 0x34 0 1 0 0 4
       iss (run w [0, 0x600000]) w && ((run w [0, 0x600000]).regionAt 0x600000).isNone) = true
    ∧ (let w := wd 0x35 0 0 0 0 4
       let s := run w [0] (up.onPers (fun p => { p with ckpt := some { cseq := 5, jseqC := 0, dirs := [], regions := [], doneFseq := 0, done := [] } }))
       iss s w && s.pers.ckpt.isSome) = true := by decide +kernel

/-- CacheInstructions: each of them on a cache with nothing dirty. -/
theorem wit_CacheInstructions :
    [0x38, 0x39].all (fun op => [false, true].all (fun f => let w := wd op 0 0 0 0 0 f; let s := run w []
      iss s w && w.force == f && s.cache.on && s.cache.invalAll && s.cache.dirty == 0 && !s.cache.fills.any (fun p => p.2.merge))) = true
    ∧ [2, 16].all (fun n => let w := wd 0x3A 0 1 2
        let s := run w [0, BitVec.ofNat 64 n, bufOp 0] (up.bufStore (bufAddr 32 0) (List.replicate 128 0xFF))
        iss s w && s.bufArg 0 ((cx s).reg 2) 128 == (bufAddr 32 0, Config.OK)
          && s.waysOk n ((List.range 64).map (fun l => BitVec.ofNat 16 (s.bufNum (bufAddr 32 0 + 2 * l) 2)))) = true
    ∧ [0x3B, 0x3C, 0x3D].all (fun op => let w := wd op 0 1 2; let a := wd op 1; let s := run w [0, 0x3FFF00, 256]
        iss s w && s.cacheRange 0 0 w (w.bit 0) == (0x3FFF00, 0x400000, Config.OK) && iss (run a []) a
          && (run a []).cacheRange 0 0 a (a.bit 0) == (0, 2 ^ 44, Config.OK)) = true
    ∧ (let w := wd 0x3D 1 0 0 0 0 true; iss (run w []) w && w.force) = true
    ∧ (let w := wd 0x3E 0 1 2; let s := run w [0, 0x3FFF00, 256]
       iss s w && s.cacheRange 0 0 w false == (0x3FFF00, 0x400000, Config.OK) && s.covered 257 0x3FFF00 0x400000
         && !s.fatalIn 0x3FFF00 0x400000) = true
    ∧ (up.putCtx 0 0 { state := 1, house := 3 }).inHouse 0 0 3 = true := by decide +kernel

/-- A cache with a dirty line at address 0. -/
def dirtied : State :=
  { holding with cache := { holding.cache with
      lines := holding.cache.lines.map (fun (p : Nat × CLine) => (p.1, { p.2 with dirty := true })) } }

/-- CacheInstructions, what they refuse: CACHE.ON with nothing invalidated, CACHE.OFF and CACHE.INVAL over a dirty line, a cache that is
off, a misaligned range, one way, a CACHE.ZERO over no region and over a FATAL key. -/
theorem wit_CacheRefused :
    (let w := wd 0x38; iss (run w []) w && !(up.onCache (fun c => { c with invalAll := false })).cache.invalAll) = true
    ∧ (let w := wd 0x39
       iss (run w [] dirtied) w && dirtied.cache.dirty != 0
         && (let t := up.onCache (fun c => { c with on := false }); iss (run w [] t) w && !t.cache.on && t.cache.dirty == 0)) = true
    ∧ (let w := wd 0x3D 1; let s := run w [] dirtied
       iss s w && s.cacheRange 0 0 w true == (0, 2 ^ 44, Config.OK) && s.cache.lines.any (fun p => p.2.dirty && inRange p.1 0 (2 ^ 44))) = true
    ∧ [0x3B, 0x3C, 0x3D, 0x3E].all (fun op => let w := wd op 0 1 2; let s := run w [0, 1, 256]
        iss s w && (s.cacheRange 0 0 w (w.bit 0)).2.2 != Config.OK) = true
    ∧ (let w := wd 0x3A 0 1 2; let s := run w [0, 1, bufOp 0]
       iss s w && !s.waysOk 1 ((List.range 64).map (fun l => BitVec.ofNat 16 (s.bufNum (bufAddr 32 0 + 2 * l) 2)))) = true
    ∧ (let w := wd 0x3E 0 1 2; let s := run w [0, 0x600000, 256]
       iss s w && (s.cacheRange 0 0 w false).2.2 == Config.OK && !s.covered 257 0x600000 0x600100) = true
    ∧ (let w := wd 0x3E 0 1 2
       let s := run w [0, 0x3FFF00, 256] { up with keys := { up.keys with recs := [(1, { state := 2, ceil := 1000 })] } }
       iss s w && s.covered 257 0x3FFF00 0x400000 && s.fatalIn 0x3FFF00 0x400000) = true := by decide +kernel

/-! ### Checkers -/

/-- CheckerInstructions: DRAM word 511 of channel 0, slot 1023 of the scratch frame of channel 3, a slot of a frame, with and without DECODE;
a frame to retire, calibration of every channel and port. -/
theorem wit_CheckerInstructions :
    [0x42, 0x43].all (fun op => [(1, 511, 0), (0, 1023, 3)].all (fun k =>
      let w := wd op 0 1 2
      let s := run w [0, BitVec.ofNat 64 (k.2.2 + k.2.1 * 2 ^ 16 + k.1 * 2 ^ 62), bufOp 64]
      let r := rawTarget ((cx s).reg 1)
      iss s w && s.bufArg 0 ((cx s).reg 2) 384 == (bufAddr 32 64, Config.OK) && bufAddr 32 64 % 64 == 0 && r.ok && r.tgt == k.1
        && r.unit == k.2.2 && r.slot == k.2.1 && decide (3 < s.chanCount) && decide (0 < s.dramCount) && !w.bit 0
        && !Tbl.has (s.chan r.unit).scratch r.slot)) = true
    ∧ (let w := wd 0x44 0 1 2
       let s := run w [0, 2, 0] ((filling 0 2).updChan 0 (fun c => { c with first := 0, count := 3 }))
       iss s w && (List.range s.chanCount).any (fun k => decide ((s.chan k).first ≤ 2) && decide (2 < (s.chan k).first + (s.chan k).count))
         && (s.frame 2).bound && (s.frame 2).ch == 0 && decide ((s.frame 2).state < 5) && (s.frame 2).state != 2
         && !s.medium.retireDue.contains 2) = true
    ∧ (let w := wd 0x45 0 1 2; let s := run w [0, 15, 1]
       iss s w && decide (15 < 2 ^ s.chanCount) && decide (1 < 2 ^ s.portCount) && s.medium.calChans.isEmpty
         && s.medium.calPorts.isEmpty) = true := by decide +kernel

/-- CheckerInstructions, what they refuse: a slot of no frame, a programmed slot of the scratch frame, a frame that is retired already,
calibration of no unit and of one in a run. -/
theorem wit_CheckersRefused :
    (let w := wd 0x42 0 1 2; let s := run w [0, BitVec.ofNat 64 (2 ^ 63 + 2 ^ 24), bufOp 64]
     let r := rawTarget ((cx s).reg 1)
     iss s w && r.ok && r.tgt == 2 && (s.rawSlot r).isNone) = true
    ∧ (let w := wd 0x43 0 1 2
       let s := run w [0, BitVec.ofNat 64 (1023 * 2 ^ 16 + 3), bufOp 64] (up.updChan 3 (fun c => { c with scratch := [(1023, 0)] }))
       let r := rawTarget ((cx s).reg 1)
       iss s w && r.ok && r.tgt == 0 && Tbl.has (s.chan r.unit).scratch r.slot && !w.bit 0) = true
    ∧ (let w := wd 0x44 0 1 2
       let s := run w [0, 2, 0] (((filling 0 2).updChan 0 (fun c => { c with first := 0, count := 3 })).updFrame 2 (fun f =>
         { f with state := 7 }))
       iss s w && (s.frame 2).bound && decide (5 ≤ (s.frame 2).state)) = true
    ∧ (let w := wd 0x45 0 1 2
       iss (run w [0, 0, 0]) w && iss (run w [0, 1, 0] (up.onMedium (fun m => { m with calChans := [0] }))) w) = true := by decide +kernel

/-- ScrubRanges: one page, by SCRUB.RANGE and by H.SCRUB_RANGE; a page that an ADMIN region keeps from a TENANT queue, a range of none. -/
theorem wit_ScrubRanges :
    (let w := wd 0x40 0 1 2 3; let s := run w [0, 0x3FF000, 4096, bufOp 64]
     iss s w && hostOf ((cx s).reg 1) == some 0x3FF000 && (s.regionAt 0x3FF000).any (fun q => reaches q.2 (s.queueAdmin 0) 0)
       && (s.regionRange 0x3FF000 4096).isSome && s.bufArg 0 ((cx s).reg 3) 64 == (bufAddr 32 64, Config.OK)) = true
    ∧ (let s := up.putCtx 0 0 { state := 1, house := 4, g := [0x3FF000, 4096, bufOp 64] }
       s.inHouse 0 0 4 && s.fullService && hostOf ((cx s).reg 0) == some 0x3FF000
         && (s.regionAt 0x3FF000).any (fun q => reaches q.2 (s.queueAdmin 0) 0)
         && (s.regionRange 0x3FF000 4096).isSome && s.bufArg 0 ((cx s).reg 2) 64 == (bufAddr 32 64, Config.OK)) = true
    ∧ (let w := wd 0x40 0 1 2 3
       let s := run w [0, 0x3FF000, 4096, bufOp 64] (tenant.onMaps (fun m => { m with regions := [(0, { rgn 0 1024 with access := 2 })] }))
       iss s w && (s.regionAt 0x3FF000).any (fun q => !reaches q.2 (s.queueAdmin 0) (s.queueSessLabel 0))) = true
    ∧ (let w := wd 0x40 0 1 2 3; let s := run w [0, 0x3FF000, 0, bufOp 64]
       iss s w && (s.regionAt 0x3FF000).any (fun q => reaches q.2 (s.queueAdmin 0) 0)) = true := by decide +kernel

/-- Calibrations: commitments wait for the first run; a run of every channel is under way. -/
theorem wit_Calibrations :
    (up.live && up.fullService && up.regul.calWait && up.medium.calChans.isEmpty && up.medium.calPorts.isEmpty
      && decide (up.medium.calDue ≤ up.recs.opsec)) = true
    ∧ (let s := { up with medium := { up.medium with calChans := [0, 15], calPorts := [0] } }
       s.live && s.medium.calChans.contains 15 && s.medium.calPorts.contains 0) = true := by decide +kernel

/-! ### Labels, arbiters, ledger -/

/-- LabelsAndArbiters: queue 32 under label 63, every bucket of a label at 200,000 B/us and a depth of 16 MiB, the last requester of
each kind of arbiter, with and without the mark, a crossbar with one request pending, a long credit wait; an open session, a quota. -/
theorem wit_LabelsAndArbiters :
    (let w := wd 0x48 (63 * 2 ^ 8) 1; let s := run w [0, 32]
     iss s w && !w.bit 0 && s.queueAdmin 0 && (s.queue 32).isSome) = true
    ∧ (let w := wd 0x48 (63 * 2 ^ 8 + 1) 1 2 3; let s := run w [0, 200000, 2 ^ 24, 2 ^ 20 - 1]; iss s w && w.bit 0) = true
    ∧ [(0x11, 0x18), (0x2B, 0x41), (0x4F, 0x3F)].all (fun k => [0, 2 ^ 21].all (fun m =>
        let w := wd 0x4E m 1 2
        let s := run w [0, BitVec.ofNat 64 k.1, BitVec.ofNat 64 k.2]
        iss s w && serves k.1 k.2 && (!w.bit 21 || !aheadOf k.1 k.2) && !w.bit 22)) = true
    ∧ (let w := wd 0x4F 0 1 2 3; let s := run w [0, 0x4F, 0x43, bufOp 64]
       iss s w && serves 0x4F 0x43 && s.bufArg 0 ((cx s).reg 3) 32 == (bufAddr 32 64, Config.OK) && !w.bit 0) = true
    ∧ (let s := up.putArb 0x2B { up.arb 0x2B with recs := [(0x43, { pend := [0] })] }
       s.running && s.arbPick 0x2B == some (0x43, true)) = true
    ∧ (up.running = true ∧ 0 < up.portCount)
    ∧ (let w := wd 0x48 0 1; let s := run w [0, 2 ^ 12]; iss s w && bitOf ((cx s).reg 1).toNat 12 && (s.sess 0 0).isOpen) = true
    ∧ (let w := wd 0x4E (2 ^ 22 + 2 ^ 11 + 2) 1 2; iss (run w [0, 0x2B, 0x41]) w && w.bit 22 && w.fld 20 11 == 1 && w.fld 10 0 == 2) = true
    ∧ (let w := wd 0x4F 1 1 2 3; iss (run w [0, 0x4F, 0x43, bufOp 64]) w && w.bit 0) = true := by decide +kernel

/-- LabelsAndArbiters, what they refuse: a queue and a session that are none, a number past them, a TENANT queue, a rate too high, a
requester that the arbiter does not serve, a quota of 0. -/
theorem wit_LabelsRefused :
    (let w := wd 0x48 0 1
     [33, 2 ^ 12 + 7, 2 ^ 13].all (fun v => iss (run w [0, BitVec.ofNat 64 v]) w) && (up.queue 33).isNone && !(up.sess 0 7).isOpen
       && (let s := run w [0, 2 ^ 12] tenant; iss s w && !s.queueAdmin 0)) = true
    ∧ (let w := wd 0x48 1 1 2 3; iss (run w [0, 200001, 256, 1]) w && (let s := run w [0, 1, 256, 1] tenant; iss s w && !s.queueAdmin 0)) = true
    ∧ (let w := wd 0x4E (2 ^ 22 + 2) 1 2
       iss (run w [0, 0x2B, 0x41]) w && w.fld 20 11 == 0 && iss (run w [0, 0x4F, 0x44]) w && !serves 0x4F 0x44) = true
    ∧ (let w := wd 0x4F 0 1 2 3; let s := run w [0, 0x4F, 0x43, 64]
       iss s w && iss (run w [0, 0x4F, 0x44, bufOp 64]) w && (s.bufArg 0 ((cx s).reg 3) 32).2 != Config.OK) = true
    ∧ (up.arbPick 0x2B).isNone = true := by decide +kernel

/-- A device whose channels have four planes each and whose channels and port are calibrated. -/
def booked : State :=
  { up with
    ports := updAt up.ports 0 (fun p => { p with calLoaded := true })
    medium := { up.medium with
      dramGib := [4, 4, 4, 4, 4, 4]
      chans := up.medium.chans.map (fun c => { c with
        calLoaded := true, layout := [(0, 0, 10), (0, 1, 10), (0, 2, 10), (0, 3, 10)], dies := (dies c).dies }) } }

/-- A commitment block for reads from region 0 with headroom 16. -/
def admitBlock (rate : Nat) (s : State) : State :=
  s.bufStore (bufAddr 32 0) (bytesOf (2 ^ 24 + 16 * 2 ^ 32 + rate * 2 ^ 64) 32)

/-- Whether a block passes the premises of LEDG.ADMIT up to the tests, and what the tests answer. -/
def admits (w : SWord) (s : State) (kind : Nat) : Bool :=
  let h := s.bufNum (bufAddr 32 0) 32
  iss s w && s.bufArg 0 ((cx s).reg w.a) 32 == (bufAddr 32 0, Config.OK) && bitsOf h 7 6 == 0 && bitsOf h 15 10 == 0
    && bitsOf h 31 28 == 0 && bitsOf h 63 37 == 0 && bitsOf h 255 96 == 0 && !s.maps.readOnly && s.calibrated
    && (s.openRegion (bitsOf h 23 16)).isSome && bitsOf h 9 8 == kind && decide (kind < 3) && bitsOf h 36 32 == 16
    && decide (1 ≤ bitsOf h 95 64) && decide (bitsOf h 95 64 ≤ 160000)

/-- The commitment that a block asks for. -/
def asked (s : State) : Commit :=
  let h := s.bufNum (bufAddr 32 0) 32
  { label := bitsOf h 5 0, kind := bitsOf h 9 8, region := bitsOf h 23 16, rate := bitsOf h 95 64, ports := bitsOf h 27 24
    headroom := bitsOf h 36 32, owner := some (cx s).queue, gen := 0, stream := none }

/-- What the tests answer to a word's block: 1 an entry, 2 LEDGER_FULL. -/
def answered (s : State) : Nat :=
  match tryAdmit (s.issued 0 0) (asked (s.issued 0 0)) with
  | .inr _ => 1
  | .inl (st, _) => if st = Config.LEDGER_FULL then 2 else 0

/-- A device that holds one commitment of label 5. -/
def held : State :=
  { booked with regul := { booked.regul with
      commits := [(1023, { label := 5, kind := 0, region := 0, rate := 1, ports := 1, headroom := 1, owner := some 0, gen := 3
                           stream := none })] } }

/-- LedgerInstructions, an admission: 1 B/us fits, 160,000 B/us does not. -/
theorem wit_LedgerAdmit :
    (let w := wd 0x49 0 1 0 0 4
     let s := fun (r : Nat) => run w [0, bufOp 0] (admitBlock r booked)
     admits w (s 1) 0 && answered (s 1) == 1 && admits w (s 160000) 0 && answered (s 160000) == 2) = true := by decide +kernel

/-- LedgerInstructions, the others: a commitment of generation 3 to drop, the accounts of a channel and of the ports, a table to load
and to swap, the ends of the pass time, a loss to revalidate. -/
theorem wit_LedgerInstructions :
    (let w := wd 0x4A 0 1; let v := 1023 + 3 * 1024; let s := run w [0, BitVec.ofNat 64 v] held
     iss s w && (Tbl.find s.regul.commits (v % 1024)).any (fun k => identOf (v % 1024) k == v)) = true
    ∧ [16, 0].all (fun v => let w := wd 0x4B 0 1 2; let s := run w [0, BitVec.ofNat 64 v, bufOp 0]
        iss s w && (v == 16 || decide (v < s.chanCount)) && s.bufArg 0 ((cx s).reg 2) 128 == (bufAddr 32 0, Config.OK)) = true
    ∧ (let w := wd 0x4C 0 1 2
       let s := run w [0, 3, bufOp 0]
         (booked.bufStore (bufAddr 32 0) (List.replicate 128 0x41 ++ List.replicate 128 0xFF))
       let l := (s.bufBytes (bufAddr 32 0) 256).map (·.toNat)
       iss s w && decide (3 < s.chanCount) && s.bufArg 0 ((cx s).reg 2) 256 == (bufAddr 32 0, Config.OK)
         && (s.slotsOf 3).shadowBy != 2 && (s.shortOwners 3 l).isEmpty && l.all (fun o => decide (o ≤ 0x41) || o == 0xFF)
         && s.spacingOk 3 l) = true
    ∧ (let w := wd 0x4D 0 1; let s := run w [0, 3] (up.updSlots 3 (fun x => { x with shadowBy := 1 }))
       iss s w && decide (3 < s.chanCount) && (s.slotsOf 3).shadowBy != 0) = true
    ∧ [4, 720].all (fun v => let w := wd 0x41 0 1; let s := run w [0, BitVec.ofNat 64 v] booked
        iss s w && !(List.range s.chanCount).any (fun ch => (s.chanFails s.regul.commits v ch).isSome)) = true
    ∧ (let s := { up with regul := { up.regul with losses := 1 } }; s.running && !s.flushing && decide (0 < s.regul.losses)) = true := by
  decide +kernel

/-- LedgerInstructions, what they refuse: a block with a reserved bit, headroom 0, no region, a write in READ_ONLY, before calibration;
identifiers that are none; a channel, an account past the last; a shadow table that HS6 wrote, one that is not loaded, one that is short
without and with FORCE; a pass time of 3 hours. -/
theorem wit_LedgerRefused :
    (let w := wd 0x49 0 1 0 0 4
     let s := fun (n : Nat) (t : State) => run w [0, bufOp 0] (t.bufStore (bufAddr 32 0) (bytesOf n 32))
     let h := fun (n : Nat) => (s n booked).bufNum (bufAddr 32 0) 32
     [2 ^ 6, 2 ^ 64, 2 ^ 64 + 2 ^ 32 + 255 * 2 ^ 16].all (fun n => iss (s n booked) w && (s n booked).calibrated) && bitsOf (h (2 ^ 6)) 7 6 != 0
       && bitsOf (h (2 ^ 64)) 36 32 == 0 && ((s 0 booked).openRegion 255).isNone
       && iss (s 256 (booked.onMaps (fun m => { m with readOnly := true }))) w && iss (s 0 up) w && !(s 0 up).calibrated) = true
    ∧ (let w := wd 0x4A 0 1
       iss (run w [0, 1023] held) w && iss (run w [0, 7] held) w
         && (Tbl.find held.regul.commits 1023).any (fun k => identOf 1023 k != 1023) && (Tbl.find held.regul.commits 7).isNone) = true
    ∧ [0x4B, 0x4C, 0x4D].all (fun op => let w := wd op 0 1 (if op = 0x4D then 0 else 2)
        iss (run w [0, 17, bufOp 0]) w && decide (up.chanCount ≤ 17)) = true
    ∧ [2, 0].all (fun k => let w := wd 0x4C 0 1 2; iss (run w [0, 3, bufOp 0] (booked.updSlots 3 (fun x => { x with shadowBy := k }))) w) = true
    ∧ [false, true].all (fun f => let w := wd 0x4C 0 1 2 0 0 f
        let s := run w [0, 3, bufOp 0] (booked.bufStore (bufAddr 32 0) (List.replicate 256 0x7F))
        iss s w && w.force == f && !((s.bufBytes (bufAddr 32 0) 256).map (·.toNat)).all (fun o => decide (o ≤ 0x41) || o == 0xFF)) = true
    ∧ (let w := wd 0x4D 0 1; iss (run w [0, 3]) w && (up.slotsOf 3).shadowBy == 0) = true
    ∧ (let w := wd 0x41 0 1; iss (run w [0, 3]) w) = true := by decide +kernel

/-- SlotTablesRotate: an entry within the table, the last one without and with an armed shadow. -/
theorem wit_SlotTablesRotate :
    (up.running = true ∧ 3 < up.chanCount)
    ∧ [(0, false), (255, false), (255, true)].all (fun k =>
        let s := up.updSlots 3 (fun x => { x with entry := k.1, armed := k.2 })
        s.running && decide (3 < s.chanCount) && (s.slotsOf 3).entry == k.1 && (s.slotsOf 3).armed == k.2
          && (s.slotsOf 3).forced.isEmpty) = true := by decide +kernel

/-! ### Keys -/

/-- The word of XTS.ENC or XTS.DEC by key 1. -/
def xtsWord (op : Nat) : SWord := wd op 1 1 2 3 4

/-- KeyInstructions: a word of each, the last key and one past it, XTS of 16 bytes in place, of 15, under a FATAL key, with no pipeline. -/
theorem wit_KeyInstructions :
    [wd 0x50 0 1 2, wd 0x51 0 1, wd 0x52 0 1 0 0 4].all (fun w => iss (run w [0, 63, bufOp 0]) w) = true
    ∧ [0x53, 0x54].all (fun op => let s := run (xtsWord op) [0, bufOp 0, bufOp 0, 16, 0, 0]
        iss s (xtsWord op) && xtsArgs s 0 0 (xtsWord op) == (bufAddr 32 0, bufAddr 32 0, 16, Config.OK)
          && (s.keyRec 1).state == 1 && s.pipesLeft) = true
    ∧ (let w := wd 0x52 0 1 0 0 4; iss (run w [0, 64]) w) = true
    ∧ [0x53, 0x54].all (fun op => let s := run (xtsWord op) [0, bufOp 0, bufOp 0, 15, 0, 0]
        iss s (xtsWord op) && (xtsArgs s 0 0 (xtsWord op)).2.2.2 != Config.OK) = true
    ∧ (let s := run (xtsWord 0x53) [0, bufOp 0, bufOp 0, 16, 0, 0]
         { up with keys := { up.keys with recs := [(1, { state := 2, ceil := 1000 })], pipes := [3, 3, 3, 3] } }
       iss s (xtsWord 0x53) && (xtsArgs s 0 0 (xtsWord 0x53)).2.2.2 == Config.OK && (s.keyRec 1).state == 2 && !s.pipesLeft) = true := by
  decide +kernel

/-- A device with two loaded keys, whose region 1 is half re-keyed: the batch ends at an address. -/
def rekeying (hi : Nat) (pages : Tbl Nat := []) : State :=
  { up with
    keys := { up.keys with
      recs := [(1, { state := 1, ceil := 1000 }), (2, { state := 1, ceil := 1000 })]
      rekey := some ⟨1, 1, 2, 0x400000, hi, 0, List.replicate 16 noRfx⟩ }
    maps := { up.maps with map := pages, jopen := [(7, 0)] } }

/-- RekeyRoutines: a region to re-key, a batch with a page left, one with none, the last one; a region to erase, a key to roll; a region
that is none, its own key as the new one. -/
theorem wit_RekeyRoutines :
    (let s := { (rekeying 0 []) with keys := { (rekeying 0 []).keys with rekey := none } }
     let h := s.putCtx 0 0 { state := 1, house := 7, g := [1, 2] }
     h.inHouse 0 0 7 && h.fullService && (h.openRegion 1).any (fun r => r.key != 2) && (h.keyRec 2).state == 1
       && h.keys.rekey.isNone) = true
    ∧ [([(0x400, 384)], 0x401000), ([], 0x401000)].all (fun k => let s := rekeying k.2 k.1
        s.live && s.fullService && s.pipesLeft && (s.region 1).any (fun r => decide (k.2 < r.base + r.size))
          && s.keys.rekey.any (fun x => ((s.mappedIn x.lo x.hi).filter (fun p => !s.batchDone x p)).isEmpty == k.1.isEmpty)) = true
    ∧ (let s := rekeying 0x600000
       s.live && s.maps.moves.isEmpty && !s.journaling && (s.region 1).any (fun r => decide (r.base + r.size ≤ 0x600000)
           && (commitKeyId (raiseFloor s 1) 1 { r with key := 2 }).isSome)
         && s.keys.rekey.any (fun x => ((s.mappedIn x.lo x.hi).filter (fun p => !s.batchDone x p)).isEmpty)) = true
    ∧ [0, 1].all (fun k => let s := up.putCtx 0 0 { state := 1, house := 5, houseStep := k, g := [1] }
        s.inHouse 0 0 5 && s.fullService && (s.openRegion 1).isSome && (cx s).houseStep == k) = true
    ∧ [0, 1].all (fun k => let s := up.putCtx 0 0 { state := 1, house := 6, houseStep := k, g := [1, bufOp 0] }
        s.inHouse 0 0 6 && s.fullService && (cx s).houseStep == k && (s.keyRec 1).state != 0
          && ((List.range 64).find? (fun k => (s.keyRec k).state == 0)).isSome && s.nextBound 1 == some 0) = true
    ∧ [(7, 255, 2), (7, 1, 1), (5, 255, 0), (6, 63, 0)].all (fun k =>
        let s := up.putCtx 0 0 { state := 1, house := k.1, g := [BitVec.ofNat 64 k.2.1, BitVec.ofNat 64 k.2.2] }
        s.inHouse 0 0 k.1 && s.fullService && (k.2.1 != 255 || (s.openRegion 255).isNone)
          && (k.2.1 != 1 || (s.openRegion 1).any (fun r => r.key == 1)) && (k.2.1 != 63 || (s.keyRec 63).state == 0)) = true := by
  decide +kernel

/-! ### Resources, records, the tap -/

/-- SystemInstructions: a resource to claim, to take over, to give back, a rail and the warning to set, a port and an engine to
reset. -/
theorem wit_SystemInstructions :
    (let w := wd 0x58 8; let s := run w []
     iss s w && !w.force && resourceOk 8 && s.mayClaim 0 8 && s.claimOk 0 8) = true
    ∧ (let w := wd 0x58 8 0 0 0 0 true; let s := run w [] { up with eng := { up.eng with claims := [(8, 32)] } }
       iss s w && w.force && Tbl.find s.eng.claims 8 == some 32) = true
    ∧ (let w := wd 0x59 8; let s := run w [] { up with eng := { up.eng with claims := [(8, 0)] } }
       iss s w && resourceOk 8 && s.mayClaim 0 8 && Tbl.find s.eng.claims 8 == some 0) = true
    ∧ [(2, 0), (10, 3)].all (fun k => let w := wd 0x5A (k.1 + 16 * k.2)
        iss (run w []) w && w.fld 3 0 == k.1 && w.fld 5 4 == k.2 && Config.railAllows k.1 k.2 && !w.bit 12) = true
    ∧ [0, 60, 110].all (fun n => let w := wd 0x5B n; iss (run w []) w && !w.bit 9 && !w.bit 12) = true
    ∧ (let w := wd 0x61 17; let s := run w [] { up with boot := { up.boot with straps := { link := 2 } } }
       iss s w && w.fld 1 0 == 1 && decide (w.fld 5 4 < s.portCount) && (s.queue 0).any (fun q => q.port != w.fld 5 4)) = true
    ∧ (let w := wd 0x61 (2 + 15 * 2 ^ 8); let s := run w []
       iss s w && w.fld 1 0 == 2 && w.fld 11 8 != 0
         && !s.eng.ctx.any (fun k => k.1 / 32 == w.fld 11 8 && !k.2.posted.isEmpty)) = true := by decide +kernel

/-- SystemInstructions, what they refuse: a resource that another queue holds, one that Table 10-11 does not list, one that a TENANT queue
may not name; a policy that a rail does not allow, a warning at 59 °C; a port past the last, the engine's own, one with posted units. -/
theorem wit_SystemRefused :
    [0x58, 0x59].all (fun op =>
      let s := run (wd op 8) [] { up with eng := { up.eng with claims := [(8, 32)] } }
      iss s (wd op 8) && (wd op 0xFF).fld 7 0 == 0xFF && !resourceOk 0xFF && iss (run (wd op 0xFF) []) (wd op 0xFF) && !s.claimOk 0 8
        && (let t := run (wd op 0x10) [] tenant; iss t (wd op 0x10) && !t.mayClaim 0 0x10)) = true
    ∧ (let w := wd 0x5A 12; iss (run w []) w && decide (11 < w.fld 3 0)) = true
    ∧ (let w := wd 0x5B 59; iss (run w []) w) = true
    ∧ (let w := wd 0x61 (1 + 16 * 3); iss (run w []) w && w.fld 1 0 == 1 && decide (up.portCount ≤ w.fld 5 4)) = true
    ∧ (let w := wd 0x61 2; iss (run w []) w && w.fld 11 8 == 0) = true
    ∧ (let w := wd 0x61 (2 + 2 ^ 8); let s := (run w []).putCtx 1 0 { posted := [oneMove 64] }
       iss s w && s.eng.ctx.any (fun k => k.1 / 32 == 1) && w.fld 11 8 == 1) = true := by decide +kernel

/-- A record of the NV store. -/
def aNv : NvRec :=
  { kind := 1, id := 7, data := [1, 2], seq := 9, pcc := 0, opsec := 0, copy0 := true, copy1 := true, sect0 := 0, sect1 := 0 }

/-- A device whose Q32 has a counter ring, and whose NV store holds a record. -/
def logging : State :=
  { (up.updQueue 32 (fun q => { q with ring := some (4096, 65536) })) with
    recs := { up.recs with ringQ := some 32, periodMs := 1, nv := [aNv], nvState := 1 } }

/-- A word of a task of Q32. -/
def run32 (w : SWord) (g : List W64) (s : State) : State := run w g s { queue := 32 }

/-- RecordInstructions: the first and the last block, a snapshot, a dump, a block of PERF.CFG with no counter selected, a periodic
dump, a record of 200 bytes to append, one to read, an area to compact. -/
theorem wit_RecordInstructions :
    [0, 35].all (fun v => let w := wd 0x5C 0 1 2; let s := run w [0, BitVec.ofNat 64 v, bufOp 0]
      iss s w && !w.bit 0 && s.bufArg 0 ((cx s).reg 2) (s.block v).length == (bufAddr 32 0, Config.OK)) = true
    ∧ [wd 0x5C 1 1, wd 0x5E].all (fun w => let s := run32 w [0, 0] logging
        iss s w && s.claimOk 32 0x10 && ((s.queue 32).bind (·.ring)).isSome) = true
    ∧ (let w := wd 0x5D 0 1
       let s := run32 w [0, bufOp 0] (up.bufStore (bufAddr 32 0) (bytesOf (4096 * 2 ^ 128 + 65536 * 2 ^ 160) 64))
       let h := s.bufNum (bufAddr 32 0) 64
       let sel := (List.range 256).map (fun i => s.bufNum (bufAddr 32 0 + 64 + 4 * i) 4)
       iss s w && s.bufArg 32 ((cx s).reg 1) 1088 == (bufAddr 32 0, Config.OK) && !w.bit 0 && !w.bit 1 && perfBlockOk h sel false
         && s.bufRange (bufAddr 32 (bitsOf h 159 128)) (bitsOf h 191 160)) = true
    ∧ (let s := { logging with eng := { logging.eng with claims := [(0x10, 32)] } }
       s.live && s.recs.ringQ == some 32 && s.recs.periodMs != 0 && Tbl.find s.eng.claims 0x10 == some 32) = true
    ∧ [1, 200].all (fun n => let w := wd 0x5F 0 1 2 3; let s := run w [0, 0xEFFF, bufOp 0, BitVec.ofNat 64 n]
        iss s w && s.bufArg 0 ((cx s).reg 2) n == (bufAddr 32 0, Config.OK) && s.recs.nvState != 2
          && decide (5 ≤ s.recs.erased0) && decide (5 ≤ s.recs.erased1)) = true
    ∧ (let w := wd 0x60 0 1 2 0 4; let s := run w [0, 7, bufOp 0] logging
       iss s w && s.recs.selected 7 == some aNv && s.bufArg 0 ((cx s).reg 2) 200 == (bufAddr 32 0, Config.OK)) = true
    ∧ (let r := { up.recs with erased0 := 7, nvState := 2 }; decide (r.erased0 < 8) && r.nvState == 2) = true := by decide +kernel

/-- RecordInstructions, what they refuse: a block past the last, no ring, a dump buffer that another queue holds, a block of PERF.CFG with
no ring length, a store that compacts, an ID that is kept for the device, an ID of no record. -/
theorem wit_RecordsRefused :
    (let w := wd 0x5C 0 1 2; iss (run w [0, 36, bufOp 0]) w) = true
    ∧ [wd 0x5C 1 1, wd 0x5E].all (fun w =>
        let s := run32 w [0, 0] up
        let t := run32 w [0, 0] { up with eng := { up.eng with claims := [(0x10, 0)] } }
        iss s w && s.claimOk 32 0x10 && ((s.queue 32).bind (·.ring)).isNone && iss t w && !t.claimOk 32 0x10) = true
    ∧ (let w := wd 0x5D 0 1; let s := run32 w [0, bufOp 0] up
       let h := s.bufNum (bufAddr 32 0) 64
       iss s w && !perfBlockOk h ((List.range 256).map (fun i => s.bufNum (bufAddr 32 0 + 64 + 4 * i) 4)) false) = true
    ∧ (let w := wd 0x5F 0 1 2 3
       iss (run w [0, 1, bufOp 0, 1] (up.onRecs (fun r => { r with nvState := 2 }))) w && iss (run w [0, 0xF000, bufOp 0, 1]) w) = true
    ∧ (let w := wd 0x60 0 1 2 0 4; iss (run w [0, 8, bufOp 0] logging) w && (logging.recs.selected 8).isNone) = true := by decide +kernel

/-- BusAndTap: a serving accepted die, status records with and without a refused command, a powered tap. -/
theorem wit_BusAndTap :
    (let s := up.updChan 3 (fun c => { c with state := 2, dies := updAt c.dies 7 (fun x => { x with present := true, accepted := true }) })
     decide (3 < s.chanCount) && (s.chan 3).state == 2 && ((s.chan 3).dies.getD 7 {}).present && ((s.chan 3).dies.getD 7 {}).accepted) = true
    ∧ (bitsOf (BitVec.ofNat 128 (2 ^ 40)).toNat 47 40 ≠ 0 ∧ bitsOf (0 : BitVec 128).toNat 47 40 = 0)
    ∧ (List.range 4).all (fun p => bitsOf (0 : BitVec 128).toNat (4 * p + 19) (4 * p + 16) != 6
        && bitsOf (0 : BitVec 128).toNat (4 * p + 19) (4 * p + 16) != 4) = true
    ∧ ((up.rail 0).on = true ∧ (up.rail 2).on = true) := by decide +kernel

/-! ### Write-back, journal, frames -/

/-- A device with one line of page 1 in its write-back buffer. -/
def dirtyPage : State :=
  { up with cache := { up.cache with wbb := [(16, { data := 7, delta := false, mono := false, poison := false, region := 0 })] } }

/-- A device whose copy of page 0 is enciphered for PPN 385 of the open frame 2. -/
def copying (old new : Nat) (mono : Bool := false) (integ : Bool := false) : State :=
  let i : LImg := { plain := 9, keys := ⟨0, 0, 0⟩, tweak := tweakOf 0 1 1 false, poison := false }
  { (filling 0 2) with
    maps := { (filling 0 2).maps with moves := [(0, { kind := .writeBack, old := old, new := new, snap := [⟨15, 0, false⟩], stage := 0,
                                                       img := ⟨0, 1, mono, integ, List.replicate 16 i⟩, buf := [] })] }
    medium := { (filling 0 2).medium with
      chans := updAt (filling 0 2).medium.chans 0 (fun c => { c with opens := [(4, 2)] })
      frames := (filling 0 2).medium.frames.map (fun (p : Nat × Frame) => (p.1, { p.2 with state := 2, next := 2 })) } }

/-- WriteBacks: a page with a line in the write-back buffer, a copy to report as programmed or failed, an in-place program of line 15,
an open integrity frame; the last step of it, with another line left and without. -/
theorem wit_WriteBacks :
    (dirtyPage.live && dirtyPage.wbDue 1 && !dirtyPage.changing 1 && !dirtyPage.rekeying 1 && !dirtyPage.blockedMap 1
      && dirtyPage.pipesLeft && dirtyPage.houseRoom && !dirtyPage.wbDue 2) = true
    ∧ (let s := copying 384 385
       let f1 := s.updChan 0 (fun c => { c with pfail := (c.pfail + 1) % 2 ^ 16 })
       let f2 := f1.onMedium (fun x => { x with retireDue := x.retireDue ++ [2] })
       s.live && (Tbl.find s.maps.moves 0).any (fun m => m.stage == 0 && m.old != m.new && fxOf m.new == 2 && !s.earlierPage m)
         && (s.frame 2).ch == 0 && !s.medium.retireDue.contains 2 && (allocUse f2 0 4).isSome) = true
    ∧ (let s := copying 384 384 true
       (Tbl.find s.maps.moves 0).any (fun m => m.stage == 0 && m.old == m.new && m.snap == [⟨15, 0, false⟩] && m.step 15 == 1
         && (m.img.lines[15 % 16]?).isSome)) = true
    ∧ [[], [⟨14, 0, false⟩]].all (fun l => let s := (copying 384 384 true).onMaps (fun x =>
        { x with moves := Tbl.upd x.moves 0 (fun m => { m with steps := [(15, 3)], snap := l ++ m.snap }) })
       (Tbl.find s.maps.moves 0).any (fun m => m.step 15 == 3 && (m.snap.filter (fun p => p.line != 15)).isEmpty == l.isEmpty)) = true
    ∧ (let s := up.updChan 3 (fun c => { c with opens := [(9, 2)] })
       s.live && useInteg 9 && Tbl.find (s.chan 3).opens 9 == some 2) = true := by decide +kernel

/-- A device with a journal record in a stage, and room for records. -/
def journaling (f : MapSt → MapSt) : State :=
  { up with
    maps := { f up.maps with jopen := [(7, 0)] }
    medium := { up.medium with chans := updAt up.medium.chans 0 (fun c => { c with journal := 1 }) } }

/-- A journal record and a root. -/
def aRec : JRec := ⟨1, [⟨0, 384, 0⟩], none, 0, 0⟩
def aRoot : Root := { cseq := 5, jseqC := 0, dirs := [], regions := [], doneFseq := 0, done := [] }

/-- JournalAndCheckpoints: map entries, a region change, a body before and behind another record's seal, a seal; a checkpoint that is
asked for, one that the journal's length asks for, a root to seal. -/
theorem wit_JournalAndCheckpoints :
    (let s := journaling (fun m => { m with jpend := [⟨0, 384, 0⟩] })
     s.live && s.maps.jbody.isNone && s.houseRoom && (takePlace s).isSome && !s.maps.jpend.isEmpty) = true
    ∧ [some (rgn 0x600000 512), none].all (fun x => let s := journaling (fun m => { m with jregion := [(255, x)] })
        s.maps.jbody.isNone && (takePlace s).isSome && s.maps.jpend.isEmpty
          && s.maps.jregion == [(255, x)] && (x.isSome || !s.dropPending 255)) = true
    ∧ (let s := journaling (fun m => { m with jregion := [(0, none)], waitMoves := [(0, .drop)] }); s.dropPending 0) = true
    ∧ (let s := journaling (fun m => { m with jbody := some aRec }); s.maps.jbody == some aRec && s.maps.jseal.isNone) = true
    ∧ (let s := journaling (fun m => { m with jbody := some aRec, jseal := some aRec })
       s.live && s.maps.jbody == some aRec && s.maps.jseal == some aRec && s.maps.jready.isNone
         && (replaceRecord s aRec).isSome) = true
    ∧ (let s := up.putCtx 0 0 { state := 3, wait := .ckpt }
       s.live && s.pers.ckpt.isNone && !(s.waiters (fun w => w == .ckpt)).isEmpty
         && ((writeMapPages (s.onMaps (fun m => { m with changed := [] })) s.maps.changed).bind (fun t => writeDirPages t t.dirsOf)).isSome) = true
    ∧ (let s := journaling (fun m => { m with jframes := 1024 * 512 })
       s.live && s.pers.ckpt.isNone && decide (1024 * 512 ≤ s.maps.jframes)) = true
    ∧ (let s := { up with pers := { up.pers with ckpt := some aRoot } }; s.live && s.pers.ckpt == some aRoot) = true := by
  decide +kernel

/-- A device whose channel 0 has the free frame 5 on a plane whose die holds every mode. -/
def freeing (f : Chan → Chan) : State :=
  { booked with
    medium := { booked.medium with
      chans := updAt booked.medium.chans 0 (fun c => f { c with free := [5], treeValid := true })
      frames := [(5, { ch := 0, die := 0, plane := 0, frame := 0, bound := true, state := 0, mode := 0, live := 0, staged := false
                       integ := false, order := 0, next := 0, sClears := 0, tClears := 0, stamp := 0
                       pins := 0 })] } }

/-- FramesReclaimed: a staged page of a T region, a victim, a frame to retire, a frame to clear, a clear in flight without and with a
failure before, a tree to rebuild. -/
theorem wit_FramesReclaimed :
    (let s := { (filling 0 1) with
                  maps := { (filling 0 1).maps with staged := [0] }
                  medium := { (filling 0 1).medium with
                    frames := (filling 0 1).medium.frames.map (fun (p : Nat × Frame) => (p.1, { p.2 with staged := true })) } }
     s.oldestStaged (s.home 0) == some 0 && s.live && (s.regionOfPage 0).any (fun q => q.2.density == 1) && mapped (s.mapEntry 0)
       && (s.frame (fxOf (s.mapEntry 0))).staged && s.unowned (s.home 0)) = true
    ∧ (let s := up.updChan 3 (fun c => { c with victim := some 2 }); decide (3 < s.chanCount) && (s.chan 3).victim == some 2) = true
    ∧ (let s := (freeing id).onMedium (fun m => { m with retireDue := [5] })
       s.live && s.medium.retireDue.contains 5 && (s.frame 5).live == 0 && (s.frame 5).pins == 0 && !s.copiesInto 5 && !s.journalHolds 5) = true
    ∧ (let s := (filling 0 2).onMedium (fun m => { m with retireDue := [2] })
       s.medium.retireDue.contains 2 && !s.journalHolds 2 && (s.frame 2).live != 0) = true
    ∧ (let s := (freeing (fun c => { c with journal := 1, first := 5, count := 1 })).onMedium (fun m => { m with retireDue := [5] })
       let t := s.onMaps (fun m => { m with jopen := [(5, 0)] })
       t.medium.retireDue.contains 5 && t.journalHolds 5) = true
    ∧ (let s := freeing id
       let w := wornOut s 0
       s.live && (s.chan 0).clearing.isNone && s.pers.rebuild == 11 && s.houseRoom && (w.clearPick 0).any (fun p => p.1 == 5)) = true
    ∧ ((wornOut up 3).clearPick 3).isNone = true
    ∧ [0, 1].all (fun k => let s := freeing (fun c => { c with clearing := some (5, 1), cfailRow := k })
        let b := s.updChan 0 (fun c => { c with cfail := (c.cfail + 1) % 2 ^ 16, cfailRow := c.cfailRow + 1 })
        s.live && (s.chan 0).clearing == some (5, 1) && (decide (2 ≤ (b.chan 0).cfailRow) == (k == 1))) = true
    ∧ (up.running = true ∧ 3 < up.chanCount ∧ (up.chan 3).treeValid = false) := by decide +kernel

/-- ScrubAndRepair: a channel whose pass is due, before and during its last one; a page to relocate, a patch to repair, the first
stamp, a second of the operating time. -/
theorem wit_ScrubAndRepair :
    [none, some 0].all (fun k => let s := up.updChan 3 (fun c => { c with scrubCursor := k })
      s.live && decide (3 < s.chanCount) && decide ((s.chan 3).scrubDue ≤ s.recs.opsec) && (s.chan 3).scrubCursor == k) = true
    ∧ (let s := (filling 0 2).updChan 0 (fun c => { c with relocs := [⟨0, 384⟩] })
       s.live && s.relocTurn 0 && (s.chan 0).relocs == [⟨0, 384⟩] && s.mapEntry 0 == 384) = true
    ∧ (let i : LImg := { plain := 9, keys := ⟨0, 0, 0⟩, tweak := tweakOf 0 1 1 false, poison := false }
       let p : Patch := { ppn := 960, line := 0, img := i, bits := 3, moving := true }
       let s := freeing (fun c => { c with patches := [p], free := [] })
       let t := s.onMedium (fun m => { m with frames := m.frames.map (fun (q : Nat × Frame) => (q.1, { q.2 with state := 4 })) })
       t.live && t.fullService && (t.chan 0).patches == [p] && p.moving && (t.frame (fxOf p.ppn)).live == 0
         && (t.frame (fxOf p.ppn)).pins == 0 && (t.frame (fxOf p.ppn)).state != 2 && !t.copiesInto 5
         && (t.descOf (t.frame 5)).any (fun ds => wearOk ds (t.frame 5) 1)) = true
    ∧ (let s := (freeing id).updFrame 5 (fun f => { f with sClears := 100000 })
       (s.descOf (s.frame 5)).any (fun ds => !wearOk ds (s.frame 5) 1)) = true
    ∧ (up.live = true ∧ up.medium.stamps = [])
    ∧ (let s := { up with boot := { up.boot with mismatch := true } }
       s.goose.upStep == 8 && s.goose.downStep == 0 && s.boot.cold != 2 && !s.live && up.live && up.pers.rebuild == 11) = true := by
  decide +kernel

/-! ### Resets, H. routines, supervision -/

/-- DeviceResets: RESET of KIND 0 with FORCE, on a dirty cache, on a clean one, of KIND 3; RESET_N low and its rise, in a flush too; a flush that a reset waits
for. -/
theorem wit_DeviceResets :
    (let w := wd 0x61 0 0 0 0 0 true; let s := run w []; iss s w && w.fld 1 0 == 0 && w.force) = true
    ∧ (let w := wd 0x61
       let s := run w [] dirtied
       iss s w && w.fld 1 0 == 0 && !w.force && decide (0 < s.cache.dirty)) = true
    ∧ (let w := wd 0x61 3; iss (run w []) w && w.fld 1 0 == 3) = true
    ∧ (let w := wd 0x61; let s := run w []
       iss s w && !w.force && s.cache.dirty == 0 && !s.flushing && s.goose.downStep == 0 && s.goose.upStep == 8) = true
    ∧ (let s := { up with boot := { up.boot with inReset := true, resetN := false, stage := 1 } }
       s.goose.upStep == 8 && s.boot.inReset && !s.ioBad) = true
    ∧ (let s := { up with
         boot := { up.boot with resetWait := 1 }, pers := { up.pers with flush := some { step := 5, cause := 4, start := 0 } } }
       s.flushing && s.boot.resetWait == 1) = true := by decide +kernel

/-- A context in a house routine with an argument. -/
def inHouse (n : Nat) (g : W64) (s : State) : State := s.putCtx 0 0 { state := 1, house := n, g := [g] }

/-- HouseRoutines: H.INIT with the default and with the smallest spreads; H.FORMAT before the first format and after it; H.REBUILD. -/
theorem wit_HouseRoutines :
    [0, 256 + 32 * 2 ^ 32].all (fun v => let s := inHouse 1 (BitVec.ofNat 64 v) booked
      s.inHouse 0 0 1 && (spreadsOf ((cx s).reg 0).toNat).isSome && s.fullService && s.cache.on
        && !(List.range s.chanCount).any (fun ch => (s.chanFails s.regul.commits 24 ch).isSome)) = true
    ∧ (let s := inHouse 2 1 (freeing (fun c => { c with count := 10000 }))
       let t := { s with boot := { s.boot with sysFrames := false } }
       t.inHouse 0 0 2 && t.rgnTurn && t.fullService && (t.keyRec 1).state == 1 && !t.boot.sysFrames && t.dieHcap != 0) = true
    ∧ (let s := inHouse 2 1 up
       let t := { s with maps := { s.maps with regions := [] } }
       t.inHouse 0 0 2 && t.rgnTurn && t.fullService && (t.keyRec 1).state == 1 && t.boot.sysFrames
         && t.defCheck 0 (formatRegion t.maps.hcap 1) == Config.OK) = true
    ∧ (let s := inHouse 9 0 up; s.inHouse 0 0 9 && s.fullService) = true := by decide +kernel

/-- HouseRoutines, what they refuse and where they wait: a spread of 1, Lamb service, a ledger that is full, a cache that is off without and
with an invalidation; keys that are EMPTY, past the last and FATAL, no die, a region that stands, another region change. -/
theorem wit_HouseRefused :
    ((spreadsOf 1).isNone && (inHouse 1 1 up).inHouse 0 0 1) = true
    ∧ [1, 2, 9].all (fun n => let s := inHouse n 0 { up with boot := { up.boot with full := false } }
        s.inHouse 0 0 n && s.rgnTurn && !s.fullService) = true
    ∧ (let s := regul booked (fun g => { g with commits := [(0,
         { label := 5, kind := 0, region := 0, rate := 160000, ports := 1, headroom := 16, owner := some 0, gen := 0, stream := none })] })
       (List.range s.chanCount).any (fun ch => (s.chanFails s.regul.commits 24 ch).isSome)) = true
    ∧ [false, true].all (fun b => let s := inHouse 1 0 (booked.onCache (fun c => { c with on := false, invalAll := b }))
        s.inHouse 0 0 1 && !s.cache.on && s.cache.invalAll == b) = true
    ∧ (let s := inHouse 2 2 up; s.inHouse 0 0 2 && (s.keyRec 2).state == 0) = true
    ∧ (let s := inHouse 2 1 { up with keys := { up.keys with recs := [(1, { state := 2, ceil := 1000 })] } }
       s.inHouse 0 0 2 && (s.keyRec 1).state == 2) = true
    ∧ (let s := inHouse 2 1 { up with boot := { up.boot with sysFrames := false } }; s.fullService && s.dieHcap == 0) = true
    ∧ (let s := inHouse 2 1 up; s.defCheck 0 (formatRegion s.maps.hcap 1) != Config.OK) = true
    ∧ (let s := inHouse 2 1 (up.onMaps (fun m => { m with jregion := [(255, none)] })); s.inHouse 0 0 2 && !s.rgnTurn) = true := by
  decide +kernel

/-- SmbusCommands: a powered island, with and without an alert. -/
theorem wit_SmbusCommands :
    up.goose.vaux = true ∧ ({ up.goose with smbAlert := true } : Goose).smbAlert = true
      ∧ (4 < (5 : Byte).toNat ∧ (0x5B : Byte) ≠ 0x5A) := by decide +kernel

/-- RailsAndSupply: an island to power up, a step to go on from, the last step, rails in each state, a running device, one in power-up,
VAUX gone. -/
theorem wit_RailsAndSupply :
    (State.reset.goose.vaux && State.reset.goose.upStep == 0 && State.reset.goose.downStep == 0 && !State.reset.goose.lockout
      && !State.reset.goose.cutAll && !State.reset.goose.thermalStop) = true
    ∧ [1, 6, 7].all (fun k => let s := { up with goose := { up.goose with upStep := k } }
        s.goose.upStep == k && s.goose.downStep == 0 && (stepRails k).all (fun n => (s.rail n).good)) = true
    ∧ (let s := up.updRail 11 (fun x => { x with ramp := true, pg := false })
       (s.rail 11).on && (s.rail 11).ramp && !(s.rail 11).good) = true
    ∧ ((up.rail 11).on = true ∧ (up.rail 11).ramp = false ∧ 11 < up.goose.rails.length ∧ up.goose.vaux = true)
    ∧ (State.reset.rail 11).on = false
    ∧ (let s := { State.reset with goose := { State.reset.goose with downStep := 3 } }
       let t := s.updRail 11 (fun x => { x with inFault := true })
       !(s.rail 11).inFault && (t.rail 11).inFault && !(t.rail 11).on && t.goose.downStep != 0) = true
    ∧ (let s := up.updRail 11 (fun x => { x with retryOff := true }); (s.rail 11).retryOff) = true
    ∧ (let s := up.updRail 11 (fun x => { x with incident := true }); (s.rail 11).incident && (s.rail 11).good) = true
    ∧ (up.running = true ∧ up.goose.upStep ≠ 0 ∧ up.goose.downStep = 0 ∧ up.flushing = false)
    ∧ (let s := { up with boot := { up.boot with stage := 1 }, goose := { up.goose with upStep := 1 } }
       s.goose.vaux && !s.running && s.goose.upStep != 0 && s.goose.downStep == 0 && !s.flushing) = true
    ∧ ({ up.goose with vaux := false } : Goose).vaux = false := by decide +kernel

/-- A device in a stage of its start. -/
def starting (n : Nat) (p : Persist := {}) : State :=
  { up with boot := { up.boot with stage := n }, pers := p }

/-- StartPhases: a strap window with valid and with reserved straps; each phase that ends and each step of the rebuild; the image
retired. -/
theorem wit_StartPhases :
    (let s := { up with boot := { up.boot with strapWindow := true } }
     s.boot.strapWindow && (strapsOf 0).ok && !(strapsOf 7).ok && (0 : BitVec 13) != 1) = true
    ∧ [2, 3, 4, 6].all (fun n => let s := starting n { rebuild := 11 }
        !s.flushing && s.goose.downStep == 0 && !s.goose.stopping && s.goose.upStep == 8 && s.boot.stage == n
          && !s.boot.strapFault && !s.boot.mismatch && s.pers.rebuild != 0) = true
    ∧ (List.range 11).all (fun n => [[0], []].all (fun l => let s := starting 4 { rebuild := n, order := l }
        s.live && s.pers.rebuild == n && s.pers.order == l && (restoreLate s).pers.toRestore.isEmpty)) = true
    ∧ (let s := starting 5 { rebuild := 11, imageLive := true }
       let t := { s with boot := { s.boot with sysFrames := true } }
       t.live && t.boot.stage == 5 && t.pers.restoredLines.isEmpty && t.pers.toRestore.isEmpty && !t.pers.reserveOk && t.boot.sysFrames) = true := by
  decide +kernel

/-- Temperatures: an island with the core off, a core that does not serve, one that serves; 115 °C at one site twice, and not; an
orderly stop with dirty lines and without; a cooled device. -/
theorem wit_Temperatures :
    (State.reset.goose.vaux && State.reset.goose.upStep == 0
      && !(State.reset.onGoose (fun g => g.takeTemps [] [] (State.reset.rail 0).good)).serves) = true
    ∧ (let s := { up with boot := { up.boot with stage := 1 },
                          goose := { up.goose with sites := updAt up.goose.sites 7 (fun x => { x with over115 := 1 }) } }
       let t := s.onGoose (fun g => g.takeTemps (List.replicate 8 1840) (List.replicate 8 0) (s.rail 0).good)
       s.goose.vaux && s.goose.upStep != 0 && !t.serves && s.goose.downCause != 2
         && t.goose.sites.any (fun x => decide (2 ≤ x.over115))) = true
    ∧ (let t := up.onGoose (fun g => g.takeTemps (List.replicate 8 1839) (List.replicate 8 0) (up.rail 0).good)
       up.goose.vaux && t.serves && !up.goose.warn && up.goose.warnLevel == 0
         && t.goose.sites.all (fun x => decide (x.over115 < 2) && decide (x.over110 < 2))) = true
    ∧ (let s := { up with boot := { up.boot with stage := 6, full := false },
                          goose := { up.goose with sites := updAt up.goose.sites 7 (fun x => { x with over110 := 1 }) } }
       let t := s.onGoose (fun g => g.takeTemps (List.replicate 8 1760) (List.replicate 8 0) (s.rail 0).good)
       !t.goose.sites.any (fun x => decide (2 ≤ x.over115)) && t.goose.sites.any (fun x => decide (2 ≤ x.over110)) && !s.goose.stopping
         && s.goose.downCause == 0 && !t.flushing && s.goose.downStep == 0 && !t.boot.full) = true
    ∧ (let g := { up.goose with stopping := true }
       let s : State := { dirtied with goose := g, boot := { dirtied.boot with straps := { hold := 1 } } }
       s.goose.stopping && !s.flushing && s.goose.downStep == 0 && s.maps.jseal.isNone && s.mayFlush
         && decide (0 < s.cache.dirty)) = true
    ∧ (let s := { up with goose := { up.goose with stopping := true } }
       s.goose.stopping && !s.flushing && s.goose.downStep == 0 && s.maps.jseal.isNone && s.cache.dirty == 0) = true
    ∧ (let s := { State.reset with goose := { State.reset.goose with
                    thermalStop := true, sites := List.replicate 8 { temp := 1519 } } }
       s.goose.vaux && s.goose.thermalStop && s.goose.upStep == 0 && !s.goose.lockout
         && s.goose.sites.all (fun x => decide (x.temp < 1520))) = true
    ∧ (up.goose.upStep = 8 ∧ up.goose.downStep = 0) := by decide +kernel

/-- A device in a flush. -/
def flushing (step cause : Nat) (done : Bool) : State :=
  { up with pers := { up.pers with flush := some { step := step, cause := cause, start := 0 }, flushDone := done } }

/-- FlushRuns: each step, each cause at the end, the hold after it. -/
theorem wit_FlushRuns :
    [1, 2, 3, 5, 7, 8, 9].all (fun k => let s := flushing k 1 false
      s.pers.flush.any (fun f => f.step == k && f.cause == 1) && !s.pers.flushDone && s.goose.downStep == 0
        && s.goose.downCause == 0) = true
    ∧ [1, 2, 3, 4].all (fun k => let s := flushing 9 k true
        s.pers.flush.any (fun f => f.cause == k) && s.pers.flushDone && s.goose.downStep == 0 && !s.goose.hold10
          && s.goose.downCause == 0) = true
    ∧ (let s := { (flushing 9 1 true) with goose := { up.goose with hold10 := true } }
       s.pers.flush.isSome && s.goose.hold10 && s.goose.downStep == 0 && s.goose.downCause == 0
         && (List.range 12).all (fun n => (s.rail n).good)) = true := by decide +kernel

/-- PowerDownSteps: each step of the power-down, with the supplies good; a write to the NOR in progress. -/
theorem wit_PowerDownSteps :
    [1, 2, 5, 6, 7, 8].all (fun k => let s := { up with goose := { up.goose with downStep := k, norBusy := decide (k = 7) } }
      s.goose.downStep == k && (List.range 3).all (fun n => (s.rail n).on && (s.rail n).inWin) && s.boot.cold != 2
        && s.goose.norBusy == decide (k = 7)) = true := by decide +kernel

/-! ### Words, frames, invariants -/

/-- ReturnStack: CALL and RET at the ends of the stack. -/
theorem wit_ReturnStack :
    [0, 7, 8].all (fun n => let w := wd 5 9; let s := run w [] up { stack := List.replicate n 3 }
      iss s w && !w.bit 27 && (cx s).stack.length == n) = true
    ∧ [[], [8191]].all (fun l => let w := wd 6; let s := run w [] up { stack := l }; iss s w && (cx s).stack == l) = true := by
  decide +kernel

/-- A word with a step control. -/
def stepped (k : BitVec 4) : SWord := { wd 0x10 0 1 0 0 4 with step := k }

/-- StepControl: each value, without and with posted units; a task with a READY peer of its label; a reserved value. -/
theorem wit_StepControl :
    [0, 1, 2, 3, 4].all (fun k => [[], [oneMove 64]].all (fun l =>
      let s := run (stepped (BitVec.ofNat 4 k)) [0] up { posted := l }
      (s.wordAt 0 0).step.toNat == k && !(cx s).expired && (cx s).house == 0 && (cx s).posted == l)) = true
    ∧ (let s := (run (stepped 4) [0]).putCtx 0 31 { state := 1, label := 0 }
       (s.ctx 0 31).state == 1 && (s.ctx 0 31).label == (cx s).label) = true
    ∧ [5, 15].all (fun k => let s := run (stepped (BitVec.ofNat 4 k)) [0]
        s.canStep 0 0 && (cx s).house == 0 && decide (4 < (s.wordAt 0 0).step.toNat)) = true
    ∧ (Instr.set 0 0 ∈ programSteps 0 0 .ok [] [] [] 0 [] ∧ Instr.resetKind2 0 0 ∈ programSteps 0 0 .ok [] [] [] 0 []) := by decide +kernel

/-- Whether a command answers a next state. -/
def runs (i : Instr) (s : State) : Bool :=
  match exec i s with
  | .next _ => true
  | _ => false

/-- RegisterFrame: ADD and LOOP run, with no ring standing. -/
theorem wit_RegisterFrame :
    (runs (.add 0 0) (run (wd 0x11 0 1 2 0 4) [0, 1, 2]) && runs (.loop 0 0) (run (wd 3 7 1) [0, 2])) = true
      ∧ up.recs.ringQ = none := by decide +kernel

/-- BufferStores: a store of eight bytes at the end of the buffer, a management write of sixteen words. -/
theorem wit_BufferStores :
    (let w := wd 0x18 (3 * 2 ^ 26) 1 2; let s := run w [0, bufOp 0xFFFF8, 0xAB]
     iss s w && memAddr ((cx s).reg 1) w == some (.buf (bufAddr 32 0xFFFF8)) && s.bufCheck 0 (bufAddr 32 0xFFFF8) 8 == Config.OK) = true
    ∧ (up.serves && up.hears 0 4095 && (up.sess 0 0).isOpen && up.bufStatus 0 0 (bufAddr 32 0xFFFC0) 64 == Config.OK) = true := by
  decide +kernel

/-- CsrWritesKeepSetup, OwnerKeyHashStays, BuffersStayCanonical, QueueAndFreeValues: commands that answer a next state, in a state
with a byte in a buffer and burned fuses. -/
theorem wit_Stays :
    (let s := bootFuse (up.bufStore (bufAddr 32 0) [7])
     let t := { s with pending := [.st 0 0 .ok] }
     [Instr.mgtWrite 0 0 4095 true 0 [], .csrWrite 0 0 4095 0x010008 1, .qdTail 0 0 4095 32 1, .qdChead 0 0 4095 32 1,
       .idBootGo 0 0 4095 0, .idBootFuse 0 0 4095, .mgtRead 0 0 4095 false 0 1].all (fun i => runs i s)
       && s.bufWf && s.boot.okhSet && (match step t with | .next _ => true | _ => false)) = true := by decide +kernel

/-! ## Well-formed commands: an ill-formed one for each check -/

/-- A port, a session, a tag and an address past their fields (Table 12-4). -/
theorem test_wf_request :
    [Instr.rd64 4 0 0 0 .ok, .rd64 0 8 0 0 .ok, .rd64 0 0 4096 0 .ok, .rd64 0 0 0 (2 ^ 44) .ok].all (fun i => !i.wf) = true
      ∧ (Instr.rd64 3 7 4095 (2 ^ 44 - 1) .ok).wf = true := by decide +kernel

/-- A management address, a length, a target, an offset, a doorbell, a LEN and a counter past their fields (Tables 12-5, 10-6, 16-7). -/
theorem test_wf_management :
    [Instr.mgtRead 0 0 0 false (2 ^ 40) 1, .mgtRead 0 0 0 false 0 32, .mgtWrite 0 0 0 true 0 (List.replicate 32 0), .mgtOpen 0 0 0 8 true,
      .mgtClose 0 0 0 8, .csrWrite 0 0 0 (2 ^ 24) 0, .qdTail 0 0 0 4096 0, .qdChead 0 0 0 0 65536, .idBootGo 0 0 0 (2 ^ 21),
      .perfCounterRead 0 0 0 256].all (fun i => !i.wf) = true := by decide +kernel

/-- A virtual channel, a credit, a sequence number, a reason past their fields (Table 12-3). -/
theorem test_wf_link :
    [Instr.credit 0 4 1, .credit 0 0 65536, .nak 0 1024, .linkInit 0 true 65536 0 0, .linkInit 0 true 0 65536 0, .linkInit 0 true 0 0 1024,
      .downReceived 0 16, .ackAdvanced 0 1024 0, .trainRetry 4, .creditReturnTimer 0 4, .ntfSend 0 8].all (fun i => !i.wf) = true := by
  decide +kernel

/-- An engine, a context, a queue past their numbers (R293, R301). -/
theorem test_wf_task :
    [Instr.add 16 0, .add 0 32, .taskRun 0 0 4096 0, .muleReport (.ctx 16 0) none .ok, .muleReport (.ctx 0 32) none .ok,
      .muleReport (.page (2 ^ 32)) none .ok,
      .timerExpiry 8, .trigPulseEnd 4, .streamFetchIssue 1024 .ok, .streamFlitRelease 1024].all (fun i => !i.wf) = true := by decide +kernel

/-- A channel, a die, a page, a line, a frame index, a use, a unit, an arbiter, a region past their numbers. -/
theorem test_wf_medium :
    [Instr.dieAlert 16, .dieStatusRecord 0 8 0, .writeBackStart (2 ^ 32) [] [], .mediaReadDecoded (2 ^ 36) (.ok 0), .frameRetire (2 ^ 25) [],
      .integrityFrameClose 0 12, .calibrationDone false 16 true, .arbitrationDecision 0x50, .rgnDropDrainEnd 256,
      .monotoneProgramDone 0 (2 ^ 36) 1 true, .monotoneProgramDone 0 0 0 true, .monotoneProgramDone 0 0 5 true, .nvCompaction 2].all (fun i => !i.wf) = true := by decide +kernel

/-- Straps, rails, samples, a sequencer, a JTAG instruction past their numbers (Tables 16-1, 15-2, 15-5). -/
theorem test_wf_supervision :
    [Instr.strapWindowEnd [0], .railPgChange 12 true 0, .railSenseSample [] 0 0, .railSenseSample (List.replicate 12 0) 65536 0,
      .railSenseSample (List.replicate 12 0) 0 65536, .tempSample [] [], .tempSample (List.replicate 8 0) [], .hsStepTimeout 8,
      .jtagInstruction 6, .vauxRise 65536].all (fun i => !i.wf) = true := by decide +kernel

/-! ## Figures of the spec -/

/-- The words of the move task (Table 11-21): MOVE g0, g1, g2 with SKIP_OK; JMP 0x103; END; ADD g0, g2 with an immediate 0; STEP 0x01. -/
theorem test_words :
    decodeWord 0x2020004400000000 = { wd 0x20 0 0 1 2 with step := 2 } ∧ decodeWord 0x0100000000000103 = wd 0x01 0x103
      ∧ decodeWord 0x0700000000000000 = wd 0x07 ∧ decodeWord 0x1101100000000000 = { wd 0x11 0 2 0 0 0 with imm := true }
      ∧ decodeWord 0x0000000000000001 = wd 0x00 1 := by decide

/-- A word of every field, bit by bit from Table 11-1. -/
theorem test_wordFields :
    decodeWord (0b00110011#8 ++ 0b0100#4 ++ 1#1 ++ 0#1 ++ 1#1 ++ 0#1 ++ 0b10001#5 ++ 0b00010#5 ++ 0b11100#5 ++ 0b00111#5 ++ 0x8000001#28)
      = { opcode := 0x33, step := 4, expert := true, force := false, long := true, imm := false, a := 17, b := 2, c := 28, d := 7
          immf := 0x8000001 } := by decide

/-- A task descriptor's fields: KIND RUN, ENTRY 0x0100, ARG0 to ARG2 of the move task (Table 10-5). -/
theorem test_descriptor :
    let d := taskDesc (BitVec.ofNat 512 (1 + 0x100 * 2 ^ 16 + 0x40000000 * 2 ^ 64 + 0x8000000280000000 * 2 ^ 128 + 0x100000 * 2 ^ 192))
    d.kind = 1 ∧ d.entry = 0x100 ∧ d.reservedOk = true ∧ d.args.take 3 = [0x40000000, 0x8000000280000000, 0x100000]
      ∧ bufAddr 40 0 = 0x280000000 := by decide +kernel

/-- A MOVE that stops after 153,600 bytes with EXHAUSTED leaves 0x258000A in C; one that stops at once leaves 0x0A. -/
theorem test_moveDetail :
    [(153600, 0x258000A), (0, 0x0A)].all (fun k =>
      let w := wd 0x20 0 0 1 2
      ((cx (finishXfer (run w [0, 0, 0]) 0 0 { (oneMove 0x100000) with done := k.1 } 0x0A)).reg 2).toNat == k.2) = true := by
  decide +kernel

/-- The tweak of the line at 0x00040000100, version 5, key 3, DOMAIN 0. -/
theorem test_tweak : (tweakOf (0x00040000100 / 256) 5 3 false).num 0 = 0xA5000000000000003000005000400001 := by decide +kernel

/-- Table 9-4: entries of the BUS loads 85, 317, 226, 24 and of calibration at 730 ns. -/
theorem test_entries : [85, 317, 226, 24, 10, 57].map (fun n => entriesFor n 730) = [30, 112, 80, 9, 4, 20] := by decide

/-- The commitment block of Table 11-22. -/
theorem test_commitBlock :
    let n := 0x0000000201040115
    (bitsOf n 5 0, bitsOf n 9 8, bitsOf n 23 16, bitsOf n 27 24, bitsOf n 36 32) = (0x15, 1, 4, 1, 2) := by decide

/-! ## Single steps, the results by hand from the rules -/

/-- A field of the first context after a command. -/
def after {α : Type} (i : Instr) (s : State) (d : α) (f : Ctx → α) : α :=
  match exec i s with
  | .next t => f (cx t)
  | _ => d

/-- ADD wraps with a carry to zero; D is also a source (Table 11-6). -/
theorem test_add : after (.add 0 0) (run (wd 0x11 0 1 2 0 1) [0, 2 ^ 64 - 1, 1]) (7, 0)
    (fun x => (x.reg 1, (flagsOf x.st).z.toNat + 2 * (flagsOf x.st).n.toNat + 4 * (flagsOf x.st).c.toNat)) = (0, 5) := by
  decide +kernel

/-- CMP of -1 and 1: signed below, not unsigned (Table 11-6). -/
theorem test_cmp : after (.cmp 0 0) (run (wd 0x16 0 1 2) [0, 2 ^ 64 - 1, 1]) 9
    (fun x => (flagsOf x.st).z.toNat + 2 * (flagsOf x.st).n.toNat + 4 * (flagsOf x.st).c.toNat) = 2 := by decide +kernel

/-- LOOP goes to its target while its counter is left, else on. -/
theorem test_loop : [2, 1].map (fun n => after (.loop 0 0) (run (wd 3 7 1) [0, n]) (0, 0) (fun x => (x.reg 1, x.pc)))
    = [(1, 7), (0, 1)] := by decide +kernel

/-- CALL from 8191 pushes 0, and a ninth CALL ends the task with BAD_OPERAND (R296). -/
theorem test_call :
    after (.call 0 0) { (run (wd 5 9) [] up { pc := 8191 }) with
        eng := { (run (wd 5 9) [] up { pc := 8191 }).eng with prog := [(8191, encodeWord (wd 5 9))] } } ([], 0)
      (fun x => (x.stack, x.pc)) = ([0], 9)
    ∧ after (.call 0 0) (run (wd 5 9) [] up { stack := List.replicate 8 1 }) (0, 0) (fun x => (x.state, x.endCode))
      = (5, Config.BAD_OPERAND) := by decide +kernel

/-- LD reads a half-word least significant byte first (R302). -/
theorem test_ld : after (.ld 0 0 .ok) (run (wd 0x17 (2 ^ 26) 1 0 0 4) [0, bufOp 2] (up.bufStore (bufAddr 32 2) [0xCD, 0xAB])) 0
    (fun x => x.reg 4) = 0xABCD := by decide +kernel

/-- A management read of ID_PART is answered with 0x4016A120 (Table 0-4). -/
theorem test_part : (match exec (.mgtRead 0 0 5 false 0 1) up with
    | .next t => (t.port 0).sent.head?.map (·.msg)
    | _ => none) = some (.cpl 3 0 5 0 1 0x4016A120) := by decide +kernel

/-- A register instruction in a context that is not READY changes nothing. -/
theorem test_notReady : (match exec (.add 0 0) up with
    | .next t => decide (t = up)
    | _ => false) = true := by decide +kernel

end Sys2Proof.Tests
end

/-! PROOFS. Management reads of CSR words, and the identity of the part in ID_PART (R11, Table 0-4). -/

namespace Sys2Proof.Proofs

open Sys2Proof Sys2Proof.Machine Sys2Proof.Laws

/-! ## Reading CSR words -/

/-- Every session may read the ID_ window (Table 12-10). -/
theorem csrMay_of_idWindow (s : State) (p n : Nat) {off : Nat} (h : off < 0x010000) : s.csrMay p n off = true := by
  simp [State.csrMay, h]

/-- A read of a word outside the counters has no effect and answers the word's value (R10, R499). -/
theorem csrRead_of_not_counter (s : State) (p n : Nat) {off : Nat} (h : ¬(0x140000 ≤ off ∧ off < 0x140800)) :
    csrRead s p n off = (s, csrValue s off) :=
  if_neg h

/-- A read of one word is a row of reads of length one. -/
theorem csrReads_one (s : State) (p n off : Nat) :
    csrReads s p n off 1 = ((csrRead s p n off).1, [(csrRead s p n off).2]) :=
  rfl

/-- A management read of CSR words that the session may read answers them in ascending order (R373). -/
theorem mgtReadGo_csr {s : State} {p n addr words : Nat} (hwords : words ≤ 16) (haligned : addr % 4 = 0)
    (hmay : (List.range words).all (fun i => s.csrMay p n (addr + 4 * i)) = true) :
    mgtReadGo p n false addr words s
      = { state := (csrReads s p n addr words).1, status := Config.OK, words := (csrReads s p n addr words).2 } := by
  unfold mgtReadGo
  rw [if_neg (by omega), if_neg Bool.false_ne_true, if_pos hmay]

/-- A management read of one word of the ID_ window has no effect and answers the word's value to every session. -/
theorem mgtReadGo_idWindow (s : State) (p n : Nat) {off : Nat} (haligned : off % 4 = 0) (h : off < 0x010000) :
    mgtReadGo p n false off 1 s = { state := s, status := Config.OK, words := [csrValue s off] } := by
  have hmay : (List.range 1).all (fun i => s.csrMay p n (off + 4 * i)) = true := by
    simp [List.range_one, csrMay_of_idWindow s p n h]
  rw [mgtReadGo_csr (by omega) haligned hmay, csrReads_one, csrRead_of_not_counter s p n (by omega)]

/-! ## The identity of the part -/

/-- The word at offset 0 is the identity of Table 0-4 in every state. -/
theorem csrValue_idPart (s : State) : csrValue s 0x000000 = 0x4016A120 := rfl

/-- A management read by an open session completes on VC3 with what the access answers in the state after its arrival. -/
theorem exec_mgtRead_eq {s : State} {p n tag : Nat} (buffer : Bool) (addr words : Nat) (hserves : s.serves = true)
    (hhears : s.hears p tag = true) (hopen : (s.sess p n).isOpen = true) :
    exec (.mgtRead p n tag buffer addr words) s
      = .next (sendCpl (mgtReadGo p n buffer addr words (s.mgtArrived p tag 0)).state p n tag 3
          (mgtReadGo p n buffer addr words (s.mgtArrived p tag 0)).status
          (mgtReadGo p n buffer addr words (s.mgtArrived p tag 0)).words.length
          (wordsLine (mgtReadGo p n buffer addr words (s.mgtArrived p tag 0)).words)) :=
  congrArg Host.Outcome.next (mgt_eq _ hserves hhears hopen)

/-- Settles O49: the read reaches the ID_ window, which every session may read, and the word at offset 0 is a constant. -/
theorem partIdentity : Obligations.PartIdentity := by
  intro s p n tag hserves hhears hopen
  rw [exec_mgtRead_eq false 0x000000 1 hserves hhears hopen, mgtReadGo_idWindow _ p n (by decide) (by decide),
    csrValue_idPart]
  rfl

end Sys2Proof.Proofs

/-! PROOFS. The return stack and step control of a program (R296, R297, Table 10-3). -/

namespace Sys2Proof.Proofs

open Sys2Proof Sys2Proof.Machine Sys2Proof.Laws

/-! ## Step control -/

/-- Where step control sends a context after a status, from the word behind the instruction; none where it ends the task (Table 10-3). -/
def stepTarget (k : BitVec 4) (st nx : Nat) : Option Nat :=
  match k.toNat with
  | 1 => if goodStatus st then some nx else none
  | 2 => some (if st = Config.OK then (nx + 1) % 8192 else nx)
  | 3 => some (if goodStatus st then nx else (nx + 1) % 8192)
  | _ => some nx

/-- The word behind the one a context stands at. -/
def nextPc (s : State) (e c : Nat) : Nat := ((s.ctx e c).pc + wordLen (s.wordAt e c)) % 8192

/-- A context goes on at an address of its program. -/
def goOn (s : State) (e c pc : Nat) : State :=
  s.putCtx e c { s.ctx e c with state := 1, wait := .none, pc := pc, lastPc := (s.ctx e c).pc }

/-- A context whose instruction has set STATUS and COUNT, before step control selects what follows. -/
def withResult (s : State) (e c st cnt : Nat) : State :=
  s.putCtx e c { (s.ctx e c).withStatus st cnt with state := 1, wait := .none }

/-- The statuses that let HALT_ERR and SKIP_ERR go on. -/
theorem goodStatus_iff (st : Nat) : goodStatus st = true ↔ st = Config.OK ∨ st = Config.PARTIAL := by
  simp [goodStatus]

/-- Step control goes on at its target, or ends the task with the status. -/
theorem advance_eq (s : State) (e c st : Nat) :
    advance s e c st = (stepTarget (s.wordAt e c).step st (nextPc s e c)).elim (endTask s e c st true) (goOn s e c) := by
  unfold advance stepTarget
  dsimp only
  generalize (s.wordAt e c).step.toNat = k
  match k with
  | 1 => cases goodStatus st <;> rfl
  | 0 | 2 | 3 | _ + 4 => rfl

/-- The context after its result. -/
theorem ctx_withResult (s : State) (e c st cnt : Nat) :
    (withResult s e c st cnt).ctx e c = { (s.ctx e c).withStatus st cnt with state := 1, wait := .none } :=
  ctx_putCtx_self s e c _

/-- The result of an instruction leaves the word its context stands at. -/
theorem wordAt_withResult (s : State) (e c st cnt : Nat) : (withResult s e c st cnt).wordAt e c = s.wordAt e c := by
  unfold State.wordAt
  rw [ctx_withResult]
  rfl

/-- The result of an instruction leaves the word behind it. -/
theorem nextPc_withResult (s : State) (e c st cnt : Nat) : nextPc (withResult s e c st cnt) e c = nextPc s e c := by
  unfold nextPc
  rw [wordAt_withResult, ctx_withResult]
  rfl

/-- The result of an instruction leaves the posted ones. -/
theorem posted_withResult (s : State) (e c st cnt : Nat) :
    ((withResult s e c st cnt).ctx e c).posted = (s.ctx e c).posted := by
  rw [ctx_withResult]
  rfl

section Complete

variable {s : State} {e c : Nat} (hexp : (s.ctx e c).expired = false) (hhouse : (s.ctx e c).house = 0)
include hexp hhouse

/-- Outside a house routine and within the task's limit, a completed instruction is followed by what step control selects. -/
theorem complete_eq_advance (st cnt : Nat) : complete s e c st cnt = advance (withResult s e c st cnt) e c st := by
  have hlimit : ¬((s.ctx e c).withStatus st cnt).expired = true := by simp [hexp]
  exact (if_neg hlimit).trans (if_pos hhouse)

/-- Where step control has a target, the context is READY there. -/
theorem complete_ctx_of_target {st pc : Nat} (cnt : Nat) (h : stepTarget (s.wordAt e c).step st (nextPc s e c) = some pc) :
    ((complete s e c st cnt).ctx e c).state = 1 ∧ ((complete s e c st cnt).ctx e c).pc = pc := by
  rw [complete_eq_advance hexp hhouse, advance_eq, wordAt_withResult, nextPc_withResult, h, Option.elim_some]
  unfold goOn
  rw [ctx_putCtx_self]
  exact ⟨rfl, rfl⟩

/-- Where step control has no target, the task ends with the status of the instruction. -/
theorem complete_of_no_target {st : Nat} (cnt : Nat) (h : stepTarget (s.wordAt e c).step st (nextPc s e c) = none) :
    complete s e c st cnt = endTask (withResult s e c st cnt) e c st true := by
  rw [complete_eq_advance hexp hhouse, advance_eq, wordAt_withResult, nextPc_withResult, h, Option.elim_none]

end Complete

/-- A forced end of a task without posted units leaves it ENDING with the status. -/
theorem endTask_ctx_of_nil {s : State} {e c : Nat} (st : Nat) (h : (s.ctx e c).posted = []) :
    ((endTask s e c st true).ctx e c).state = 5 ∧ ((endTask s e c st true).ctx e c).endCode = st := by
  unfold endTask
  rw [ctx_updCtx_self, h]
  exact ⟨rfl, rfl⟩

/-- A task with posted units waits for them before it ends. -/
theorem endTask_ctx_of_posted {s : State} {e c : Nat} (st : Nat) (forced : Bool) (h : (s.ctx e c).posted ≠ []) :
    ((endTask s e c st forced).ctx e c).state = 3 ∧ ((endTask s e c st forced).ctx e c).wait = .ended st forced := by
  unfold endTask
  rw [ctx_updCtx_self, if_neg (by simpa using h)]
  exact ⟨rfl, rfl⟩

/-! ## The rotation of an engine -/

/-- Completing keeps every place in the rotation. -/
theorem place_complete (s : State) (e c st cnt f d : Nat) : (complete s e c st cnt).place f d = s.place f d := by
  obtain ⟨x, hx⟩ := ((CtxOnly.refl (e := e) (c := c) (s := s)).complete st cnt).rest
  rw [hx]
  rfl

/-- The places in the rotation count from the context that took the last step. -/
theorem place_took (s : State) (e c d : Nat) : (took s e c).place e d = (d + 31 - c) % 32 := by
  simp [State.place, took, Tbl.getD]

/-- The context that took a step stands behind every other context of its engine (R295). -/
theorem place_took_lt (s : State) (e : Nat) {c d : Nat} (hc : c < 32) (hd : d < 32) (hne : d ≠ c) :
    (took s e c).place e d < (took s e c).place e c := by
  rw [place_took, place_took]
  omega

/-! ## Words that fail check 1 of R328 -/

/-- What a program's command answers: one step at its own words, or that step once the region change under way is over (R332). -/
inductive TakesStep (s : State) (e c : Nat) : Out → Prop
  | plain (mine : SWord → Bool) (body : State → SWord → State) : TakesStep s e c (.next (synStep s e c mine body))
  | region (mine : SWord → Bool) (body : State → SWord → State) :
      TakesStep s e c (.next (if s.rgnMay e c then synStep s e c mine body else s))

/-- Every command of a program takes a step of its context: by its arm of `exec`, the three that change regions (R332) have the
guarded form and every other one the plain form. -/
theorem exec_takesStep (s : State) (e c : Nat) (dram : Dram) (found : List (Nat × Decoded)) (hdrs : List Nat)
    (shifts : List (Nat × Nat)) (us : Nat) (faults : List Nat) :
    ∀ i ∈ programSteps e c dram found hdrs shifts us faults, TakesStep s e c (exec i s) := by
  simp only [programSteps, List.forall_mem_cons, List.not_mem_nil, false_implies, implies_true, and_true]
  and_intros
  all_goals constructor

/-- A word that fails check 1 ends the task, whichever command takes the step. -/
theorem synStep_of_not_formOk {s : State} {e c : Nat} (mine : SWord → Bool) (body : State → SWord → State)
    (hstep : s.canStep e c = true) (hhouse : (s.ctx e c).house = 0) (hform : (s.wordAt e c).formOk (s.ctx e c).pc = false) :
    synStep s e c mine body = endTask (took s e c) e c Config.BAD_OPERAND true := by
  unfold synStep
  rw [if_pos (by simp [hstep, hhouse])]
  dsimp only
  rw [hform, Bool.not_false, if_pos rfl]

/-- A region instruction whose word fails check 1 does not wait for its turn. -/
theorem rgnMay_of_not_formOk {s : State} {e c : Nat} (hform : (s.wordAt e c).formOk (s.ctx e c).pc = false) :
    s.rgnMay e c = true := by
  simp [State.rgnMay, hform]

/-- A program's command at a word that fails check 1 ends the task before it executes (R328). -/
theorem TakesStep.eq_endTask {s : State} {e c : Nat} {o : Out} (h : TakesStep s e c o) (hstep : s.canStep e c = true)
    (hhouse : (s.ctx e c).house = 0) (hform : (s.wordAt e c).formOk (s.ctx e c).pc = false) :
    o = .next (endTask (took s e c) e c Config.BAD_OPERAND true) := by
  cases h with
  | plain mine body => rw [synStep_of_not_formOk mine body hstep hhouse hform]
  | region mine body => rw [if_pos (rgnMay_of_not_formOk hform), synStep_of_not_formOk mine body hstep hhouse hform]

/-- A reserved step control value fails check 1. -/
theorem formOk_of_reserved_step {w : SWord} (pc : Nat) (h : 4 < w.step.toNat) : w.formOk pc = false := by
  unfold SWord.formOk
  rw [decide_eq_false (Nat.not_le.mpr h), Bool.and_false, Bool.false_and]

/-! ## The obligations -/

/-- Settles O52: an issued CALL or RET runs its own part in the counted state, and the part branches on the depth of the stack. -/
theorem returnStack : Obligations.ReturnStack := by
  intro s e c w t x
  have hcall : s.issues e c w 0x05 = true → w.bit 27 = false → exec (.call e c) s = .next (callBody e c t w) := by
    intro hi hb
    exact congrArg Host.Outcome.next (synStep_issues hi (by simp [issues_op hi, hb]))
  have hret : s.issues e c w 0x06 = true → exec (.ret e c) s = .next (retBody e c t w) := by
    intro hi
    exact congrArg Host.Outcome.next (synStep_issues hi (by simp [issues_op hi]))
  refine ⟨rfl, fun hi hb hroom => ?_, fun a rest hi hs => ?_, fun hi hb hfull => ?_, fun hi hs => ?_⟩
  · rw [hcall hi hb]
    exact congrArg Host.Outcome.next (if_neg (Nat.not_le.mpr hroom))
  · rw [hret hi]
    unfold retBody
    rw [show (t.ctx e c).stack = a :: rest from hs]
  · rw [hcall hi hb]
    exact congrArg Host.Outcome.next (if_pos hfull)
  · rw [hret hi]
    unfold retBody
    rw [show (t.ctx e c).stack = [] from hs]

/-- Settles O53: step control is its table of targets, the engine's rotation goes on behind the context that took the step, and a
reserved value fails check 1 of whichever command takes the step. -/
theorem stepControl : Obligations.StepControl := by
  intro s e c st cnt us dram found hdrs shifts faults x k nx y z fine
  have hfine : goodStatus st = true ↔ fine := goodStatus_iff st
  refine ⟨fun hexp hhouse => ?_, fun hstep hhouse hres i hi => ?_⟩
  · have goes : ∀ {pc}, stepTarget k st nx = some pc → y.state = 1 ∧ y.pc = pc := complete_ctx_of_target hexp hhouse cnt
    have halts : k = 1 → ¬fine → y = (endTask (withResult s e c st cnt) e c st true).ctx e c := fun hk hf =>
      congrArg (State.ctx · e c) (complete_of_no_target hexp hhouse cnt
        (show stepTarget k st nx = none by simp [stepTarget, hk, hfine, hf]))
    refine ⟨fun hk => ?_, fun hk hf => ?_, fun hk hf hp => ?_, fun hk hf hp => ?_, fun hk => ?_, fun hk hf => ?_,
      fun hk hf => ?_, fun hk => ?_⟩
    · exact goes (by simp [stepTarget, hk])
    · exact goes (by simp [stepTarget, hk, hfine, hf])
    · rw [halts hk hf]
      exact endTask_ctx_of_nil st (by rw [posted_withResult]; exact hp)
    · rw [halts hk hf]
      exact endTask_ctx_of_posted st true (by rw [posted_withResult]; exact hp)
    · exact goes (by simp [stepTarget, hk])
    · exact goes (by simp [stepTarget, hk, hfine, hf])
    · exact goes (by simp [stepTarget, hk, hfine, hf])
    · obtain ⟨hstate, hpc⟩ := goes (pc := nx) (by simp [stepTarget, hk])
      refine ⟨hstate, hpc, fun d hc hd hne => ?_⟩
      rw [place_complete, place_complete]
      exact place_took_lt s e hc hd hne
  · exact (exec_takesStep s e c dram found hdrs shifts us faults i hi).eq_endTask hstep hhouse
      (formOk_of_reserved_step _ hres)

end Sys2Proof.Proofs

/-! PROOFS. The queue of commands, what every step keeps, the encoding of a Syned word, the fuses of the owner key hash, registers
after reset. -/

namespace Sys2Proof.Proofs

open Sys2Proof Sys2Proof.Machine Sys2Proof.Laws

/-! ## The queue of commands -/

/-- Settles O1: the front command is taken off the queue, and the rest of the queue is what stood behind it. -/
theorem stepRunsFrontCommand : Obligations.StepRunsFrontCommand :=
  fun _ _ => rfl

/-- Settles O2: an empty queue is the other branch of a step. -/
theorem emptyQueueIdles : Obligations.EmptyQueueIdles := by
  intro s h
  unfold step
  rw [h]

/-! ## What every command keeps -/

/-- Every command answers a state, which keeps the queue, a burned owner key hash, the buffers' canonical form and the order of free
values. -/
theorem exec_keeps {z s : State} (h : Keeps z s) (i : Instr) : ∃ t, exec i s = .next t ∧ Keeps z t := by
  cases i with
  | rd64 => exact keeps_execRd64 h ..
  | rd256 => exact keeps_execRd256 h ..
  | wr64 => exact keeps_execWr64 h ..
  | wr256 => exact keeps_execWr256 h ..
  | wrp => exact keeps_execWrp h ..
  | acc => exact keeps_execAcc h ..
  | mgtRead => exact keeps_execMgtRead h ..
  | mgtWrite => exact keeps_execMgtWrite h ..
  | mgtOpen => exact keeps_execMgtOpen h ..
  | mgtClose => exact keeps_execMgtClose h ..
  | protocolError => exact keeps_execProtocolError h ..
  | badFlit => exact keeps_execBadFlit h ..
  | credit => exact keeps_execCredit h ..
  | nak => exact keeps_execNak h ..
  | linkInit => exact keeps_execLinkInit h ..
  | trainDetected => exact keeps_execTrainDetected h ..
  | downReceived => exact keeps_execDownReceived h ..
  | nakRepeat => exact keeps_execNakRepeat h ..
  | replayTimeout => exact keeps_execReplayTimeout h ..
  | creditReturnTimer => exact keeps_execCreditReturnTimer h ..
  | skipSend => exact keeps_execSkipSend h ..
  | keepWindowExpiry => exact keeps_execKeepWindowExpiry h ..
  | trainingPhaseDone => exact keeps_execTrainingPhaseDone h ..
  | trainingPhaseTimeout => exact keeps_execTrainingPhaseTimeout h ..
  | trainRetry => exact keeps_execTrainRetry h ..
  | tokenRefill => exact keeps_execTokenRefill h
  | ntfSend => exact keeps_execNtfSend h ..
  | taskRun => exact keeps_execTaskRun h ..
  | hcall => exact keeps_execHcall h ..
  | qopen => exact keeps_execQopen h ..
  | qclose => exact keeps_execQclose h ..
  | pload => exact keeps_execPload h ..
  | completionWrite => exact keeps_execCompletionWrite h ..
  | step => exact keeps_execStep h ..
  | jmp => exact keeps_execJmp h ..
  | br => exact keeps_execBr h ..
  | loop => exact keeps_execLoop h ..
  | waitTimer => exact keeps_execWaitTimer h ..
  | waitNotify => exact keeps_execWaitNotify h ..
  | call => exact keeps_execCall h ..
  | callHouse => exact keeps_execCallHouse h ..
  | ret => exact keeps_execRet h ..
  | endTask => exact keeps_execEndTask h ..
  | yield => exact keeps_execYield h ..
  | set => exact keeps_execSet h ..
  | add => exact keeps_execAdd h ..
  | and => exact keeps_execAnd h ..
  | or => exact keeps_execOr h ..
  | xor => exact keeps_execXor h ..
  | shf => exact keeps_execShf h ..
  | cmp => exact keeps_execCmp h ..
  | ld => exact keeps_execLd h ..
  | st => exact keeps_execSt h ..
  | move => exact keeps_execMove h ..
  | copy => exact keeps_execCopy h ..
  | fill => exact keeps_execFill h ..
  | fence => exact keeps_execFence h ..
  | postedUnitDone => exact keeps_execPostedUnitDone h ..
  | strmDef => exact keeps_execStrmDef h ..
  | strmGo => exact keeps_execStrmGo h ..
  | strmStop => exact keeps_execStrmStop h ..
  | strmStopDrop => exact keeps_execStrmStopDrop h ..
  | strmStat => exact keeps_execStrmStat h ..
  | rgnDef => exact keeps_execRgnDef h ..
  | rgnAttr => exact keeps_execRgnAttr h ..
  | rgnDrop => exact keeps_execRgnDrop h ..
  | rgnDropDrainEnd => exact keeps_execRgnDropDrainEnd h ..
  | mapTrim => exact keeps_execMapTrim h ..
  | mapTrimPoison => exact keeps_execMapTrimPoison h ..
  | mapQuery => exact keeps_execMapQuery h ..
  | ckpt => exact keeps_execCkpt h ..
  | cacheOn => exact keeps_execCacheOn h ..
  | cacheOnForce => exact keeps_execCacheOnForce h ..
  | cacheOff => exact keeps_execCacheOff h ..
  | cacheOffForce => exact keeps_execCacheOffForce h ..
  | cacheWays => exact keeps_execCacheWays h ..
  | cacheFlush => exact keeps_execCacheFlush h ..
  | cacheClean => exact keeps_execCacheClean h ..
  | cacheInval => exact keeps_execCacheInval h ..
  | cacheZero => exact keeps_execCacheZero h ..
  | scrubRange => exact keeps_execScrubRange h ..
  | scrubRate => exact keeps_execScrubRate h ..
  | mediaRawrd => exact keeps_execMediaRawrd h ..
  | mediaRawwr => exact keeps_execMediaRawwr h ..
  | mediaRetire => exact keeps_execMediaRetire h ..
  | calRun => exact keeps_execCalRun h ..
  | lblSet => exact keeps_execLblSet h ..
  | lblSetLimit => exact keeps_execLblSetLimit h ..
  | ledgAdmit => exact keeps_execLedgAdmit h ..
  | ledgDrop => exact keeps_execLedgDrop h ..
  | ledgQuery => exact keeps_execLedgQuery h ..
  | slotLoad => exact keeps_execSlotLoad h ..
  | slotSwap => exact keeps_execSlotSwap h ..
  | arbCfg => exact keeps_execArbCfg h ..
  | arbRead => exact keeps_execArbRead h ..
  | keyLoad => exact keeps_execKeyLoad h ..
  | keyRetire => exact keeps_execKeyRetire h ..
  | keyQuery => exact keeps_execKeyQuery h ..
  | xtsEnc => exact keeps_execXtsEnc h ..
  | xtsDec => exact keeps_execXtsDec h ..
  | claim => exact keeps_execClaim h ..
  | claimForce => exact keeps_execClaimForce h ..
  | free => exact keeps_execFree h ..
  | railCfg => exact keeps_execRailCfg h ..
  | thermCfg => exact keeps_execThermCfg h ..
  | evtRead => exact keeps_execEvtRead h ..
  | evtReadSnap => exact keeps_execEvtReadSnap h ..
  | perfCfg => exact keeps_execPerfCfg h ..
  | perfDump => exact keeps_execPerfDump h ..
  | nvPut => exact keeps_execNvPut h ..
  | nvGet => exact keeps_execNvGet h ..
  | resetKind0 => exact keeps_execResetKind0 h ..
  | resetKind1 => exact keeps_execResetKind1 h ..
  | resetKind2 => exact keeps_execResetKind2 h ..
  | hInit => exact keeps_execHInit h ..
  | hFormat => exact keeps_execHFormat h ..
  | hFlushAll => exact keeps_execHFlushAll h ..
  | hScrubRange => exact keeps_execHScrubRange h ..
  | hSecureErase => exact keeps_execHSecureErase h ..
  | hKeyRoll => exact keeps_execHKeyRoll h ..
  | hRekey => exact keeps_execHRekey h ..
  | hStreamLoop => exact keeps_execHStreamLoop h ..
  | hRebuild => exact keeps_execHRebuild h ..
  | qdTail => exact keeps_execQdTail h ..
  | qdChead => exact keeps_execQdChead h ..
  | idBootGo => exact keeps_execIdBootGo h ..
  | idBootFuse => exact keeps_execIdBootFuse h ..
  | perfCounterRead => exact keeps_execPerfCounterRead h ..
  | csrWrite => exact keeps_execCsrWrite h ..
  | smbStatus => exact keeps_execSmbStatus h
  | smbTemps => exact keeps_execSmbTemps h
  | smbAlertClr => exact keeps_execSmbAlertClr h
  | smbRestart => exact keeps_execSmbRestart h ..
  | smbAlertResponse => exact keeps_execSmbAlertResponse h
  | pfailNFall => exact keeps_execPfailNFall h
  | vinSnsLow => exact keeps_execVinSnsLow h ..
  | resetNLow => exact keeps_execResetNLow h
  | resetNRise => exact keeps_execResetNRise h
  | strapWindowEnd => exact keeps_execStrapWindowEnd h ..
  | vauxCollapse => exact keeps_execVauxCollapse h ..
  | vauxRise => exact keeps_execVauxRise h ..
  | powerUpStart => exact keeps_execPowerUpStart h ..
  | powerUpStep => exact keeps_execPowerUpStep h
  | railEnableTimeout => exact keeps_execRailEnableTimeout h ..
  | railPgChange => exact keeps_execRailPgChange h ..
  | railSenseSample => exact keeps_execRailSenseSample h ..
  | railRetryExpiry => exact keeps_execRailRetryExpiry h ..
  | railIncidentEnd => exact keeps_execRailIncidentEnd h ..
  | flushStepDone => exact keeps_execFlushStepDone h ..
  | flushComplete => exact keeps_execFlushComplete h ..
  | flushRestartDelay => exact keeps_execFlushRestartDelay h ..
  | resetFlushTimeout => exact keeps_execResetFlushTimeout h
  | powerDown => exact keeps_execPowerDown h
  | powerDownStep => exact keeps_execPowerDownStep h ..
  | norWriteAbandon => exact keeps_execNorWriteAbandon h
  | tempSample => exact keeps_execTempSample h ..
  | orderlyStopDrainEnd => exact keeps_execOrderlyStopDrainEnd h
  | thermalRestart => exact keeps_execThermalRestart h
  | keepaliveMissing => exact keeps_execKeepaliveMissing h
  | hsStepTimeout => exact keeps_execHsStepTimeout h ..
  | flushStall => exact keeps_execFlushStall h
  | jtagInstruction => exact keeps_execJtagInstruction h ..
  | jtagTapReset => exact keeps_execJtagTapReset h
  | startPhaseDone => exact keeps_execStartPhaseDone h ..
  | rebuildStepDone => exact keeps_execRebuildStepDone h ..
  | restoredLinesSealed => exact keeps_execRestoredLinesSealed h ..
  | muleReport => exact keeps_execMuleReport h ..
  | mediaReadDecoded => exact keeps_execMediaReadDecoded h ..
  | reReadDone => exact keeps_execReReadDone h ..
  | fillComplete => exact keeps_execFillComplete h ..
  | laneProtectedRunEnd => exact keeps_execLaneProtectedRunEnd h ..
  | dieAlert => exact keeps_execDieAlert h ..
  | dieStatusRecord => exact keeps_execDieStatusRecord h ..
  | wbbEntryFreed => exact keeps_execWbbEntryFreed h
  | writeBackStart => exact keeps_execWriteBackStart h ..
  | pageCopyProgrammed => exact keeps_execPageCopyProgrammed h ..
  | journalRecordStart => exact keeps_execJournalRecordStart h
  | journalBodyVerified => exact keeps_execJournalBodyVerified h ..
  | sealVerified => exact keeps_execSealVerified h ..
  | monotoneProgramDone => exact keeps_execMonotoneProgramDone h ..
  | migrationStart => exact keeps_execMigrationStart h ..
  | reclaimStart => exact keeps_execReclaimStart h ..
  | frameClearStart => exact keeps_execFrameClearStart h ..
  | clearDone => exact keeps_execClearDone h ..
  | treeRebuilt => exact keeps_execTreeRebuilt h ..
  | integrityFrameClose => exact keeps_execIntegrityFrameClose h ..
  | frameRetire => exact keeps_execFrameRetire h ..
  | ledgerRevalidate => exact keeps_execLedgerRevalidate h
  | scrubPassStart => exact keeps_execScrubPassStart h ..
  | relocationStart => exact keeps_execRelocationStart h ..
  | patchFrameMove => exact keeps_execPatchFrameMove h ..
  | patchRepairCheck => exact keeps_execPatchRepairCheck h ..
  | operatingSecond => exact keeps_execOperatingSecond h ..
  | stampTableAppend => exact keeps_execStampTableAppend h
  | checkpointStart => exact keeps_execCheckpointStart h
  | checkpointSealVerified => exact keeps_execCheckpointSealVerified h
  | rekeyBatch => exact keeps_execRekeyBatch h ..
  | rekeyComplete => exact keeps_execRekeyComplete h
  | dieDirectoryRebuild => exact keeps_execDieDirectoryRebuild h ..
  | mapEntryRecovery => exact keeps_execMapEntryRecovery h ..
  | calibrationStart => exact keeps_execCalibrationStart h
  | periodicCalibration => exact keeps_execPeriodicCalibration h
  | calibrationDone => exact keeps_execCalibrationDone h ..
  | streamFetchIssue => exact keeps_execStreamFetchIssue h ..
  | streamFlitRelease => exact keeps_execStreamFlitRelease h ..
  | slotEntryElapse => exact keeps_execSlotEntryElapse h ..
  | arbitrationDecision => exact keeps_execArbitrationDecision h ..
  | timerExpiry => exact keeps_execTimerExpiry h ..
  | limitMsExpiry => exact keeps_execLimitMsExpiry h ..
  | contextStallRecord => exact keeps_execContextStallRecord h ..
  | creditWaitRecord => exact keeps_execCreditWaitRecord h ..
  | periodicDump => exact keeps_execPeriodicDump h
  | nvCompaction => exact keeps_execNvCompaction h ..
  | trigPulseEnd => exact keeps_execTrigPulseEnd h ..
  | smbNack => exact keeps_execSmbNack h ..
  | ackAdvanced => exact keeps_execAckAdvanced h ..

/-- What a command answers keeps what every command keeps. -/
theorem keeps_of_exec {i : Instr} {s t : State} (h : exec i s = .next t) : Keeps s t := by
  obtain ⟨u, hu, hk⟩ := exec_keeps (.refl s) i
  cases hu.symm.trans h
  exact hk

/-- What a step answers is its state, or what the front command makes of the state with the rest of the queue. -/
theorem step_cases {s t : State} (h : step s = .next t) :
    t = s ∨ ∃ i rest, exec i { s with pending := rest } = .next t := by
  unfold step at h
  split at h
  · exact .inl (by cases h; rfl)
  · exact .inr ⟨_, _, h⟩

/-- A step keeps a burned owner key hash and the buffers' canonical form: taking the command off the queue touches neither. -/
theorem step_keeps {s t : State} (h : step s = .next t) :
    (s.boot.okhSet = true → t.okhFuses = s.okhFuses) ∧ (s.bufWf = true → t.bufWf = true) := by
  obtain rfl | ⟨i, rest, hi⟩ := step_cases h
  · exact ⟨fun _ => rfl, id⟩
  · have hk := keeps_of_exec hi
    refine ⟨fun hset => ?_, hk.canon⟩
    obtain ⟨hset', hokh⟩ := hk.fuses hset
    exact Prod.ext (hset'.trans hset.symm) hokh

/-- Settles O57: every command keeps a burned owner key hash. -/
theorem ownerKeyHashStays : Obligations.OwnerKeyHashStays :=
  fun _ _ hset h => (step_keeps h).1 hset

/-- Settles O58: every command keeps the canonical form. -/
theorem buffersStayCanonical : Obligations.BuffersStayCanonical :=
  fun _ _ hwf h => (step_keeps h).2 hwf

/-- Settles O59: every command keeps the queue and takes free values onward. -/
theorem queueAndFreeValues : Obligations.QueueAndFreeValues :=
  fun _ _ _ h => ⟨(keeps_of_exec h).queue, (keeps_of_exec h).onward⟩

/-! ## The encoding of a Syned word (Table 11-1) -/

/-- Equal rows of bits, cut at one place, have equal parts. -/
theorem append_inj {m n : Nat} {x y : BitVec m} {u v : BitVec n} (h : x ++ u = y ++ v) : x = y ∧ u = v := by
  constructor
  · rw [← BitVec.extractLsb'_append_eq_left (a := x) (b := u), h, BitVec.extractLsb'_append_eq_left]
  · rw [← BitVec.extractLsb'_append_eq_right (a := x) (b := u), h, BitVec.extractLsb'_append_eq_right]

/-- A row of one bit is its bit. -/
theorem ofBool_injective : Function.Injective BitVec.ofBool := fun a b =>
  (by decide : ∀ a b : Bool, BitVec.ofBool a = BitVec.ofBool b → a = b) a b

/-- Words of different fields differ: the fields stand side by side. -/
theorem encodeWord_injective : Function.Injective encodeWord := by
  intro i j h
  unfold encodeWord at h
  obtain ⟨h, himmf⟩ := append_inj h
  obtain ⟨h, hd⟩ := append_inj h
  obtain ⟨h, hc⟩ := append_inj h
  obtain ⟨h, hb⟩ := append_inj h
  obtain ⟨h, ha⟩ := append_inj h
  obtain ⟨h, himm⟩ := append_inj h
  obtain ⟨h, hlong⟩ := append_inj h
  obtain ⟨h, hforce⟩ := append_inj h
  obtain ⟨h, hexpert⟩ := append_inj h
  obtain ⟨hopcode, hstep⟩ := append_inj h
  cases i
  cases j
  simp only [SWord.mk.injEq]
  exact ⟨hopcode, hstep, ofBool_injective hexpert, ofBool_injective hforce, ofBool_injective hlong, ofBool_injective himm, ha, hb,
    hc, hd, himmf⟩

/-- A bit of a word is its field of one bit. -/
theorem ofBool_getLsbD (w : W64) (n : Nat) : BitVec.ofBool (w.getLsbD n) = w.extractLsb' n 1 := by
  refine BitVec.eq_of_getLsbD_eq (fun i hi => ?_)
  obtain rfl : i = 0 := by omega
  simp

/-- Neighbouring fields of a word join to one field, and the field of every bit is the word. -/
theorem encodeWord_decodeWord (w : W64) : encodeWord (decodeWord w) = w := by
  have join (k m n : Nat) : w.extractLsb' (k + m) n ++ w.extractLsb' k m = w.extractLsb' k (n + m) :=
    BitVec.extractLsb'_append_extractLsb'_eq_extractLsb' rfl
  simp only [encodeWord, decodeWord, ofBool_getLsbD]
  rw [join 52 4, join 51 1, join 50 1, join 49 1, join 48 1, join 43 5, join 38 5, join 33 5, join 28 5, join 0 28]
  exact BitVec.extractLsb'_eq_self

/-- Settles O51: writing what was read gives the word, and so reading what was written gives fields that are written the same. -/
theorem wordsRoundTrip : Obligations.WordsRoundTrip :=
  ⟨fun i => encodeWord_injective (encodeWord_decodeWord (encodeWord i)), encodeWord_decodeWord⟩

/-! ## The owner key hash (R481) -/

/-- An occurrence in the recorder keeps the boot state. -/
@[simp] theorem boot_record (s : State) (cls detail : Nat) : (record s cls detail).boot = s.boot := by
  obtain ⟨-, h⟩ | ⟨-, f, h⟩ := record_cases s cls detail
  · rw [h]; rfl
  · rw [h]; rfl

/-- Settles O15: FUSE and a write of a word of ID_OKH branch on OKH_SET. -/
theorem ownerKeyHashBurnedOnce : Obligations.OwnerKeyHashBurnedOnce := by
  intro s i v
  refine ⟨fun h => ?_, fun h => ⟨?_, ?_⟩⟩
  · unfold bootFuse
    rw [if_neg (by simp [h]), boot_record]
    exact ⟨rfl, rfl⟩
  · exact if_pos h
  · exact if_pos h

/-! ## Registers after reset -/

/-- A doorbell of a queue that is not open reads zero (Table 10-6). -/
theorem csrValue_doorbell_of_closed {s : State} {off : Nat} (h : 0x100000 ≤ off) (h' : off < 0x110000)
    (hq : s.queue ((off - 0x100000) / 8) = none) : csrValue s off = 0 := by
  unfold csrValue
  rw [if_neg (by omega), if_neg (by omega), if_neg (by omega), if_neg (by omega), if_neg (by omega), if_neg (by omega),
    if_neg (by omega), if_pos h']
  unfold qdRead
  rw [hq]

/-- Settles O50: each register is computed from the state after reset; no queue is open, so every doorbell reads zero. -/
theorem resetRegisters : Obligations.ResetRegisters := by
  unfold Obligations.ResetRegisters
  refine ⟨by decide +kernel, by decide +kernel, by decide +kernel, by decide +kernel, by decide +kernel, fun q hq => ⟨?_, ?_⟩,
    rfl, rfl⟩
  · exact csrValue_doorbell_of_closed (by omega) (by omega) rfl
  · exact csrValue_doorbell_of_closed (by omega) (by omega) rfl

end Sys2Proof.Proofs

/-! PROOFS. No management access changes the configuration of R25. -/

namespace Sys2Proof.Proofs

open Sys2Proof Sys2Proof.Machine Sys2Proof.Laws

/-! ## What reads and writes of CSR words leave of the configuration -/

/-- A change of a port keeps the configuration. -/
@[simp] theorem setup_updPort (s : State) (p : Nat) (f : Port → Port) : (s.updPort p f).setup = s.setup := rfl

/-- A completion keeps the configuration. -/
@[simp] theorem setup_sendCpl (s : State) (p n tag vc st len : Nat) (d : Line) : (sendCpl s p n tag vc st len d).setup = s.setup := rfl

/-- A change of the boot state keeps the configuration. -/
theorem setup_withBoot (s : State) (b : Boot) : ({ s with boot := b } : State).setup = s.setup := rfl

/-- A write of ID_OKH keeps the configuration. -/
@[simp] theorem setup_okhWrite (s : State) (i v : Nat) : (okhWrite s i v).setup = s.setup := by
  unfold okhWrite
  dsimp only
  split
  · rfl
  · exact setup_withBoot _ _

/-- A write of one CSR word keeps the configuration: FUSE, GO and a write outside every range by their own lemmas, every other range by
its field. -/
@[simp] theorem setup_csrPut (s : State) (p off : Nat) (v : W32) : (csrPut s p off v).setup = s.setup := by
  have fuse : (if bitOf v.toNat 30 then bootFuse s else s).setup = s.setup := by
    split
    · exact setup_bootFuse s
    · rfl
  unfold csrPut
  dsimp only
  split
  · split
    · exact (setup_bootGo _ _).trans fuse
    · exact fuse
  split
  · rfl
  split
  · exact setup_okhWrite _ _ _
  split
  · rfl
  split
  · rfl
  split
  · rfl
  split
  · exact setup_record _ _ _
  · rfl

/-- A write of CSR words keeps the configuration. -/
@[simp] theorem setup_csrPuts (s : State) (p off : Nat) (ws : List W32) : (csrPuts s p off ws).setup = s.setup := by
  induction ws generalizing s off with
  | nil => rfl
  | cons v ws ih => exact (ih _ _).trans (setup_csrPut s p off v)

/-- A read of one CSR word keeps the configuration: it changes at most the session's latch. -/
@[simp] theorem setup_csrRead (s : State) (p n off : Nat) : (csrRead s p n off).1.setup = s.setup := by
  unfold csrRead
  split
  · split <;> rfl
  · rfl

/-- A read of CSR words keeps the configuration. -/
@[simp] theorem setup_csrReads (s : State) (p n off k : Nat) : (csrReads s p n off k).1.setup = s.setup := by
  induction k generalizing s off with
  | zero => rfl
  | succ k ih => exact (ih _ _).trans (setup_csrRead s p n off)

/-! ## Management transactions -/

/-- What a management write does keeps the configuration. -/
theorem setup_mgtWriteGo (p n : Nat) (buffer : Bool) (addr : Nat) (ws : List W32) (s : State) :
    (mgtWriteGo p n buffer addr ws s).state.setup = s.setup := by
  unfold mgtWriteGo
  split
  · rfl
  split
  · dsimp only
    split <;> rfl
  · dsimp only
    split
    · exact setup_csrPuts _ _ _ _
    · rfl

/-- What a management read does keeps the configuration. -/
theorem setup_mgtReadGo (p n : Nat) (buffer : Bool) (addr words : Nat) (s : State) :
    (mgtReadGo p n buffer addr words s).state.setup = s.setup := by
  unfold mgtReadGo
  split
  · rfl
  split
  · rfl
  split
  · exact setup_csrReads _ _ _ _ _
  · rfl

/-- A management transaction keeps the configuration where what it does keeps it: its flits, its tag and its completion change a port. -/
theorem setup_mgt (s : State) (p n tag words : Nat) {go : State → MgtAns} (h : ∀ u, (go u).state.setup = u.setup) :
    (mgt s p n tag words go).setup = s.setup := by
  unfold mgt
  dsimp only
  split
  · split
    · exact setup_record _ _ _
    · rw [setup_sendCpl]
      split
      · exact h _
      · rfl
  · rfl

/-- Settles O56: every one of these commands is a management read or write. -/
theorem csrWritesKeepSetup : Obligations.CsrWritesKeepSetup := by
  intro s t p n tag off words q v buffer w ws
  have writes : ∀ {k addr b l}, .next (mgt s p n tag k (mgtWriteGo p n b addr l)) = (.next t : Out) → t.setup = s.setup := by
    intro k addr b l h
    cases h
    exact setup_mgt s p n tag k (setup_mgtWriteGo p n b addr l)
  refine ⟨writes, writes, writes, writes, writes, writes, fun h => ?_⟩
  cases h
  exact setup_mgt s p n tag 0 (setup_mgtReadGo p n buffer off words)

end Sys2Proof.Proofs

/-! PROOFS. The register, flow, wait, load and store instructions of a program (Tables 11-4 to 11-6). -/

namespace Sys2Proof.Proofs

open Sys2Proof Sys2Proof.Machine Sys2Proof.Laws

/-! ## An issued instruction -/

/-- A command whose meaning is a program step answers, at an issued word that is its own, what its own part makes of the counted
state. -/
theorem exec_issued {s t : State} {e c op : Nat} {w : SWord} {i : Instr} {mine : SWord → Bool} {body : State → SWord → State}
    (hi : s.issues e c w op = true) (hm : mine w = true) (hx : exec i s = .next (synStep s e c mine body))
    (ht : body (s.issued e c) w = t) : exec i s = .next t :=
  hx.trans (congrArg Host.Outcome.next ((synStep_issues hi hm).trans ht))

/-- The same where the word is the command's own by its opcode alone. -/
theorem exec_issued_op {s t : State} {e c op : Nat} {w : SWord} {i : Instr} {body : State → SWord → State}
    (hi : s.issues e c w op = true) (hx : exec i s = .next (synStep s e c (fun w => w.op == op) body))
    (ht : body (s.issued e c) w = t) : exec i s = .next t :=
  exec_issued hi (by simp [issues_op hi]) hx ht

/-- A word that is a command's own by its opcode and an option. -/
theorem op_and_option {s : State} {e c op : Nat} {w : SWord} (hi : s.issues e c w op = true) {b : Bool} (hb : b = true) :
    (w.op == op && b) = true := by
  simp [issues_op hi, hb]

/-- A context that issues is one of its engine's 32. -/
theorem issues_context {s : State} {e c op : Nat} {w : SWord} (hi : s.issues e c w op = true) : c < 32 := by
  simp only [State.issues, State.canStep, Bool.and_eq_true, decide_eq_true_eq] at hi
  omega

/-! ## Register instructions -/

/-- Two changes of a context that agree on that context are one. -/
theorem updCtx_congr {s : State} {e c : Nat} {f g : Ctx → Ctx} (h : f (s.ctx e c) = g (s.ctx e c)) : s.updCtx e c f = s.updCtx e c g :=
  congrArg (s.putCtx e c) h

/-- CMP compares the registers as they stand. -/
theorem cmpBody_eq (s : State) (e c : Nat) (w : SWord) :
    cmpBody e c s w = complete (s.updCtx e c (fun y => y.withFlags ⟨(s.ctx e c).reg w.a == s.opX e c w,
      ((s.ctx e c).reg w.a).slt (s.opX e c w), ((s.ctx e c).reg w.a).ult (s.opX e c w)⟩)) e c Config.OK 0 := by
  exact congrArg (complete · e c Config.OK 0) (updCtx_congr rfl)

/-- Settles O3: at an issued word each register instruction runs its own part, with the result and the flags of its function. -/
theorem registerResults : Obligations.RegisterResults := by
  intro s e c w
  exact ⟨(exec_issued_op · rfl rfl), (exec_issued_op · rfl rfl), (exec_issued_op · rfl rfl), (exec_issued_op · rfl rfl),
    (exec_issued_op · rfl rfl), (exec_issued_op · rfl rfl), (exec_issued_op · rfl (cmpBody_eq _ e c w))⟩

/-! ## The rotation of an engine -/

@[simp] theorem lastStep_bufStore (s : State) (a : Nat) (l : List Byte) : (s.bufStore a l).eng.lastStep = s.eng.lastStep := by
  cases s; rfl
@[simp] theorem lastStep_onRecs (s : State) (f : Records → Records) : (s.onRecs f).eng.lastStep = s.eng.lastStep := by
  cases s; rfl
@[simp] theorem lastStep_burn (s : State) (n : Nat) : (s.burn n).eng.lastStep = s.eng.lastStep := by
  cases s; rfl
@[simp] theorem lastStep_trigHigh (s : State) (b : Nat) : (trigHigh s b).eng.lastStep = s.eng.lastStep := by
  cases s; rfl

/-- Records put in the ring keep the rotation of every engine. -/
@[simp] theorem lastStep_ringPut (s : State) (q kind units : Nat) (body : List Byte) :
    (ringPut s q kind units body).eng.lastStep = s.eng.lastStep := by
  unfold ringPut
  cases s.queue q with
  | none => rfl
  | some x =>
    dsimp only
    cases x.ring with
    | none => rfl
    | some r =>
      dsimp only
      repeat' split
      all_goals simp

/-- A sample record keeps the rotation of every engine. -/
@[simp] theorem lastStep_sampleRecord (s : State) (kind : Nat) : (sampleRecord s kind).eng.lastStep = s.eng.lastStep := by
  unfold sampleRecord
  split <;> simp

/-- Counting an event keeps the rotation of every engine. -/
@[simp] theorem lastStep_countTag (s : State) (ev unit : Nat) (label : Option Nat) (n : Nat) :
    (countTag s ev unit label n).1.eng.lastStep = s.eng.lastStep := by
  unfold countTag
  dsimp only
  repeat' split
  all_goals simp

/-- The same of `count`. -/
@[simp] theorem lastStep_count (s : State) (ev unit : Nat) (label : Option Nat) (n : Nat) :
    (count s ev unit label n).eng.lastStep = s.eng.lastStep := by
  unfold count
  dsimp only
  split <;> simp

/-- Issuing an instruction counts its places in the rotation from the context that takes the step. -/
theorem place_issued (s : State) (e c d : Nat) : (s.issued e c).place e d = (took s e c).place e d := by
  unfold State.place State.issued
  rw [lastStep_count]

/-! ## Flow instructions -/

/-- Settles O4: at an issued word each flow instruction runs its own part, and the part branches on what the clause says; the context
that took the step stands last in the rotation (R295). -/
theorem flowResults : Obligations.FlowResults := by
  intro s e c w
  refine ⟨fun hi h => exec_issued_op hi rfl (if_pos h), fun hi h => exec_issued_op hi rfl (if_neg (Nat.not_le.mpr h)),
    fun hi => exec_issued_op hi rfl rfl, fun hi h => exec_issued_op hi rfl ?_, fun hi h => exec_issued_op hi rfl ?_,
    fun hi h => exec_issued_op hi rfl ?_, fun hi h => exec_issued_op hi rfl (if_neg h),
    fun hi h => exec_issued_op hi rfl (if_pos h),
    fun hi hb h => exec_issued hi (op_and_option hi (by simp [hb])) rfl (if_neg (Nat.not_le.mpr h)), fun hi hb => ?_,
    fun a rest hi h => exec_issued_op hi rfl ?_, fun hi => exec_issued_op hi rfl rfl,
    fun hi => ⟨exec_issued_op hi rfl rfl, fun d hd hne => ?_⟩⟩
  case refine_4 =>
    have house {t} := exec_issued (t := t) hi (op_and_option hi hb) (show exec (.callHouse e c) s = _ from rfl)
    refine ⟨fun ha h => house (if_pos (by simp [ha, h])), fun ha h => house ((if_neg (by simp [ha])).trans (if_pos h)),
      fun ha h h' => house ((if_neg ?_).trans (if_neg (by omega)))⟩
    rcases ha with ha | ha <;> simp [ha]
  case refine_6 =>
    rw [place_complete, place_complete, place_issued, place_issued]
    exact place_took_lt s e (issues_context hi) hd hne
  case refine_5 =>
    unfold retBody
    rw [h]
  all_goals
    unfold brBody
    rw [h]

end Sys2Proof.Proofs

/-! PROOFS. Waits and timers, loads and stores, transfers of a program (R310, R334, R337 to R340). -/

namespace Sys2Proof.Proofs

open Sys2Proof Sys2Proof.Machine Sys2Proof.Laws

/-! ## Waits, timers and limits -/

/-- A timer that is due resumes a context that waits on it. -/
theorem timerExpiry_due {s : State} {n : Nat} (hlive : s.live = true) (harmed : (s.eng.timers.getD n {}).armed = true)
    (hdue : (s.eng.timers.getD n {}).due ≤ s.regul.refTicks) :
    timerExpiry n s =
      let s1 := { s with eng := { s.eng with timers := updAt s.eng.timers n (fun x => { x with armed := false }) } }
      let t := s.eng.timers.getD n {}
      if (s.ctx t.e t.c).state = 3 ∧ (s.ctx t.e t.c).wait = .timer n then complete s1 t.e t.c Config.OK 0
      else if (s.ctx t.e t.c).state = 3 ∧ (s.ctx t.e t.c).wait = .notify (some n) then complete s1 t.e t.c Config.TIMEOUT 0
      else s1 :=
  if_pos (by simp only [hlive, harmed, hdue, decide_true, Bool.and_self])

/-- A run-time limit that expires is noted; a READY task goes back to its last step and ends. -/
theorem limitMsExpiry_running {s : State} {e c : Nat} (hlive : s.live = true) (he : e < 16) (hc : c < 32)
    (hlimit : (s.ctx e c).limit ≠ 0) (hexpired : (s.ctx e c).expired = false)
    (hstate : 1 ≤ (s.ctx e c).state ∧ (s.ctx e c).state ≤ 4) :
    limitMsExpiry e c s =
      if (s.ctx e c).state = 1 then
        endTask (s.updCtx e c (fun y => { y with expired := true, pc := y.lastPc })) e c Config.TIMEOUT true
      else s.updCtx e c (fun y => { y with expired := true }) := by
  unfold limitMsExpiry
  dsimp only
  rw [if_pos (by simp [hlive, he, hc, hlimit, hexpired, hstate])]
  by_cases h : (s.ctx e c).state = 1
  · rw [if_pos h, if_pos h, updCtx_congr]
    simp [h]
  · rw [if_neg h, if_neg h, updCtx_congr]
    simp [h]

/-- Settles O5: a wait and the three ends of a wait branch on the operands, the timer's state and the context's wait. -/
theorem waitsAndTimers : Obligations.WaitsAndTimers := by
  intro s e c n w
  refine ⟨fun hi hb hd hk => exec_issued hi (op_and_option hi (by simp [hb])) rfl (by simp [waitTimerBody, hd, hk]),
    fun hi hb hu => exec_issued hi (op_and_option hi hb) rfl (by simp [waitNotifyBody, hu]),
    fun hi hb hu hd hk => exec_issued hi (op_and_option hi hb) rfl (by simp [waitNotifyBody, hu, hd, hk]),
    fun h hw => congrArg Host.Outcome.next ?_, fun h hw => congrArg Host.Outcome.next ?_,
    fun h hs => congrArg Host.Outcome.next ?_, fun h hs hs' => congrArg Host.Outcome.next ?_,
    fun hl hs => congrArg Host.Outcome.next (if_pos (by simp [hl, hs])), fun h => congrArg Host.Outcome.next (if_neg ?_)⟩
  · obtain ⟨hlive, harmed, hdue, hstate⟩ := h
    exact (timerExpiry_due hlive harmed hdue).trans (if_pos ⟨hstate, hw⟩)
  · obtain ⟨hlive, harmed, hdue, hstate⟩ := h
    exact (timerExpiry_due hlive harmed hdue).trans ((if_neg (fun ⟨_, h⟩ => by cases hw.symm.trans h)).trans
      (if_pos ⟨hstate, hw⟩))
  · obtain ⟨hlive, he, hc, hlimit, hexpired⟩ := h
    exact (limitMsExpiry_running hlive he hc hlimit hexpired (by omega)).trans (if_pos hs)
  · obtain ⟨hlive, he, hc, hlimit, hexpired⟩ := h
    exact (limitMsExpiry_running hlive he hc hlimit hexpired (by omega)).trans (if_neg (by omega))
  · rcases h with h | h <;> simp [h]

/-! ## Loads and stores -/

/-- Settles O6: LD and ST branch on the place that their address names. -/
theorem loadStoreResults : Obligations.LoadStoreResults := by
  intro s e c a w dram
  refine ⟨fun hi hp hk => exec_issued_op hi rfl (by simp [ldBody, hp, hk]), fun hi hp => exec_issued_op hi rfl (by simp [ldBody, hp]),
    fun hi hp hk => exec_issued_op hi rfl (by simp [stBody, hp, hk]), fun hi hp => exec_issued_op hi rfl (by simp [stBody, hp]),
    fun hp => ⟨fun hi => exec_issued_op hi rfl (by simp [ldBody, hp]), fun hi => exec_issued_op hi rfl (by simp [stBody, hp])⟩,
    fun hp hk => ⟨fun hi => exec_issued_op hi rfl (by simp [ldBody, hp, hk]),
      fun hi => exec_issued_op hi rfl (by simp [stBody, hp, hk])⟩⟩

/-! ## Transfers -/

/-- The report of a mule on a context that waits is what its wait takes one step on. -/
theorem exec_muleReport_ctx {s : State} {e c : Nat} (dram : Dram)
    (h : s.live = true ∧ ((s.ctx e c).state = 3 ∨ (s.ctx e c).state = 4)) :
    exec (.muleReport (.ctx e c) none dram) s = .next (
      match (s.ctx e c).wait with
      | .xfer y =>
        match stepXfer s e c false y dram with
        | (t, none) => t
        | (t, some (code, _)) => finishXfer t e c y code
      | .zero lo next hi (some st) => if st = Config.OK then zeroNext s e c lo (next + 256) hi dram else complete s e c st 0
      | .xts d b n k _ => xtsRun s e c d b n k
      | _ => s) := by
  obtain ⟨hlive, hstate⟩ := h
  exact congrArg Host.Outcome.next ((if_pos hlive).trans (if_neg (by omega)))

/-- A cipher fault is counted; it touches neither the map nor the cache. -/
theorem cipherFault_kept (s : State) (pipe : Nat) :
    (cipherFault s pipe).keys.cfaults = (s.keys.cfaults + 1) % 2 ^ 32 ∧ (cipherFault s pipe).maps = s.maps
      ∧ (cipherFault s pipe).cache = s.cache := by
  have kept (u : State) (cls detail : Nat) : (record u cls detail).keys = u.keys ∧ (record u cls detail).maps = u.maps
      ∧ (record u cls detail).cache = u.cache := by
    obtain ⟨-, h⟩ | ⟨-, f, h⟩ := record_cases u cls detail <;> rw [h] <;> exact ⟨rfl, rfl, rfl⟩
  unfold cipherFault
  dsimp only
  split <;> simp [kept]

/-- Settles O7: a transfer instruction that passes its checks issues its transfer; a report branches on what its context waits for, on
what the next step of the transfer answers, and on the pipelines left. -/
theorem transferResults : Obligations.TransferResults := by
  refine ⟨fun s e c w dram => ?_, fun s page pipe m dram => ⟨fun hl hm hs hp => ⟨?_, cipherFault_kept s pipe⟩, fun hf => ?_⟩⟩
  · refine ⟨fun hi h1 hn hh ha hd hb => exec_issued_op hi rfl ?_, fun hi h1 hn hd hb hdis hrd hrb => exec_issued_op hi rfl ?_,
      fun hi h1 hn hd => exec_issued_op hi rfl ?_, fun hi hp => exec_issued_op hi rfl (if_pos (by simp [hp])),
      fun hi hp => exec_issued_op hi rfl (if_neg (by simpa using hp)), fun z rest u hl hp hz => congrArg Host.Outcome.next ?_,
      fun z rest u code addr hl hp hz => congrArg Host.Outcome.next ?_, fun z u hw hz hx => ?_, fun z u code addr hw hz hx => ?_,
      fun lo next hi hw hz => ?_, fun d b n k once hw hz => ?_⟩
    · unfold moveBody
      dsimp only
      rw [if_neg, hd, hb]
      · rfl
      · rintro (h | h | h | ⟨h, h'⟩)
        · omega
        · omega
        · exact hh h
        · exact h' (ha h)
    · unfold copyBody
      dsimp only
      rw [if_neg, hrd, hrb]
      · rfl
      · rintro (h | h | h | h | h)
        · omega
        · omega
        · exact h hd
        · exact h hb
        · omega
    · unfold fillBody
      dsimp only
      rw [if_neg (by omega), hd]
      rfl
    · unfold postedUnitDone
      rw [hp]
      simp [hl, hz]
    · unfold postedUnitDone
      rw [hp]
      simp [hl, hz]
    · rw [exec_muleReport_ctx dram hw, hz]
      simp [hx]
    · rw [exec_muleReport_ctx dram hw, hz]
      simp [hx]
    · rw [exec_muleReport_ctx dram hw, hz]
      simp
    · rw [exec_muleReport_ctx dram hw, hz]
  · refine congrArg Host.Outcome.next ((if_pos hl).trans ?_)
    unfold pageFault
    simp [hm, hs, hp]
  · exact congrArg Host.Outcome.next (if_pos hf)

end Sys2Proof.Proofs

/-! PROOFS. Host reads and writes of lines the device holds; requests that are turned away (R65, R70, R370, R372). -/

namespace Sys2Proof.Proofs

open Sys2Proof Sys2Proof.Machine Sys2Proof.Laws

/-! ## Requests at their lookup -/

/-- A host transaction is the request of its operation. -/
theorem exec_hostCommand {p n tag addr : Nat} {dram : Dram} {op : MemOp} {i : Instr}
    (hi : hostCommand p n tag addr dram op = some i) (s : State) :
    exec i s = .next (hostRequest s p n tag addr op dram) := by
  cases op <;> cases hi <;> rfl

/-- A request at its lookup is the one that arrived. -/
theorem atLookup_arrived_kept {s u : State} {r : Req} {p n tag addr : Nat} {op : MemOp} {dram : Dram}
    (h : (s.arrived p n tag addr op dram).1.atLookup (s.arrived p n tag addr op dram).2 = some (u, r)) : r.op = op ∧ r.addr = addr := by
  obtain ⟨hop, haddr, -⟩ := atLookup_kept h
  obtain ⟨-, -, hop', haddr', -⟩ := arrived_kept s p n tag addr op dram
  exact ⟨hop.trans hop', haddr.trans haddr'⟩

/-- A write of a poisoned line by parts completes with POISON. -/
theorem lookupPartial_poisoned {u : State} {r : Req} {d : Line} (hg : u.cache.filling r.line = false)
    (hf : u.cache.full r.line = some (d, true)) : lookupPartial u r = deliver u r Config.POISON 0 false := by
  simp only [lookupPartial, hg, hf, Bool.false_eq_true, if_false, if_true]

/-- An accumulate into a poisoned line completes with POISON. -/
theorem lookupAcc_poisoned {u : State} {r : Req} {x : CLine} (hg : u.cache.filling r.line = false) (hf : u.cache.hit r.line = some x)
    (hp : x.poison = true) : lookupAcc u r = deliver u r Config.POISON 0 false := by
  simp only [lookupAcc, hg, hf, hp, Bool.false_eq_true, if_false, if_true]

/-- A host request that reaches its lookup answers what it meets there. -/
theorem exec_lookup {s u : State} {r : Req} {p n tag addr : Nat} {op : MemOp} {dram : Dram} {i : Instr}
    (hi : hostCommand p n tag addr dram op = some i) (hlive : s.live = true) (hhears : s.hears p tag = true)
    (hopen : (s.sess p n).isOpen = true)
    (hat : (s.arrived p n tag addr op dram).1.atLookup (s.arrived p n tag addr op dram).2 = some (u, r)) {t : State}
    (ht : lookupOf u r = t) : exec i s = .next t := by
  rw [exec_hostCommand hi, hostRequest_lookup hlive hhears hopen hat, ht]

/-- A read is looked up as a read. -/
theorem lookupOf_read {u : State} {r : Req} (h : r.op.isRead = true) : lookupOf u r = lookupRead u r := if_pos h

/-- With the cache write-back, a write is looked up by how much of its line it writes. -/
theorem lookupOf_write {u : State} {r : Req} (hread : r.op.isRead = false) (hon : u.cache.on = true) (hwback : u.cache.wback = true) :
    lookupOf u r = if r.op.isFull then lookupFull u r else if r.op.isPartial then lookupPartial u r else lookupAcc u r :=
  (if_neg (by simp [hread])).trans (if_neg (by simp [hon, hwback]))

/-- Settles O8: a request at its lookup is looked up by its operation, and each lookup branches on the line it finds. -/
theorem hostHits : Obligations.HostHits := by
  refine ⟨fun s u r p n tag addr d bad dram hl hh ho hg hf => ?_, fun s u v r p n tag addr h l d m x dram hl hh ho hon hw => ?_⟩
  · have read {op : MemOp} {i : Instr} (hi : hostCommand p n tag addr dram op = some i) (hop : op.isRead = true)
        (hat : (s.arrived p n tag addr op dram).1.atLookup (s.arrived p n tag addr op dram).2 = some (u, r)) :=
      exec_lookup hi hl hh ho hat
        ((lookupOf_read (by rw [(atLookup_arrived_kept hat).1, hop])).trans (lookupRead_hits hg hf))
    exact ⟨read rfl rfl, read rfl rfl⟩
  · have write {op : MemOp} {i : Instr} (hi : hostCommand p n tag addr dram op = some i) (hop : op.isRead = false)
        (hat : (s.arrived p n tag addr op dram).1.atLookup (s.arrived p n tag addr op dram).2 = some (u, r)) {t : State}
        (ht : (if op.isFull then lookupFull u r else if op.isPartial then lookupPartial u r else lookupAcc u r) = t) :
        exec i s = .next t := by
      obtain ⟨hop', -⟩ := atLookup_arrived_kept hat
      refine exec_lookup hi hl hh ho hat ((lookupOf_write (by rw [hop', hop]) hon hw).trans ?_)
      rw [hop', ht]
    refine ⟨fun hat hf hi => ?_, fun hat hg => ⟨fun hf hi => ?_, fun hf => ?_⟩, fun hat hg => ⟨fun hf hi => ?_, fun hf => ?_⟩,
      fun hat hg hx => ⟨fun hp hi => ?_, fun hp => ?_⟩⟩
    all_goals obtain ⟨hop, haddr⟩ := atLookup_arrived_kept hat
    · exact write rfl rfl hat (lookupFull_installs hf (by rw [hop, haddr]; exact hi))
    · exact write rfl rfl hat (lookupPartial_hits hg hf (by rw [hop, haddr]; exact hi))
    · exact write rfl rfl hat (lookupPartial_poisoned hg hf)
    · exact write rfl rfl hat (lookupPartial_hits hg hf (by rw [hop, haddr]; exact hi))
    · exact write rfl rfl hat (lookupPartial_poisoned hg hf)
    · exact write rfl rfl hat (lookupAcc_hits hg hx hp (by rw [hop, haddr]; exact hi))
    · exact write rfl rfl hat (lookupAcc_poisoned hg hx hp)

/-! ## Requests turned away -/

/-- A request of a session that is not open completes with DENIED. -/
theorem hostRequest_closed {s : State} {p n tag addr : Nat} {op : MemOp} {dram : Dram} (hlive : s.live = true)
    (hhears : s.hears p tag = true) (hclosed : (s.sess p n).isOpen = false) :
    hostRequest s p n tag addr op dram
      = deliver (freeCredit ((rxFlits s p op.flits).updPort p (fun x => { x with outTags := x.outTags ++ [tag] })) p op.vc op.flits)
          { who := .host p n tag, op := op, addr := addr, label := (s.sess p n).label, sesLabel := (s.sess p n).label,
            admin := (s.sess p n).admin, at0 := s.regul.refTicks, dram := dram } Config.DENIED 0 false := by
  simp only [State.hears, Bool.and_eq_true, decide_eq_true_eq, Bool.not_eq_true'] at hhears
  obtain ⟨⟨hp, hup⟩, htag⟩ := hhears
  unfold hostRequest
  dsimp only
  rw [if_pos (by simp [hlive, hp, hup]), if_neg (by rw [outTags_rxFlits, htag]; exact Bool.false_ne_true), sess_rxFlits,
    if_pos (by rw [hclosed]; rfl)]
  rfl

/-- Settles O9: a duplicate tag and a closed session are the first two branches of an arrival. -/
theorem requestsTurnedAway : Obligations.RequestsTurnedAway := by
  refine ⟨fun s p n tag addr op dram i hi hl hp hu ht => ?_, fun s p n tag addr op dram i hi hl hh ho => ?_⟩
  · rw [exec_hostCommand hi, hostRequest_duplicate hl hp hu (by rwa [outTags_rxFlits] at ht)]
  · rw [exec_hostCommand hi, hostRequest_closed hl hh ho]

end Sys2Proof.Proofs

/-! PROOFS. The link layer of a port: training, replay, credits, DOWN (R28, R358, R368, R369, R375 to R382). -/

namespace Sys2Proof.Proofs

open Sys2Proof Sys2Proof.Machine Sys2Proof.Laws

/-! ## Training -/

/-- Settles O10: each command of training branches on the port's state and phase, and changes the port by what it holds there. -/
theorem linkTraining : Obligations.LinkTraining := by
  intro s p vc2 vc3 ack keep
  have next {a b : State} (h : a = b) : (.next a : Out) = .next b := congrArg _ h
  refine fun hlink => ⟨fun hs hp => next ((if_pos (by simp [hlink, hs]; omega)).trans (updPort_congr (if_neg (by omega)))),
    fun hs hp => next ((if_pos (by simp [hlink, hs, hp])).trans (updPort_congr ?_)),
    fun hs hr => next ((if_pos (by simp [hlink, hs])).trans (if_neg (by simp [hr]))),
    fun hs hr => next ((if_pos (by simp [hlink, hs])).trans (if_pos hr)), fun hr => next (if_pos (by simp [hlink, hr])),
    fun hs hr hf => next ((if_pos (by simp [hlink, hs, hr])).trans (updPort_congr ?_)),
    fun hs hr hf => next ((if_pos (by simp [hlink, hs, hr])).trans (updPort_congr ?_)),
    fun hs hp hk hask => next ((if_pos (by simp [hlink, hs, hp])).trans (if_pos (by simp [hk, hask]))),
    fun hs hp hk => next ((if_pos (by simp [hlink, hs, hp])).trans (if_neg (by rcases hk with hk | hk <;> simp [hk])))⟩
  · simp [hp]
  · simp only [if_neg (Nat.ne_of_lt hf)]
    rfl
  · simp only [if_pos hf]

/-! ## Replay -/

/-- A port that is up stands in the list of ports. -/
theorem lt_length_of_up {s : State} {p : Nat} (h : (s.port p).up = true) : p < s.ports.length := by
  refine Nat.lt_of_not_le fun hp => ?_
  rw [State.port, List.getD_eq_getElem?_getD, List.getElem?_eq_none hp] at h
  cases h

/-- A port after a change of it. -/
theorem port_updPort {s : State} {p : Nat} (h : p < s.ports.length) (f : Port → Port) : (s.updPort p f).port p = f (s.port p) := by
  simp [State.port, State.updPort, updAt, h]

/-- Two changes of a port are one. -/
theorem updPort_updPort (s : State) (p : Nat) (f g : Port → Port) : (s.updPort p f).updPort p g = s.updPort p (g ∘ f) := by
  unfold State.updPort updAt
  dsimp only
  rw [List.modify_modify_eq]

/-- Settles O11: a NAK and a timeout replay from their SEQ, the eighth time in a row with DOWN; an ACK that advances acts on the port
that has counted the corrected symbols. -/
theorem linkReplay : Obligations.LinkReplay := by
  intro s p q corrected why x n again t replayed hlink hup
  have next {a b : State} (h : a = b) : (.next a : Out) = .next b := congrArg _ h
  have runs : (s.linked p && (s.port p).up) = true := Bool.and_eq_true_iff.mpr ⟨hlink, hup⟩
  have replays (h : x.replay.any (fun f => f.seq == q) = true) : replayAt s p q = replayed := by
    refine (if_pos h).trans ?_
    by_cases hn : n < 8
    · exact (congrArg (t.updPort p) (funext fun _ => if_pos hn)).trans (if_pos hn).symm
    · exact (congrArg (t.updPort p) (funext fun _ => if_neg hn)).trans (if_neg hn).symm
  refine ⟨fun h => next ((if_pos runs).trans (replays h)), fun f rest hf hq => next ?_, fun h => next ?_, next (if_pos runs),
    fun h => next (if_pos (Bool.and_eq_true_iff.mpr ⟨runs, h⟩))⟩
  · unfold replayTimeout
    rw [show (s.port p).replay = f :: rest from hf]
    dsimp only [List.head?_cons]
    rw [if_pos runs, hq]
    exact replays (by rw [hf, List.any_cons, hq, beq_self_eq_true, Bool.true_or])
  · have counted : fecCount s p corrected = s.updPort p (fun x => { x with fecCorr := (x.fecCorr + corrected) % 2 ^ 32 }) :=
      if_pos runs
    unfold ackAdvanced
    rw [counted, port_updPort (lt_length_of_up hup)]
    refine (if_pos ?_).trans (updPort_updPort _ _ _ _)
    exact Bool.and_eq_true_iff.mpr ⟨runs, h⟩

/-! ## Credits and DOWN -/

/-- Settles O12: each command branches on the port's state. -/
theorem linkCreditsAndDown : Obligations.LinkCreditsAndDown := by
  have next {a b : State} (h : a = b) : (.next a : Out) = .next b := congrArg _ h
  refine ⟨fun s p vc n hlink hup => ⟨next (if_pos ?_), fun hrem hheld => next (if_pos ?_), fun hheld => next (if_neg ?_), next (if_pos ?_)⟩,
    fun s p reason hlink => ⟨next (if_pos hlink), fun hk hu => next (if_pos ?_), fun hu => next (if_pos ?_)⟩⟩
  · simp [hlink, hup]
  · have held : ((s.port p).vc0Held && vc == 0) = false := by rcases hheld with h | h <;> simp [h]
    simp only [hlink, hup, bne_iff_ne.mpr hrem, held, Bool.not_false, Bool.and_self]
  · simp [hheld]
  · simp [hlink, hup]
  · simp [hlink, hk, hu]
  · simp [hlink, hu]

end Sys2Proof.Proofs

/-! PROOFS. Management reads and writes, sessions (R10, R306, R372, R373, R480, R481, R499). -/

namespace Sys2Proof.Proofs

open Sys2Proof Sys2Proof.Machine Sys2Proof.Laws

/-! ## Transactions of an open session -/

section Session

variable {s : State} {p n tag : Nat} (hserves : s.serves = true) (hhears : s.hears p tag = true) (hopen : (s.sess p n).isOpen = true)
include hserves hhears hopen

/-- A management transaction without data words completes on VC3 with its status and no data. -/
theorem mgt_without_data {words : Nat} {go : State → MgtAns} {a : State} {st : Nat}
    (hgo : go (s.mgtArrived p tag words) = { state := a, status := st }) :
    (.next (mgt s p n tag words go) : Out) = .next (sendCpl a p n tag 3 st 0 0) := by
  rw [mgt_eq go hserves hhears hopen, hgo]
  rfl

/-- A management transaction with data words completes on VC3 with them. -/
theorem mgt_with_data {words : Nat} {go : State → MgtAns} {a : State} {l : List Nat}
    (hgo : go (s.mgtArrived p tag words) = { state := a, status := Config.OK, words := l }) :
    (.next (mgt s p n tag words go) : Out) = .next (sendCpl a p n tag 3 Config.OK l.length (wordsLine l)) := by
  rw [mgt_eq go hserves hhears hopen, hgo]

end Session

/-! ## What reads and writes do -/

/-- An access of more than 16 words or off a word is refused. -/
theorem mgtReadGo_badForm {s : State} {p n addr words : Nat} (buffer : Bool) (h : 16 < words ∨ addr % 4 ≠ 0) :
    mgtReadGo p n buffer addr words s = { state := s, status := Config.BAD_OPERAND } :=
  if_pos h

/-- A read of words that the session may not read is refused. -/
theorem mgtReadGo_denied {s : State} {p n addr words : Nat} (hwords : words ≤ 16) (haligned : addr % 4 = 0)
    (hmay : (List.range words).all (fun i => s.csrMay p n (addr + 4 * i)) = false) :
    mgtReadGo p n false addr words s = { state := s, status := Config.DENIED } := by
  unfold mgtReadGo
  rw [if_neg (by omega), if_neg Bool.false_ne_true, if_neg (by rw [hmay]; exact Bool.false_ne_true)]

/-- A read of a buffer answers its bytes, or the status of its check. -/
theorem mgtReadGo_buffer {s : State} {p n addr words : Nat} (hwords : words ≤ 16) (haligned : addr % 4 = 0) :
    mgtReadGo p n true addr words s
      = { state := s, status := s.bufStatus p n addr (4 * words),
          words := if s.bufStatus p n addr (4 * words) = Config.OK then (List.range words).map (fun i => s.bufNum (addr + 4 * i) 4)
            else [] } :=
  (if_neg (by omega)).trans (if_pos rfl)

/-- A write of more than 16 words or off a word is refused. -/
theorem mgtWriteGo_badForm {s : State} {p n addr : Nat} {ws : List W32} (buffer : Bool) (h : 16 < ws.length ∨ addr % 4 ≠ 0) :
    mgtWriteGo p n buffer addr ws s = { state := s, status := Config.BAD_OPERAND } :=
  if_pos h

/-- A write of a buffer stores its bytes, or answers the status of its check. -/
theorem mgtWriteGo_buffer {s : State} {p n addr : Nat} {ws : List W32} (hwords : ws.length ≤ 16) (haligned : addr % 4 = 0) :
    mgtWriteGo p n true addr ws s
      = { state := if s.bufStatus p n addr (4 * ws.length) = Config.OK then s.bufStore addr (ws.flatMap (fun v => bytesOf v.toNat 4))
            else s,
          status := s.bufStatus p n addr (4 * ws.length) } :=
  (if_neg (by omega)).trans (if_pos rfl)

/-- A write of CSR words is done, or answers the status of its words. -/
theorem mgtWriteGo_csr {s : State} {p n addr : Nat} {ws : List W32} (hwords : ws.length ≤ 16) (haligned : addr % 4 = 0) :
    mgtWriteGo p n false addr ws s
      = { state := if worst (s.putStatuses p n addr ws) = Config.OK then csrPuts s p addr ws else s,
          status := worst (s.putStatuses p n addr ws) } :=
  (if_neg (by omega)).trans (if_neg Bool.false_ne_true)

/-- A write of one CSR word that the session may write. -/
theorem mgtWriteGo_one {s : State} {p n addr : Nat} {v : W32} (haligned : addr % 4 = 0) (h : s.putStatus p n addr v = Config.OK) :
    mgtWriteGo p n false addr [v] s = { state := csrPut s p addr v, status := Config.OK } := by
  rw [mgtWriteGo_csr (Nat.le_of_ble_eq_true rfl) haligned, worst_one h, if_pos rfl]
  rfl

/-- A read of the low word of a counter latches its high bits. -/
theorem csrRead_counter {s : State} {p n i : Nat} (h : i < 256) :
    csrRead s p n (0x140000 + 8 * i)
      = (s.updSess p n (fun x => { x with perfLatch := Tbl.getD s.recs.ctr i 0 / 2 ^ 32 % 2 ^ 16 }),
          Tbl.getD s.recs.ctr i 0 % 2 ^ 32) := by
  unfold csrRead
  rw [if_pos (by omega), if_pos (by omega), show (0x140000 + 8 * i - 0x140000) / 8 = i by omega]

/-! ## The words with effects -/

/-- A write of a doorbell's low word sets TAIL. -/
theorem csrPut_tail (s : State) (p : Nat) {q v : Nat} (hq : q < 4096) (hv : v < 2 ^ 16) :
    csrPut s p (0x100000 + 8 * q) (BitVec.ofNat 32 v) = s.updQueue q (fun x => { x with tail := v }) := by
  have hn : (BitVec.ofNat 32 v).toNat % 2 ^ 16 = v := by rw [BitVec.toNat_ofNat]; omega
  unfold csrPut
  dsimp only
  rw [if_neg (by omega), if_neg (by omega), if_neg (by omega), if_neg (by omega), if_pos (by omega), hn,
    show (0x100000 + 8 * q - 0x100000) / 8 = q by omega]
  simp only [if_pos (show (0x100000 + 8 * q) % 8 = 0 by omega)]

/-- A write of a doorbell's high word sets CHEAD. -/
theorem csrPut_chead (s : State) (p : Nat) {q v : Nat} (hq : q < 4096) (hv : v < 2 ^ 16) :
    csrPut s p (0x100004 + 8 * q) (BitVec.ofNat 32 v) = s.updQueue q (fun x => { x with chead := v }) := by
  have hn : (BitVec.ofNat 32 v).toNat % 2 ^ 16 = v := by rw [BitVec.toNat_ofNat]; omega
  unfold csrPut
  dsimp only
  rw [if_neg (by omega), if_neg (by omega), if_neg (by omega), if_neg (by omega), if_pos (by omega), hn,
    show (0x100004 + 8 * q - 0x100000) / 8 = q by omega]
  simp only [if_neg (show ¬(0x100004 + 8 * q) % 8 = 0 by omega)]

/-- A write of LEN and GO commits a boot image. -/
theorem csrPut_go (s : State) (p : Nat) {v : Nat} (hv : v < 2 ^ 21) :
    csrPut s p 0x00000C (BitVec.ofNat 32 (2 ^ 31 + v % 2 ^ 21)) = bootGo s v := by
  have hn : (BitVec.ofNat 32 (2 ^ 31 + v % 2 ^ 21)).toNat = 2 ^ 31 + v := by rw [BitVec.toNat_ofNat]; omega
  have hfuse : bitOf (2 ^ 31 + v) 30 = false := by
    simp only [bitOf, Nat.shiftRight_eq_div_pow, beq_eq_false_iff_ne]
    omega
  have hgo : bitOf (2 ^ 31 + v) 31 = true := by
    simp only [bitOf, Nat.shiftRight_eq_div_pow, beq_iff_eq]
    omega
  have hlen : bitsOf (2 ^ 31 + v) 20 0 = v := by
    simp only [bitsOf, Nat.shiftRight_zero]
    omega
  unfold csrPut
  dsimp only
  rw [if_pos rfl, hn, hfuse, hgo, hlen]
  rfl

/-- A write of FUSE burns the owner key hash. -/
theorem csrPut_fuse (s : State) (p : Nat) : csrPut s p 0x00000C (BitVec.ofNat 32 (2 ^ 30)) = bootFuse s := by
  unfold csrPut
  dsimp only
  rw [if_pos rfl, if_neg (by decide), if_pos (by decide)]

/-- Whether a session may write ID_BOOT does not depend on the word. -/
theorem putStatus_idBoot (s : State) (p n : Nat) (v w : W32) : s.putStatus p n 0x00000C v = s.putStatus p n 0x00000C w := rfl

/-- Settles O13. -/
theorem managementAccesses : Obligations.ManagementAccesses := by
  refine ⟨fun s p n tag addr words i buffer hs hh ho => ⟨fun hw ha hm => ?_, fun hw ha hb => ?_, fun hi hm => ?_, fun h => ?_,
      fun hw ha hm => ?_, fun hw ha hb => ?_⟩,
    fun s p n tag addr q v w ws buffer hs hh ho => ⟨fun hw ha hst => ?_, fun hw ha hb => ?_, fun h => ?_, fun hw ha hst => ?_,
      fun hw ha hb => ?_, fun ha hst => ?_, fun hq hv hst => ?_, fun hq hv hst => ?_, fun hst hv => ?_, fun hst => ?_⟩⟩
  · refine (mgt_with_data hs hh ho (mgtReadGo_csr hw ha hm)).trans ?_
    rw [csrReads_length]
  · refine (mgt_with_data hs hh ho ((mgtReadGo_buffer hw ha).trans (by rw [hb, if_pos rfl]))).trans ?_
    rw [List.length_map, List.length_range]
  · refine mgt_with_data (l := [_]) hs hh ho ((mgtReadGo_csr (addr := 0x140000 + 8 * i) (words := 1) (by decide) (by omega) (by simpa using hm)).trans ?_)
    rw [csrReads_one, csrRead_counter hi]
  · exact mgt_without_data hs hh ho (mgtReadGo_badForm buffer h)
  · exact mgt_without_data hs hh ho (mgtReadGo_denied hw ha hm)
  · exact mgt_without_data hs hh ho ((mgtReadGo_buffer hw ha).trans (by rw [if_neg hb]))
  · exact mgt_without_data hs hh ho ((mgtWriteGo_csr hw ha).trans (by rw [hst, if_pos rfl]))
  · exact mgt_without_data hs hh ho ((mgtWriteGo_buffer hw ha).trans (by rw [hb, if_pos rfl]))
  · exact mgt_without_data hs hh ho (mgtWriteGo_badForm buffer h)
  · exact mgt_without_data hs hh ho ((mgtWriteGo_csr hw ha).trans (by rw [if_neg hst]))
  · exact mgt_without_data hs hh ho ((mgtWriteGo_buffer hw ha).trans (by rw [if_neg hb]))
  · exact mgt_without_data hs hh ho (mgtWriteGo_one ha hst)
  · exact mgt_without_data hs hh ho ((mgtWriteGo_one (by omega) hst).trans (by rw [csrPut_tail _ _ hq hv]))
  · exact mgt_without_data hs hh ho ((mgtWriteGo_one (by omega) hst).trans (by rw [csrPut_chead _ _ hq hv]))
  · exact mgt_without_data hs hh ho
      ((mgtWriteGo_one (by decide) ((putStatus_idBoot _ _ _ _ _).trans hst)).trans (by rw [csrPut_go _ _ hv]))
  · exact mgt_without_data hs hh ho
      ((mgtWriteGo_one (by decide) ((putStatus_idBoot _ _ _ _ _).trans hst)).trans (by rw [csrPut_fuse]))

/-! ## Sessions -/

/-- Opening branches on the privilege of the session and on whether the target is open. -/
theorem mgtOpenGo_eq (s : State) (p n k : Nat) (admin : Bool) :
    mgtOpenGo p n k admin s =
      if (s.sess p n).admin = false then { state := s, status := Config.DENIED }
      else if (s.sess p k).isOpen = true then { state := s, status := Config.BAD_OPERAND }
      else { state := openSession s p k admin, status := Config.OK } := by
  unfold mgtOpenGo
  cases (s.sess p n).admin <;> rfl

/-- Closing branches on whether the session may close the target and on whether the target can be closed. -/
theorem mgtCloseGo_eq (s : State) (p n k : Nat) :
    mgtCloseGo p n k s =
      if (s.sess p n).admin = false ∧ n ≠ k then { state := s, status := Config.DENIED }
      else if k = 0 ∨ (s.sess p k).isOpen = false then { state := s, status := Config.BAD_OPERAND }
      else { state := closeSession s p k, status := Config.OK } := by
  unfold mgtCloseGo
  simp only [Bool.and_eq_true, Bool.not_eq_true', bne_iff_ne]

/-- Settles O14: opening and closing branch on the privilege of the session and on whether the target is open. -/
theorem sessionsOpenAndClose : Obligations.SessionsOpenAndClose := by
  intro s p n tag k admin t done not hs hh ho
  have open_ {a st} (h : mgtOpenGo p n k admin t = { state := a, status := st }) :=
    mgt_without_data hs hh ho h
  have close {a st} (h : mgtCloseGo p n k t = { state := a, status := st }) := mgt_without_data hs hh ho h
  refine ⟨fun ha hk => open_ ?_, fun ha hk => open_ ?_, fun ha => open_ ?_, fun ha hk hko => close ?_, fun ha hk => close ?_,
    fun ha hk => close ?_⟩
  · rw [mgtOpenGo_eq, if_neg (by simpa using ha), if_neg (by simpa using hk)]
  · rw [mgtOpenGo_eq, if_neg (by simpa using ha), if_pos hk]
  · rw [mgtOpenGo_eq, if_pos ha]
  · rw [mgtCloseGo_eq, if_neg (by simpa [Decidable.or_iff_not_imp_left] using ha), if_neg (by simpa using ⟨hk, hko⟩)]
  · rw [mgtCloseGo_eq, if_neg (by simpa [Decidable.or_iff_not_imp_left] using ha), if_pos hk]
  · rw [mgtCloseGo_eq, if_pos ⟨ha, hk⟩]

end Sys2Proof.Proofs

/-! PROOFS. Descriptors, completion entries and notifications (R301 to R309). -/

namespace Sys2Proof.Proofs

open Sys2Proof Sys2Proof.Machine Sys2Proof.Laws

/-! ## Descriptors -/

/-- The commands that fetch a descriptor of each kind (R303). -/
def descriptorCommands (e c q : Nat) (d : BitVec 512) : List (Nat × Instr) :=
  [(0, .taskRun e c q d), (1, .taskRun e c q d), (2, .hcall e c q d), (3, .qopen e c q d), (4, .qclose e c q d), (5, .pload e c q d)]

/-- The command of a kind fetches a descriptor of that kind. -/
theorem exec_descriptorCommand {e c q k : Nat} {d : BitVec 512} {i : Instr} (h : (k, i) ∈ descriptorCommands e c q d) (s : State) :
    ∃ mine go, exec i s = .next (withDesc s e c q d mine go) ∧ mine k = true := by
  simp only [descriptorCommands, List.mem_cons, Prod.mk.injEq, List.not_mem_nil, or_false] at h
  obtain ⟨rfl, rfl⟩ | ⟨rfl, rfl⟩ | ⟨rfl, rfl⟩ | ⟨rfl, rfl⟩ | ⟨rfl, rfl⟩ | ⟨rfl, rfl⟩ := h
  all_goals exact ⟨_, _, rfl, by decide⟩

section Fetch

variable {s : State} {e c q : Nat} {x : Queue} {d : BitVec 512} (hlive : s.live = true) (he : e < 16) (hc : c < 32)
  (hidle : (s.ctx e c).state = 0) (hnext : s.nextQueue e = some q) (hqueue : s.queue q = some x)
include hlive he hc hidle hnext hqueue

/-- A descriptor with ORDER waits while an earlier one of its queue runs (R304). -/
theorem withDesc_holds {mine : Nat → Bool} (go : State → Queue → TaskDesc → State) (horder : (taskDesc d).order = true)
    (hbusy : 0 < x.busy) (hmine : mine (taskDesc d).kind = true) :
    withDesc s e c q d mine go = s.updQueue q (fun x => { x with order := true }) := by
  unfold withDesc
  dsimp only
  rw [if_pos (by simp [hlive, he, hc, hidle, hnext, hmine]), hqueue]
  exact if_pos (by simp [horder, hbusy])

/-- A fetched descriptor with a reserved field completes with BAD_OPERAND (R303). -/
theorem withDesc_reserved {mine : Nat → Bool} (go : State → Queue → TaskDesc → State)
    (hgoes : (taskDesc d).order = false ∨ x.busy = 0) (hres : (taskDesc d).reservedOk = false) (hmine : mine (taskDesc d).kind = true) :
    withDesc s e c q d mine go = endTask (fetchDesc s e c q x (taskDesc d)) e c Config.BAD_OPERAND true := by
  unfold withDesc
  dsimp only
  rw [if_pos (by simp [hlive, he, hc, hidle, hnext, hmine]), hqueue]
  exact (if_neg (by rcases hgoes with h | h <;> simp [h])).trans (if_pos (by simp [hres]))

end Fetch

/-- Settles O16: a descriptor that may be fetched waits, is refused for a reserved field, or runs its kind's own part, whose checks the
arguments pass. -/
theorem descriptorsRun : Obligations.DescriptorsRun := by
  intro s e c q x d i
  refine fun hl he hc hidle hnext hq => ⟨fun ho hb hi => ?_, fun hgoes => ⟨fun hr hi => ?_, fun hr => ?_⟩⟩
  · obtain ⟨mine, go, hx, hm⟩ := exec_descriptorCommand hi s
    exact hx.trans (congrArg _ (withDesc_holds hl he hc hidle hnext hq go ho hb hm))
  · obtain ⟨mine, go, hx, hm⟩ := exec_descriptorCommand hi s
    exact hx.trans (congrArg _ (withDesc_reserved hl he hc hidle hnext hq go hgoes hr hm))
  have runs {i : Instr} {mine : Nat → Bool} {go : State → Queue → TaskDesc → State} {u : State}
      (hx : exec i s = .next (withDesc s e c q d mine go)) (hm : mine (taskDesc d).kind = true)
      (hu : go (fetchDesc s e c q x (taskDesc d)) x (taskDesc d) = u) : exec i s = .next u :=
    hx.trans (congrArg _ ((withDesc_runs mine go hl he hc hidle hnext hq hgoes hr hm).trans hu))
  refine ⟨fun hk => runs rfl ?_ (if_neg (by omega)), fun hk => runs rfl (by simp [hk]) (if_pos hk),
    fun hk h1 h9 hadm => runs rfl (by simp [hk]) ?_, fun hk h32 hres hq' hnone hd hd' hcl hcl' hb hlab hpool => runs rfl (by simp [hk]) ?_,
    fun hk h32 hv hv' hsome hsame => runs rfl (by simp [hk]) ?_, fun hk h32 hadm hb hn hcheck hin => runs rfl (by simp [hk]) ?_⟩
  · rcases hk with h | h <;> simp [h]
  · have hn : (taskDesc d).entry % 256 = (taskDesc d).entry := Nat.mod_eq_of_lt (by omega)
    refine (if_neg (by omega)).trans ((if_neg ?_).trans ((if_neg ?_).trans (by rw [hn])))
    · rcases hadm with h | h <;> simp [hn, h]
    · omega
  · refine (if_neg ?_).trans ((if_neg ?_).trans ((if_neg (by omega)).trans rfl))
    · rintro (h | h | h | h | h | h | h | h | h)
      case inr.inl => cases hres.symm.trans h
      case inr.inr.inr.inl => cases (congrArg Option.isSome hnone).symm.trans h
      all_goals omega
    · rcases hlab with h | h
      · simp [h]
      · rw [h, bne_self_eq_false, Bool.and_false]
        exact Bool.false_ne_true
  · refine (if_neg ?_).trans ((if_neg (by rw [hsame]; decide)).trans rfl)
    rintro (h | h | h | h)
    case inr.inr.inr => cases (Option.isNone_eq_false_iff.mpr hsome).symm.trans h
    all_goals omega
  · exact (if_neg (by omega)).trans ((if_neg (by simp [hadm])).trans ((if_neg (by omega)).trans
      ((if_neg (Classical.not_not.mpr hcheck)).trans ((if_neg (ne_true_of_eq_false hin)).trans rfl))))

/-! ## Completion entries and notifications -/

/-- A session's oldest record leaves; at 192 records or fewer an OVERFLOW record follows those dropped (R309). -/
theorem ntfSend_eq {s : State} {p n : Nat} {r : Ntf} {rest : List Ntf} (hrunning : s.running = true) (hup : (s.port p).up = true)
    (hopen : (s.sess p n).isOpen = true) (hntf : (s.sess p n).ntfq = r :: rest) :
    ntfSend s p n =
      if rest.length ≤ 192 ∧ 0 < (s.sess p n).dropped then
        sendMsg (s.updSess p n (fun y => { y with
          ntfq := rest ++ [⟨0x06, Config.OK, 8 * p + n, false, (s.sess p n).dropped, s.recs.pcc, s.recs.opsec⟩], dropped := 0 })) p
          (.ntf n r)
      else sendMsg (s.updSess p n (fun y => { y with ntfq := rest })) p (.ntf n r) := by
  unfold ntfSend
  dsimp only
  rw [if_neg (by simp [hrunning, hup, hopen]), hntf]
  dsimp only
  split
  · rfl
  · rw [List.append_nil]
    rfl

/-- Settles O17: a completion is written where the ring has space; a record is sent, and an OVERFLOW record follows where some were
dropped. -/
theorem completionsAndNotifications : Obligations.CompletionsAndNotifications := by
  intro s e c p n q r rest x nt written d
  refine ⟨fun hl hs hq hu => congrArg Host.Outcome.next ?_, fun hr hup ho hn => ⟨fun h => congrArg Host.Outcome.next ?_,
    fun h h' => congrArg Host.Outcome.next ?_⟩⟩
  · refine (if_neg ?_).trans ?_
    · simp only [hl, show (s.ctx e c).state = 5 from hs]
      decide
    · rw [show s.queue (s.ctx e c).queue = some q from hq]
      exact if_neg (by omega)
  · exact (ntfSend_eq hr hup ho hn).trans (if_neg (by omega))
  · exact (ntfSend_eq hr hup ho hn).trans (if_pos ⟨h', h⟩)

end Sys2Proof.Proofs

/-! PROOFS. Decodes of media reads, recovery of words, the end of a fill, token buckets (R113, R120, R126, R176, R179, R182, R264, R394, R431). -/

namespace Sys2Proof.Proofs

open Sys2Proof Sys2Proof.Machine Sys2Proof.Laws

/-! ## Decodes -/

/-- A decode of a slot fails (R181, R182, R200). -/
def DecodeFails (s : State) (line : Nat) (f : Fill) (r : Decoded) : Prop :=
  s.readable line f.ppn = false ∨ r = .uncorrectable ∨ (r = .tagSlot ∧ s.tagged f = true)

section Decode

variable {s : State} {line : Nat} {f : Fill} (hlive : s.live = true) (hfind : Tbl.find s.cache.fills line = some f)
  (hissued : f.issued = true) (hres : f.res = none)
include hlive hfind hissued hres

/-- The first decode of a slot corrects what it finds. -/
theorem mediaReadDecoded_ok {bits : Nat} (hstage : f.stage = 0) (hread : s.readable line f.ppn = true) (hbits : bits ≤ 16) :
    mediaReadDecoded s line (.ok bits) =
      if (s.frame (fxOf f.ppn)).mode = 2 ∧ f.eager = true ∧ bits ≠ 0 then
        fillDecoded (cancelReRead (count s 0x0C (s.home (line / 16)) none 1) line) line f bits 0
      else fillDecoded s line f bits 0 := by
  simp [mediaReadDecoded, hfind, hlive, hissued, hres, hstage, hread, Nat.not_lt.mpr hbits, and_assoc]

/-- The first decode of a slot fails. -/
theorem mediaReadDecoded_fails {r : Decoded} (hstage : f.stage = 0) (h : DecodeFails s line f r) :
    mediaReadDecoded s line r =
      if (s.frame (fxOf f.ppn)).mode = 2 then startReRead s line f 1 else endRead (poisonLine s line) line Config.UNCORRECTABLE 0 := by
  have failed : (if (s.frame (fxOf f.ppn)).mode == 2 then startReRead s line f 1
      else endRead (poisonLine s line) line Config.UNCORRECTABLE 0)
      = if (s.frame (fxOf f.ppn)).mode = 2 then startReRead s line f 1
        else endRead (poisonLine s line) line Config.UNCORRECTABLE 0 := by
    simp only [beq_iff_eq]
  unfold mediaReadDecoded
  rw [hfind]
  dsimp only
  rw [if_neg (by simp [hlive, hissued, hres, hstage])]
  obtain h | rfl | ⟨rfl, ht⟩ := h
  · rw [h]
    exact failed
  · cases s.readable line f.ppn <;> exact failed
  · cases s.readable line f.ppn
    · exact failed
    · exact (if_pos ht).trans failed

/-- The state of a fill after a re-read has measured its shifts. -/
def measured (s : State) (line : Nat) (shifts : List Int) : State :=
  s.onCache (fun c => { c with fills := Tbl.upd c.fills line (fun f => if f.stage = 1 then { f with offsets := shifts } else f) })

/-- A re-read corrects what it finds. -/
theorem reReadDone_ok {bits : Nat} (shifts : List Int) (hstage : f.stage ≠ 0) (hread : s.readable line f.ppn = true)
    (hbits : bits ≤ 16) :
    reReadDone s line (.ok bits) shifts =
      let u := measured s line shifts
      fillDecoded (if f.stage = 1 then cancelReRead u line else u) line f bits f.stage := by
  have hread' : (measured s line shifts).readable line f.ppn = true := hread
  unfold reReadDone
  rw [hfind]
  dsimp only
  rw [if_neg (by simp [hlive, hissued, hres, hstage]), ← measured, hread', if_pos rfl]
  exact if_neg (Nat.not_lt.mpr hbits)

/-- A re-read fails: the second one loses the line. -/
theorem reReadDone_fails {r : Decoded} (shifts : List Int) (hstage : f.stage ≠ 0) (h : DecodeFails s line f r) :
    reReadDone s line r shifts =
      let u := measured s line shifts
      if f.stage = 1 then
        startReRead (u.updChan (s.home (line / 16)) (fun c =>
          { c with rrCount := (c.rrCount + 1) % 2 ^ 16, laneBus := c.laneBus || f.lane })) line f 2
      else endRead (poisonLine u line) line Config.UNCORRECTABLE 0 := by
  have h' : DecodeFails (measured s line shifts) line f r := h
  unfold reReadDone
  rw [hfind]
  dsimp only
  rw [if_neg (by simp [hlive, hissued, hres, hstage]), ← measured]
  obtain h | rfl | ⟨rfl, ht⟩ := h'
  · rw [h]
    rfl
  · cases (measured s line shifts).readable line f.ppn <;> rfl
  · cases (measured s line shifts).readable line f.ppn
    · rfl
    · exact if_pos ht

end Decode

/-- A decode that succeeds ends the read with the plain line. -/
theorem fillDecoded_plain {s : State} {line : Nat} {f : Fill} {d : Line} {poison : Bool} (bits reread : Nat)
    (h : s.plainAt line f.ppn = some (d, poison)) :
    fillDecoded s line f bits reread
      = endRead (noteDecode s line f.ppn bits reread) line (if poison then Config.POISON else Config.OK) d := by
  unfold fillDecoded
  rw [h]

/-- Counting keeps the plain line. -/
theorem plainAt_count (s : State) (ev unit : Nat) (label : Option Nat) (n line ppn : Nat) :
    (count s ev unit label n).plainAt line ppn = s.plainAt line ppn := by
  obtain ⟨r, b, g, l, k, h⟩ := (CountersOnly.refl s).count ev unit label n
  rw [h]
  rfl

/-- Cancelling a re-read keeps the plain line. -/
theorem plainAt_cancelReRead (s : State) (l line ppn : Nat) : (cancelReRead s l).plainAt line ppn = s.plainAt line ppn := by
  unfold cancelReRead
  exact plainAt_count _ _ _ _ _ _ _

/-- Settles O18: each decode branches on the stage of the fill, on what the slot decodes to, and on the mode of its frame; each recovery on
what is to be recovered. -/
theorem mediaReads : Obligations.MediaReads := by
  refine ⟨fun s line bits f d poison r shifts => ?_, fun s fx page => ?_⟩
  · have hplain : (measured s line shifts).plainAt line f.ppn = s.plainAt line f.ppn := rfl
    refine fun hl hf hi hr => ⟨fun hread hb hp => ⟨fun h0 ha => congrArg Host.Outcome.next ?_, fun h0 ha => congrArg Host.Outcome.next ?_,
        fun h1 => congrArg Host.Outcome.next ?_, fun h2 => congrArg Host.Outcome.next ?_⟩,
      fun hfail => ⟨fun h0 ht => congrArg Host.Outcome.next ?_, fun h0 ht => congrArg Host.Outcome.next ?_,
        fun h1 => congrArg Host.Outcome.next ?_, fun h2 => congrArg Host.Outcome.next ?_⟩,
      fun hread h0 ht => congrArg Host.Outcome.next ?_, fun hread h0 ha => congrArg Host.Outcome.next ?_⟩
    · rw [mediaReadDecoded_ok hl hf hi hr h0 hread hb, if_neg ha, fillDecoded_plain _ _ hp]
    · rw [mediaReadDecoded_ok hl hf hi hr h0 hread hb, if_pos ha,
        fillDecoded_plain _ _ (by rw [plainAt_cancelReRead, plainAt_count, hp])]
    · refine (reReadDone_ok hl hf hi hr shifts (by omega) hread hb).trans ?_
      dsimp only
      rw [if_pos h1, h1]
      exact fillDecoded_plain _ _ ((plainAt_cancelReRead _ _ _ _).trans (hplain.trans hp))
    · refine (reReadDone_ok hl hf hi hr shifts (by omega) hread hb).trans ?_
      dsimp only
      rw [if_neg (by omega), h2]
      exact fillDecoded_plain _ _ (hplain.trans hp)
    · exact (mediaReadDecoded_fails hl hf hi hr h0 hfail).trans (if_pos ht)
    · exact (mediaReadDecoded_fails hl hf hi hr h0 hfail).trans (if_neg ht)
    · exact (reReadDone_fails hl hf hi hr shifts (by omega) hfail).trans (if_pos h1)
    · exact (reReadDone_fails hl hf hi hr shifts (by omega) hfail).trans (if_neg (by omega))
    · unfold mediaReadDecoded
      rw [hf]
      dsimp only
      rw [if_neg (by simp [hl, hi, hr, h0]), hread, if_pos rfl]
      exact if_pos ht
    · unfold mediaReadDecoded
      rw [hf]
      dsimp only
      rw [if_neg (by simp [hl, hi, hr, h0]), hread, if_pos rfl]
      exact if_pos ha
  · refine fun hl => ⟨fun h => congrArg Host.Outcome.next (if_pos ?_), fun h => congrArg Host.Outcome.next ?_,
      fun h hw hm => congrArg Host.Outcome.next ?_, fun h => congrArg Host.Outcome.next (if_pos (by simp [hl, h]))⟩
    · rw [hl, h]
      rfl
    · exact (if_pos (by rw [hl, h]; rfl)).trans (if_pos rfl)
    · refine (if_pos (by rw [hl, h]; rfl)).trans ((if_neg Bool.false_ne_true).trans (if_neg ?_))
      rw [hw, Bool.false_or]
      cases hfind : Tbl.find s.maps.moves page with
      | none => exact Bool.false_ne_true
      | some m => simpa using hm m hfind

/-! ## The end of a fill -/

/-- A fill whose outcome stands completes, and what waited for it goes on. -/
theorem exec_fillComplete {s : State} {line st : Nat} {f : Fill} {t : State} (hlive : s.live = true)
    (hfind : Tbl.find s.cache.fills line = some f) (hres : f.res = some st) (ht : fillFinish s line = t) :
    exec (.fillComplete line) s = .next (settle t) := by
  refine congrArg Host.Outcome.next ((if_pos ?_).trans (congrArg settle ht))
  simp [hlive, hfind, hres]

/-- Settles O19: the end of a fill branches on its outcome, on the way it needs, and on the requests it leaves. -/
theorem fillsComplete : Obligations.FillsComplete := by
  intro s line st ch f s0 label ways clean full s1 g waits
  have crowded (h : clean = false ∨ full = false) : ¬(clean && full) = true := by
    rw [Bool.and_eq_true_iff]
    rintro ⟨hc, hf⟩
    obtain h | h := h
    · cases hc.symm.trans h
    · cases hf.symm.trans h
  refine ⟨fun hl hf => ⟨fun hr hst => exec_fillComplete hl hf hr ?_, fun hr => ⟨fun hb => exec_fillComplete hl hf hr ?_,
    fun hb => ⟨fun hc hful => exec_fillComplete hl hf hr ?_, fun hcf => ⟨fun hg => exec_fillComplete hl hf hr ?_,
      fun hg => exec_fillComplete hl hf hr ?_⟩⟩⟩⟩, rfl⟩
  all_goals
    unfold fillFinish
    rw [hf]
    dsimp only
    split
    · rename_i h
      cases hr.symm.trans h
    rename_i h
    cases hr.symm.trans h
  · exact if_pos hst
  · exact (if_neg (by decide)).trans (if_pos hb)
  · exact (if_neg (by decide)).trans ((if_neg (ne_true_of_eq_false hb)).trans (if_pos (Bool.and_eq_true_iff.mpr ⟨hc, hful⟩)))
  · exact (if_neg (by decide)).trans ((if_neg (ne_true_of_eq_false hb)).trans ((if_neg (crowded hcf)).trans
      (if_pos (List.isEmpty_iff.mpr hg))))
  · exact (if_neg (by decide)).trans ((if_neg (ne_true_of_eq_false hb)).trans ((if_neg (crowded hcf)).trans
      (if_neg (fun h => hg (List.isEmpty_iff.mp h)))))

/-! ## Token buckets -/

/-- Every bucket of a list holds its depth at most. -/
def BucketsWithin (l : Tbl Bucket) : Prop := ∀ p ∈ l, p.2.tokens ≤ 1024 * p.2.depth

/-- A refill never passes the depth. -/
theorem tokens_refill_le (b : Bucket) : b.refill.tokens ≤ 1024 * b.refill.depth :=
  Nat.min_le_left _ _

/-- A charge keeps every bucket within its depth: it leaves the buckets or lowers one. -/
theorem bucketsWithin_takeTokens {s t : State} {master label bytes : Nat} (h : BucketsWithin s.regul.buckets)
    (ht : takeTokens s master label bytes = some t) : BucketsWithin t.regul.buckets := by
  unfold takeTokens at ht
  cases hfind : Tbl.find s.regul.buckets (bucketKey master label) with
  | none =>
    rw [hfind] at ht
    cases ht
    exact h
  | some b =>
    rw [hfind] at ht
    dsimp only at ht
    split at ht
    · cases ht
      exact h
    · split at ht
      · cases ht
        intro p hp
        obtain rfl | hp := tbl_mem_put hp
        · exact Nat.le_trans (Nat.sub_le _ _) (h _ (mem_of_find hfind))
        · exact h p hp
      · cases ht

/-- Settles O20: a period refills every bucket; a refill is clipped to the depth, and a charge lowers what a bucket holds. -/
theorem tokenBuckets : Obligations.TokenBuckets := by
  refine ⟨fun s => ⟨fun h => congrArg Host.Outcome.next (if_pos h), fun h => congrArg Host.Outcome.next (if_neg (ne_true_of_eq_false h))⟩,
    fun b rate depth => ⟨fun hn ht => ?_, fun hn => ?_, tokens_refill_le b⟩, fun s t master label bytes k b hall ht hmem => ?_⟩
  · unfold Bucket.refill
    rw [hn, Option.getD_none]
    dsimp only
    rw [Nat.min_eq_right ht]
  · unfold Bucket.refill
    rw [hn]
    exact ⟨rfl, rfl, rfl⟩
  · exact bucketsWithin_takeTokens (fun p hp => of_decide_eq_true (List.all_eq_true.mp hall p hp)) ht (k, b) hmem

end Sys2Proof.Proofs

/-! PROOFS. Streams: the STRM instructions, fetch and release (R186 to R188, R318 to R323). -/

namespace Sys2Proof.Proofs

open Sys2Proof Sys2Proof.Machine Sys2Proof.Laws

/-! ## Instructions -/

/-- A house routine whose next step answers a state. -/
theorem exec_inHouse {i : Instr} {s t : State} {e c n : Nat} {body : State → Nat → State} (h : s.inHouse e c n = true)
    (hx : exec i s = .next (houseStepOf s e c n body)) (ht : body (took s e c) (s.ctx e c).houseStep = t) : exec i s = .next t :=
  hx.trans (congrArg Host.Outcome.next ((houseStepOf_inHouse body h).trans ht))

/-- Taking a step leaves the contexts as they are. -/
theorem ctx_took (s : State) (e c i j : Nat) : (took s e c).ctx i j = s.ctx i j := rfl

/-- Settles O21: each instruction branches on the stream that it names, its state and its owner; a definition on the tests of R318 and
R321, and then on what the admission answers. -/
theorem streamInstructions : Obligations.StreamInstructions := by
  refine ⟨fun s e c n w hn => ?_, fun s e c a lines w q g => ?_, fun s u e c n region port session rate m code detail chans g r => ?_⟩
  · subst hn
    refine ⟨fun hi => ⟨fun hs => exec_issued_op hi rfl ?_, fun y hs ho => exec_issued_op hi rfl ?_,
        fun y hs ho => ⟨fun h2 => exec_issued_op hi rfl ?_, fun h2 => exec_issued_op hi rfl ?_⟩⟩,
      fun hi hb => ⟨fun hs => exec_issued hi (op_and_option hi (by simp [hb])) rfl ?_,
        fun y hs => ⟨fun ho => exec_issued hi (op_and_option hi (by simp [hb])) rfl ?_,
          fun ho => exec_issued hi (op_and_option hi (by simp [hb])) rfl ?_⟩⟩,
      fun hi hb => ⟨fun hs => exec_issued hi (op_and_option hi hb) rfl ?_,
        fun y hs => ⟨fun ho => exec_issued hi (op_and_option hi hb) rfl ?_, fun ho => exec_issued hi (op_and_option hi hb) rfl ?_⟩⟩,
      fun hi => ⟨fun hk => exec_issued_op hi rfl (if_pos hk), fun hk hs => exec_issued_op hi rfl ?_,
        fun y hk hs => exec_issued_op hi rfl ?_⟩⟩
    · simp [strmGo, hs]
    · simp [strmGo, hs, ho]
    · simp [strmGo, hs, ho, h2]
    · simp [strmGo, hs, ho, h2]
    · simp [strmStopBody, hs]
    · simp [strmStopBody, hs, ho]
    · simp [strmStopBody, hs, ho]
    · simp [strmStopDropBody, hs]
    · simp [strmStopDropBody, hs, ho]
    · simp [strmStopDropBody, hs, ho]
    · simp [strmStatBody, hs, Nat.not_le.mpr hk]
    · simp [strmStatBody, hs, Nat.not_le.mpr hk]
  · refine ⟨fun hi ha h15 h31 h127 h255 hbest hfull hok hal hbuf hres hg hind => exec_issued_op hi rfl ?_,
      fun hi h0 hq hfull hok hg hz => exec_inHouse hi rfl ?_, fun z hi h1 hs ho h2 => exec_inHouse hi rfl ?_⟩
    · unfold strmDefBody
      dsimp only
      rw [ha]
      dsimp only
      rw [if_neg (by simp), if_neg, if_neg, hok]
      · dsimp only
        rw [if_neg (by omega), if_neg (by simp [hbuf]), if_neg]
        rintro (h | h | ⟨h, h'⟩)
        · exact h hres
        · cases hg.symm.trans h
        · cases (hind h).symm.trans h'
      · obtain h | h := hfull <;> simp [h]
      · rintro (h | h | h | h | ⟨h, h'⟩)
        · exact h h15
        · exact h h31
        · exact h h127
        · exact h h255
        · cases (hbest h).symm.trans h'
    · unfold streamLoopStep
      rw [h0]
      dsimp only
      rw [ctx_took, hq]
      dsimp only
      rw [hfull, if_neg (by simp), hok]
      dsimp only
      rw [hg]
      exact if_neg (Classical.not_not.mpr hz)
    · unfold streamLoopStep
      rw [h1]
      simp [strmGo, ctx_took, hs, ho, h2]
  · refine ⟨?_, fun h => ?_, fun h => ?_⟩
    · simp [defineStrm]
    · simp [defineStrm, h]
    · simp [defineStrm, h]

/-! ## Fetches and flits -/

/-- The check of a flit before it leaves: none of its seven hindrances stands. -/
theorem flit_leaves {live ready emit later : Bool} {st : Nat} {ended early : Prop} [Decidable ended] [Decidable early]
    (hlive : live = true) (hst : st = 2) (hended : ¬ended) (hready : ready = true) (hemit : emit = true) (hlater : later = false)
    (hearly : ¬early) :
    ¬(!live || decide (st ≠ 2) || decide ended || !ready || !emit || later || decide early) = true := by
  simp [hlive, hst, hended, hready, hemit, hlater, hearly]

/-- Settles O22: a fetch is issued when it is due, of a line within the region; a flit is released when its lines, its time and the credit
are there. -/
theorem streamsRun : Obligations.StreamsRun := by
  intro s n x r dram
  have noneLeft {l : List Msg} (h : l.all (fun q => q.vc != 2) = true) : l.any (fun q => q.vc == 2) = false := by
    simpa [List.any_eq_false, bne_iff_ne] using h
  refine fun hl hs h2 => ⟨fun hdue hin => congrArg Host.Outcome.next ?_, fun hdue hout => congrArg Host.Outcome.next ?_,
    fun hr hend => congrArg Host.Outcome.next ?_, fun hr ht hm => congrArg Host.Outcome.next ?_⟩
  · obtain ⟨hrun, htime, hreg⟩ := hdue
    unfold streamFetchIssue
    rw [hs]
    dsimp only
    rw [if_neg (by simp [hl, h2, hrun, htime]), hreg]
    exact if_neg (Nat.not_le.mpr hin)
  · obtain ⟨hrun, htime, hreg⟩ := hdue
    unfold streamFetchIssue
    rw [hs]
    dsimp only
    rw [if_neg (by simp [hl, h2, hrun, htime]), hreg]
    exact if_pos hout
  · obtain ⟨hlo, hhave, hemit, hvc, htime⟩ := hr
    unfold streamFlitRelease
    rw [hs]
    exact (if_neg (flit_leaves hl h2 (Nat.not_le.mpr hlo) hhave hemit (noneLeft hvc) (Nat.not_lt.mpr htime))).trans
      ((if_neg hend).trans rfl)
  · obtain ⟨hlo, hhave, hemit, hvc, htime⟩ := hr
    unfold streamFlitRelease
    rw [hs]
    exact (if_neg (flit_leaves hl h2 (Nat.not_le.mpr hlo) hhave hemit (noneLeft hvc) (Nat.not_lt.mpr htime))).trans
      ((if_pos ⟨ht, hm⟩).trans rfl)

end Sys2Proof.Proofs

/-! PROOFS. Region, map and cache instructions (R48 to R52, R114 to R133, R245, R332). -/

namespace Sys2Proof.Proofs

open Sys2Proof Sys2Proof.Machine Sys2Proof.Laws

/-! ## Regions -/

/-- A region instruction that has its turn runs as its word says. -/
theorem rgn_runs {s t : State} {e c : Nat} (h : s.rgnMay e c = true) :
    (.next (if s.rgnMay e c then t else s) : Out) = .next t :=
  congrArg Host.Outcome.next (if_pos h)

/-- Settles O23: a region change branches on the checks of its region; one that has not its turn keeps the state. -/
theorem regionChanges : Obligations.RegionChanges := by
  intro s e c a n w o r
  refine ⟨fun hm => ⟨fun hi ha hok hact => ⟨fun hd => ?_, fun hd => ?_⟩,
      fun hi ha hok hact => ⟨fun ho hd => ?_, fun ho hd => ?_, fun ho => ?_⟩,
      fun hi hn => ⟨fun ho hs => ?_, fun ho hs => ?_, fun ho => ?_⟩⟩,
    fun hm i hi => ?_, fun hl hr hc hk hb => congrArg Host.Outcome.next ?_⟩
  · exact exec_issued_op hi (rgn_runs hm) (by simp [rgnDefBody, ha, hok, hact, hd])
  · exact exec_issued_op hi (rgn_runs hm) (by simp [rgnDefBody, ha, hok, hact, hd])
  · exact exec_issued_op hi (rgn_runs hm) (by simp [rgnAttrBody, ha, hok, hact, ho, hd])
  · exact exec_issued_op hi (rgn_runs hm) (by simp [rgnAttrBody, ha, hok, hact, ho, hd])
  · exact exec_issued_op hi (rgn_runs hm) (by simp [rgnAttrBody, ha, hok, hact, ho])
  · refine exec_issued_op hi (rgn_runs hm) ?_
    unfold rgnDropBody
    dsimp only
    rw [hn, ho]
    exact if_neg (ne_true_of_eq_false hs)
  · refine exec_issued_op hi (rgn_runs hm) ?_
    unfold rgnDropBody
    dsimp only
    rw [hn, ho]
    exact if_pos hs
  · exact exec_issued_op hi (rgn_runs hm) (by simp [rgnDropBody, hn, ho])
  · simp only [List.mem_cons, List.not_mem_nil, or_false] at hi
    obtain rfl | rfl | rfl := hi
    all_goals exact congrArg Host.Outcome.next (if_neg (ne_true_of_eq_false hm))
  · unfold rgnDropDrainEnd
    rw [hr]
    refine (if_neg ?_).trans rfl
    simp [hl, hc, hb, hk]

/-! ## Map -/

/-- Whether a range from a host address on touches a region that the session of a context does not reach. -/
def awayRange (s : State) (e c a n : Nat) : Bool :=
  s.maps.regions.any (fun p => decide (p.2.base < a + max 1 n) && decide (a < p.2.base + p.2.size)
    && !reaches p.2 (s.queueAdmin (s.ctx e c).queue) (s.queueSessLabel (s.ctx e c).queue))

/-- Whole pages of one region (R51). -/
def WholePages (s : State) (a n : Nat) : Prop :=
  n ≠ 0 ∧ a % 4096 = 0 ∧ n % 4096 = 0 ∧ (s.regionRange a n).isSome = true

section Trim

variable {s : State} {e c a : Nat} {w : SWord} {poison : Bool} (ha : hostOf ((s.ctx e c).reg w.a) = some a)
include ha

/-- MAP.TRIM refuses a range out of reach, and POISON of a TENANT queue. -/
theorem trimBody_denied
    (h : (poison = true ∧ s.queueAdmin (s.ctx e c).queue = false) ∨ awayRange s e c a ((s.ctx e c).reg w.b).toNat = true) :
    trimBody poison e c s w = complete s e c Config.DENIED 0 := by
  unfold trimBody
  dsimp only
  rw [ha]
  refine if_pos ?_
  obtain ⟨hp, hq⟩ | h := h
  · rw [hp, hq]
    rfl
  · exact Bool.or_eq_true_iff.mpr (.inr h)

/-- MAP.TRIM of a range within reach trims whole pages of one region and refuses any other range. -/
theorem trimBody_reached (hp : poison = true → s.queueAdmin (s.ctx e c).queue = true)
    (haway : awayRange s e c a ((s.ctx e c).reg w.b).toNat = false) :
    (WholePages s a ((s.ctx e c).reg w.b).toNat →
      trimBody poison e c s w = trimRange s e c a ((s.ctx e c).reg w.b).toNat poison)
    ∧ (¬WholePages s a ((s.ctx e c).reg w.b).toNat → trimBody poison e c s w = complete s e c Config.BAD_OPERAND 0) := by
  have stands : ¬((poison && !s.queueAdmin (s.ctx e c).queue) || awayRange s e c a ((s.ctx e c).reg w.b).toNat) = true := by
    rw [haway]
    cases poison
    · simp
    · simp [hp rfl]
  unfold trimBody
  dsimp only
  rw [ha]
  refine ⟨fun h => (if_neg stands).trans (if_neg ?_), fun h => (if_neg stands).trans (if_pos (Classical.byContradiction fun hno => ?_))⟩
  · obtain ⟨hn, ha, hn', hr⟩ := h
    simp [hn, ha, hn', Option.isSome_iff_ne_none.mp hr]
  · simp only [not_or, Classical.not_not] at hno
    obtain ⟨hn, ha, hn', hr⟩ := hno
    exact h ⟨hn, ha, hn', by simpa [Option.isSome_iff_ne_none] using hr⟩

end Trim

/-- Settles O24: MAP.TRIM branches on reach and shape of its range, MAP.QUERY on the region of its page and the rebuild, CKPT on a
checkpoint under way. -/
theorem mapInstructions : Obligations.MapInstructions := by
  intro s e c a i w r
  refine ⟨fun ha => ⟨fun hi hb => ?_, fun hi hb => ?_, fun hi => ?_⟩, fun hi => ⟨fun hb => ?_, fun hb => ?_⟩⟩
  · have hm : (w.op == 0x33 && !w.bit 0) = true := op_and_option hi (by simp [hb])
    exact ⟨fun hw hs => exec_issued hi hm rfl ((trimBody_reached (poison := false) ha nofun hw).1 hs),
      fun hw => exec_issued hi hm rfl (trimBody_denied ha (.inr hw)),
      fun hw hs => exec_issued hi hm rfl ((trimBody_reached (poison := false) ha nofun hw).2 hs)⟩
  · have hm : (w.op == 0x33 && w.bit 0) = true := op_and_option hi hb
    exact ⟨fun hq hw hs => exec_issued hi hm rfl ((trimBody_reached (poison := true) ha (fun _ => hq) hw).1 hs),
      fun hw => exec_issued hi hm rfl (trimBody_denied ha (hw.imp_left (fun h => ⟨rfl, h⟩))),
      fun hq hw hs => exec_issued hi hm rfl ((trimBody_reached (poison := true) ha (fun _ => hq) hw).2 hs)⟩
  · exact ⟨fun hr hc hb => exec_issued_op hi rfl (by simp [mapQueryBody, ha, hr, hc, hb]),
      fun hr hc hb => exec_issued_op hi rfl (by simp [mapQueryBody, ha, hr, hc, hb]),
      fun hr => exec_issued_op hi rfl (by simp [mapQueryBody, ha, hr]),
      fun hr hc => exec_issued_op hi rfl (by simp [mapQueryBody, ha, hr, hc])⟩
  · exact exec_issued_op hi rfl (if_neg (by simpa using hb))
  · exact exec_issued_op hi rfl (if_pos (by simpa using hb))

/-! ## Cache -/

/-- Settles O25: each cache instruction branches on its range's check, on the lines that are dirty, and on whether caching is on. -/
theorem cacheInstructions : Obligations.CacheInstructions := by
  refine ⟨fun s e c b w => ?_, fun s e c lo hi st w dram => ?_⟩
  · refine ⟨fun hi hf => ?_, fun hi hf => exec_issued hi (op_and_option hi hf) rfl rfl, fun hi hf => ?_, fun hi hf => ?_, fun hi hb => ?_⟩
    · have hm : (w.op == 0x38 && !w.force) = true := op_and_option hi (by simp [hf])
      exact ⟨fun h => exec_issued hi hm rfl (if_pos h), fun h => exec_issued hi hm rfl (if_neg (ne_true_of_eq_false h))⟩
    · have hm : (w.op == 0x39 && !w.force) = true := op_and_option hi (by simp [hf])
      exact ⟨fun h => exec_issued hi hm rfl (if_pos (by simpa using h)),
        fun h hon => exec_issued hi hm rfl ((if_neg (by simpa using h)).trans (if_neg (by simp [hon]))),
        fun h hon => exec_issued hi hm rfl ((if_neg (by simpa using h)).trans (if_pos (by simp [hon])))⟩
    · have hm : (w.op == 0x39 && w.force) = true := op_and_option hi hf
      exact ⟨fun hon => exec_issued hi hm rfl (if_neg (by simp [hon])), fun hon => exec_issued hi hm rfl (if_pos (by simp [hon]))⟩
    · exact ⟨fun h => exec_issued_op hi rfl (by simp [cacheWaysBody, hb, h]),
        fun h => exec_issued_op hi rfl (by simp [cacheWaysBody, hb, h])⟩
  · refine ⟨fun hr => ⟨fun hi => ⟨fun h => ?_, fun h => ?_⟩, fun hi => ⟨fun h => ?_, fun h => ?_⟩,
      fun hi => ⟨fun h hd => ?_, fun h hf hd => ?_, fun h => ?_⟩⟩,
      fun hi hr => ⟨fun h hc hf hlt => ?_, fun h hc hf hle => ?_, fun h hc => ?_, fun h hc hf => ?_, fun h => ?_⟩,
      fun hi => exec_inHouse hi rfl rfl⟩
    all_goals refine exec_issued_op hi rfl ?_
    · simp [cacheFlushBody, startClean, hr, h]
    · simp [cacheFlushBody, hr, h]
    · simp [cacheCleanBody, startClean, hr, h]
    · simp [cacheCleanBody, hr, h]
    · unfold cacheInvalBody
      rw [hr]
      refine (if_neg (Classical.not_not.mpr h)).trans ((if_neg ?_).trans rfl)
      obtain h | h := hd
      · simp [h]
      · rw [h, Bool.and_false]
        decide
    · unfold cacheInvalBody
      rw [hr]
      refine (if_neg (Classical.not_not.mpr h)).trans (if_pos ?_)
      rw [hf, hd]
      rfl
    · simp [cacheInvalBody, hr, h]
    · simp [cacheZeroBody, hr, h, hc, hf, zeroNext, Nat.not_le.mpr hlt]
    · simp [cacheZeroBody, hr, h, hc, hf, zeroNext, Nat.not_lt.mpr hle]
    · simp [cacheZeroBody, hr, h, hc]
    · simp [cacheZeroBody, hr, h, hc, hf]
    · simp [cacheZeroBody, hr, h]

end Sys2Proof.Proofs

/-! PROOFS. Checkers, scrubs of a range and calibration (R193 to R196, R216, R226 to R229). -/

namespace Sys2Proof.Proofs

open Sys2Proof Sys2Proof.Machine Sys2Proof.Laws

/-! ## Checkers -/

section Raw

variable {s : State} {e c b : Nat} {w : SWord}

/-- MEDIA.RAWRD of a target and a buffer that stand. -/
theorem mediaRawrdBody_target (hb : s.bufArg (s.ctx e c).queue ((s.ctx e c).reg w.b) 384 = (b, Config.OK)) (hal : b % 64 = 0)
    (hok : (rawTarget ((s.ctx e c).reg w.a)).ok = true) (htgt : (rawTarget ((s.ctx e c).reg w.a)).tgt ≠ 3) :
    mediaRawrdBody e c s w =
      let r := rawTarget ((s.ctx e c).reg w.a)
      if r.tgt = 1 then rawDram s e c b r (w.bit 0) else rawMedium s e c b r (w.bit 0) (w.fld 7 4) := by
  simp [mediaRawrdBody, hb, hal, hok, htgt]

/-- A medium slot that is read raw without its decoder's report. -/
theorem rawMedium_plain {r : RawTarget} {recno : Nat} {slot : Option (List Nat)} (h : s.rawSlot r = some slot) :
    rawMedium s e c b r false recno =
      complete ((count (if slot.isNone then s.burn 288 else s) 0x08 r.unit none 1).bufStore b
        (toBytes (slot.getD (s.freeBytes 288)))) e c Config.OK 0 := by
  unfold rawMedium
  rw [h]
  rfl

/-- A medium slot that is read raw with its decoder's report. -/
theorem rawMedium_decoded {r : RawTarget} {recno : Nat} {slot : Option (List Nat)} {par : List Nat} (h : s.rawSlot r = some slot)
    (hp : (if slot.isNone then s.burn 288 else s).rawParity r recno (slot.getD (s.freeBytes 288)) = some par) :
    rawMedium s e c b r true recno =
      complete ((((count (if slot.isNone then s.burn 288 else s) 0x08 r.unit none 1).bufStore b
        (toBytes (slot.getD (s.freeBytes 288)))).burn 24).bufStore (b + 320)
        (decodeReport (bchErrors (codeword (slot.getD (s.freeBytes 288)) par)) 0)) e c Config.OK 0 := by
  unfold rawMedium
  rw [h]
  dsimp only
  rw [if_pos rfl, hp]
  rfl

/-- MEDIA.RAWWR of a slot of the scratch frame. -/
theorem mediaRawwrBody_scratch (hb : s.bufArg (s.ctx e c).queue ((s.ctx e c).reg w.b) 288 = (b, Config.OK))
    (hok : (rawTarget ((s.ctx e c).reg w.a)).ok = true) (htgt : (rawTarget ((s.ctx e c).reg w.a)).tgt = 0) :
    mediaRawwrBody e c s w = rawProgram s e c b (rawTarget ((s.ctx e c).reg w.a)) (w.bit 0) := by
  simp [mediaRawwrBody, hb, hok, htgt]

end Raw

/-- No unit is named by an empty mask. -/
theorem maskBits_zero : maskBits 16 0 = [] ∧ maskBits 4 0 = [] := by decide

/-- Settles O26: a raw access branches on its target, a program on whether its slot is free, MEDIA.RETIRE on the frame's state, CAL.RUN on
the units that are in a run. -/
theorem checkerInstructions : Obligations.CheckerInstructions := by
  intro s e c b w slot par
  refine ⟨fun hi hb hal hok => ⟨fun ht hu hs => ⟨fun hd => exec_issued_op hi rfl ?_, fun hd => exec_issued_op hi rfl ?_⟩,
      fun ht hs => ⟨fun hd => exec_issued_op hi rfl ?_, fun hd hp => exec_issued_op hi rfl ?_⟩, fun ht hs => exec_issued_op hi rfl ?_⟩,
    fun hi hok ht hb hu hs => exec_issued_op hi rfl ?_,
    fun hi hok ht hb hu hs => ⟨fun h => exec_issued_op hi rfl ?_, fun h hw => exec_issued_op hi rfl ?_⟩,
    fun hi hk hbd hch => ⟨fun hst => exec_issued_op hi rfl ?_, fun hst => exec_issued_op hi rfl ?_⟩,
    fun hi hm hp => ⟨fun hr => exec_issued_op hi rfl ?_, fun h0 h0' => exec_issued_op hi rfl ?_, fun hr hn => exec_issued_op hi rfl ?_⟩⟩
  · refine (mediaRawrdBody_target hb hal hok (by omega)).trans ((if_pos ht).trans ?_)
    rw [hd]
    exact if_neg (by omega)
  · refine (mediaRawrdBody_target hb hal hok (by omega)).trans ((if_pos ht).trans ?_)
    rw [hd]
    exact if_neg (by omega)
  · refine (mediaRawrdBody_target hb hal hok (by omega)).trans ((if_neg (by omega)).trans ?_)
    rw [hd]
    exact rawMedium_plain hs
  · refine (mediaRawrdBody_target hb hal hok (by omega)).trans ((if_neg (by omega)).trans ?_)
    rw [hd]
    exact rawMedium_decoded hs hp
  · refine (mediaRawrdBody_target hb hal hok (by omega)).trans ((if_neg (by omega)).trans ?_)
    unfold rawMedium
    rw [hs]
  · simp [mediaRawwrBody, rawWord, ht, hb, hok, Nat.not_le.mpr hu, Nat.not_le.mpr hs]
  · refine (mediaRawwrBody_scratch hb hok ht).trans ((if_neg ?_).trans rfl)
    rintro (h' | h' | h')
    · omega
    · omega
    · obtain ⟨h1, h2⟩ := Bool.and_eq_true_iff.mp h'
      obtain h | h := h
      · cases h.symm.trans h1
      · rw [h] at h2
        cases h2
  · refine (mediaRawwrBody_scratch hb hok ht).trans (if_pos (.inr (.inr ?_)))
    rw [h, hw]
    rfl
  · refine (if_neg ?_).trans (if_neg (Nat.not_le.mpr hst))
    simp [hk, hbd, hch]
  · refine (if_neg ?_).trans (if_pos hst)
    simp [hk, hbd, hch]
  · exact (if_neg (by omega)).trans (if_pos hr)
  · refine (if_neg (by omega)).trans ((if_neg ?_).trans (if_pos ⟨h0, h0'⟩))
    rw [h0, h0', maskBits_zero.1, maskBits_zero.2]
    exact Bool.false_ne_true
  · exact (if_neg (by omega)).trans ((if_neg (ne_true_of_eq_false hr)).trans (if_neg (by omega)))

/-! ## Scrubs of a range -/

/-- The shape of a range that R216 allows, as its checks test it. -/
theorem wholePages_iff {α : Type} {n lo b : Nat} {o : Option α} :
    ¬(n = 0 ∨ lo % 4096 ≠ 0 ∨ n % 4096 ≠ 0 ∨ o.isNone = true ∨ b % 64 ≠ 0)
      ↔ n ≠ 0 ∧ lo % 4096 = 0 ∧ n % 4096 = 0 ∧ o.isSome = true ∧ b % 64 = 0 := by
  cases o <;> simp

section Scrub

variable {s : State} {e c lo b i us : Nat} {va vb vc : W64} {r : Region} (f : ScrubFinds)
  (hlo : hostOf va = some lo) (hr : s.regionAt lo = some (i, r)) (hb : s.bufArg (s.ctx e c).queue vc 64 = (b, Config.OK))
include hlo hr hb

/-- A range that its session reaches: one that R216 allows is scrubbed, any other one refused. -/
theorem scrubRange_reached (hreach : reaches r (s.queueAdmin (s.ctx e c).queue) (s.queueSessLabel (s.ctx e c).queue) = true) :
    scrubRange e c f us s va vb vc =
      let len := vb.toNat
      if len = 0 ∨ lo % 4096 ≠ 0 ∨ len % 4096 ≠ 0 ∨ (s.regionRange lo len).isNone ∨ b % 64 ≠ 0 then
        complete s e c Config.BAD_OPERAND 0
      else
        let n := min len (2 ^ 36)
        let st := if n < len then Config.PARTIAL else Config.OK
        let pages := (s.maps.map.filter (fun p => decide (lo ≤ p.1 * 4096) && decide (p.1 * 4096 < lo + n))).map (·.1)
        let u := pages.foldl (scrubPage f) (s, {})
        complete (u.1.bufStore b (scrubSummary lo n (n / 4096 - pages.length) us st u.2)) e c st 0 := by
  unfold scrubRange
  dsimp only
  rw [hb, hlo]
  dsimp only
  rw [hr]
  dsimp only
  rw [hreach]
  refine (if_neg (by decide)).trans (ite_congr rfl (fun _ => rfl) fun _ => ?_)
  exact if_neg (by simp)

/-- A range that its session does not reach is refused. -/
theorem scrubRange_away (hreach : reaches r (s.queueAdmin (s.ctx e c).queue) (s.queueSessLabel (s.ctx e c).queue) = false) :
    scrubRange e c f us s va vb vc = complete s e c Config.DENIED 0 := by
  unfold scrubRange
  dsimp only
  rw [hb, hlo]
  dsimp only
  rw [hr]
  dsimp only
  rw [hreach]
  exact if_pos rfl

end Scrub

/-- Settles O27: a scrub of a range branches on the reach of its session and on the shape of the range. -/
theorem scrubRanges : Obligations.ScrubRanges := by
  intro s e c lo b us i w found hdrs shifts r
  refine ⟨fun hi hlo hr hb => ⟨fun hreach => ⟨fun h => exec_issued_op hi rfl ?_, fun h => exec_issued_op hi rfl ?_⟩,
      fun hreach => exec_issued_op hi rfl (scrubRange_away _ hlo hr hb hreach)⟩,
    fun hi hfull hlo hr hreach h hb => exec_inHouse hi rfl ?_⟩
  · exact (scrubRange_reached _ hlo hr hb hreach).trans (if_neg (wholePages_iff.mpr h))
  · exact (scrubRange_reached _ hlo hr hb hreach).trans (if_pos (Classical.not_not.mp (mt wholePages_iff.mp h)))
  · exact (if_neg (by rw [hfull]; decide)).trans
      ((scrubRange_reached _ hlo hr hb hreach).trans (if_neg (wholePages_iff.mpr h)))

/-! ## Calibration -/

/-- Settles O28: runs start when they are due; a result of a unit that is in a run stands, or leaves it as it was. -/
theorem calibrations : Obligations.Calibrations := by
  intro s unit
  refine fun hl => ⟨fun hf hw hc hp => congrArg Host.Outcome.next (if_pos (by simp [hl, hf, hw, hc, hp])),
    fun hf hd => congrArg Host.Outcome.next (if_pos (by simp [hl, hf, hd])),
    fun h => ⟨congrArg Host.Outcome.next ?_, congrArg Host.Outcome.next ?_⟩,
    fun h => ⟨congrArg Host.Outcome.next ?_, congrArg Host.Outcome.next ?_⟩⟩
  all_goals exact (if_neg (by simpa [hl] using h)).trans rfl

end Sys2Proof.Proofs

/-! PROOFS. Labels and limits, arbiters, the ledger and its slot tables (R257 to R292). -/

namespace Sys2Proof.Proofs

open Sys2Proof Sys2Proof.Machine Sys2Proof.Laws

/-! ## Labels -/

/-- Bit 12 of a queue number is clear. -/
theorem bitOf_queue {v : Nat} (h : v < 2 ^ 12) : bitOf v 12 = false := by
  rw [bitOf, Nat.shiftRight_eq_div_pow, Nat.div_eq_of_lt h]
  rfl

section Label

variable {s : State} {e c : Nat} {w : SWord}

/-- What a TENANT queue may label: a queue of its own session, with its session's label (R257). -/
def MayLabel (s : State) (e c : Nat) (w : SWord) : Prop :=
  s.queueAdmin (s.ctx e c).queue = true ∨ (bitOf ((s.ctx e c).reg w.a).toNat 12 = false
    ∧ s.sameSession (s.ctx e c).queue (((s.ctx e c).reg w.a).toNat % 4096) = true
    ∧ w.fld 13 8 = s.queueSessLabel (s.ctx e c).queue)

/-- The check of LBL.SET is the one of R257. -/
theorem mayLabel_iff :
    ¬(!s.queueAdmin (s.ctx e c).queue && (bitOf ((s.ctx e c).reg w.a).toNat 12
      || !s.sameSession (s.ctx e c).queue (((s.ctx e c).reg w.a).toNat % 4096)
      || w.fld 13 8 != s.queueSessLabel (s.ctx e c).queue)) = true ↔ MayLabel s e c w := by
  simp only [MayLabel, Bool.and_eq_true, Bool.or_eq_true, Bool.not_eq_true', bne_iff_ne]
  cases s.queueAdmin (s.ctx e c).queue <;> simp [and_assoc]

/-- LBL.SET of a queue. -/
theorem lblSetBody_queue (hm : MayLabel s e c w) (hv : ((s.ctx e c).reg w.a).toNat < 2 ^ 12) :
    (s.queue ((s.ctx e c).reg w.a).toNat = none → lblSetBody e c s w = complete s e c Config.BAD_OPERAND 0)
    ∧ (∀ y, s.queue ((s.ctx e c).reg w.a).toNat = some y → lblSetBody e c s w
      = complete (s.updQueue ((s.ctx e c).reg w.a).toNat (fun y => { y with label := w.fld 13 8 })) e c Config.OK 0) := by
  have hmod : ((s.ctx e c).reg w.a).toNat % 4096 = ((s.ctx e c).reg w.a).toNat := Nat.mod_eq_of_lt hv
  refine ⟨fun h => ?_, fun y h => ?_⟩
  all_goals
    refine (if_neg (mayLabel_iff.mpr hm)).trans ((if_neg (by omega)).trans ((if_neg ?_).trans ?_))
    · exact ne_true_of_eq_false (bitOf_queue hv)
    · rw [hmod, h]

/-- LBL.SET of a session. -/
theorem lblSetBody_session (hm : MayLabel s e c w) (hv : ((s.ctx e c).reg w.a).toNat < 2 ^ 13)
    (hb : bitOf ((s.ctx e c).reg w.a).toNat 12 = true) :
    lblSetBody e c s w =
      let v := ((s.ctx e c).reg w.a).toNat
      if bitsOf v 11 5 ≠ 0 ∨ s.portCount ≤ bitsOf v 4 3 ∨ (s.sess (bitsOf v 4 3) (v % 8)).isOpen = false then
        complete s e c Config.BAD_OPERAND 0
      else complete (s.updSess (bitsOf v 4 3) (v % 8) (fun y => { y with label := w.fld 13 8 })) e c Config.OK 0 :=
  (if_neg (mayLabel_iff.mpr hm)).trans ((if_neg (by omega)).trans (if_pos hb))

/-- LBL.SET of a number that is neither a queue's nor a session's. -/
theorem lblSetBody_none (hm : MayLabel s e c w) (hv : 2 ^ 13 ≤ ((s.ctx e c).reg w.a).toNat) :
    lblSetBody e c s w = complete s e c Config.BAD_OPERAND 0 :=
  (if_neg (mayLabel_iff.mpr hm)).trans (if_pos hv)

end Label

/-! ## Arbiters -/

/-- A requester that an arbiter serves, and that R347 lets bear the mark asked for. -/
theorem markable_iff (a q : Nat) (hi : Bool) :
    ¬(!serves a q || (hi && aheadOf a q)) = true ↔ serves a q = true ∧ (hi = true → aheadOf a q = false) := by
  cases serves a q <;> cases hi <;> simp

/-- A quota that R347 allows. -/
theorem quota_iff (n k : Nat) :
    ¬(decide (n < 2) || decide (1024 < n) || k == 0 || decide (n ≤ k)) = true ↔ 2 ≤ n ∧ n ≤ 1024 ∧ k ≠ 0 ∧ k < n := by
  simp only [Bool.or_eq_true, decide_eq_true_eq, beq_iff_eq]
  omega

/-- Only a media channel's arbiter serves the stream class. -/
theorem takeStrmXfer_below {s : State} {a q : Nat} (h : a < 0x40) : takeStrmXfer s a q = s :=
  if_neg (fun ⟨_, h'⟩ => Nat.not_le.mpr h h')

/-- Settles O29: LBL.SET branches on what its queue may label and on what the number names, the arbiter's instructions on the requester, a
decision on the requester that R281 picks. -/
theorem labelsAndArbiters : Obligations.LabelsAndArbiters := by
  refine ⟨fun s e c w y => ⟨fun hi hb => ?_, fun hi hb => ?_⟩, fun s e c b w => ⟨fun hi => ?_, fun hi => ?_⟩,
    fun s a q p us shared => ⟨fun hr => ⟨fun hp ha => ?_, fun hp ha => ?_, fun hp => ?_⟩, fun hr hp hu => ?_, fun hu => ?_⟩⟩
  · have hm : (w.op == 0x48 && !w.bit 0) = true := op_and_option hi (by simp [hb])
    refine ⟨fun hv may h => exec_issued hi hm rfl ((lblSetBody_queue may hv).2 y h),
      fun hv may h => exec_issued hi hm rfl ((lblSetBody_queue may hv).1 h), fun hs may hk => exec_issued hi hm rfl ?_,
      fun hs may hk => exec_issued hi hm rfl ?_, fun hv may => exec_issued hi hm rfl (lblSetBody_none may hv),
      fun may => exec_issued hi hm rfl (if_pos (Classical.not_not.mp (mt mayLabel_iff.mp may)))⟩
    · obtain ⟨hv, h0, hp, hopen⟩ := hk
      refine (lblSetBody_session may hv hs).trans (if_neg ?_)
      rintro (h | h | h)
      · exact h h0
      · omega
      · cases hopen.symm.trans h
    · by_cases hv : 2 ^ 13 ≤ (((s.issued e c).ctx e c).reg w.a).toNat
      · exact lblSetBody_none may hv
      · refine (lblSetBody_session may (Nat.not_le.mp hv) hs).trans (if_pos (Classical.byContradiction fun hno => ?_))
        simp only [not_or, Classical.not_not, Bool.not_eq_false] at hno
        obtain ⟨h0, hp, hopen⟩ := hno
        exact hk ⟨Nat.not_le.mp hv, h0, Nat.not_le.mp hp, hopen⟩
  · have hm : (w.op == 0x48 && w.bit 0) = true := op_and_option hi hb
    refine ⟨fun hq hr => exec_issued hi hm rfl ((if_neg ?_).trans (if_neg (by omega))),
      fun hq hr => exec_issued hi hm rfl ((if_neg ?_).trans (if_pos (by omega))), fun hq => exec_issued hi hm rfl (if_pos ?_)⟩
    all_goals
      rw [hq]
      decide
  · refine ⟨fun ok h22 => exec_issued_op hi rfl ?_, fun ok h22 hq => exec_issued_op hi rfl ?_,
      fun ok h22 hq => exec_issued_op hi rfl ?_, fun ok => exec_issued_op hi rfl ?_⟩
    · refine (if_neg ((markable_iff _ _ _).mpr ok)).trans ((if_neg ?_).trans ?_)
      · rw [h22]
        exact Bool.false_ne_true
      · dsimp only
        rw [if_neg (ne_true_of_eq_false h22)]
    · refine (if_neg ((markable_iff _ _ _).mpr ok)).trans ((if_neg ?_).trans ?_)
      · rw [h22]
        exact (quota_iff _ _).mpr hq
      · dsimp only
        rw [if_pos h22]
    · refine (if_neg ((markable_iff _ _ _).mpr ok)).trans (if_pos ?_)
      rw [h22]
      exact Classical.not_not.mp (mt (quota_iff _ _).mp hq)
    · exact if_pos (Classical.not_not.mp (mt (markable_iff _ _ _).mp ok))
  · refine ⟨fun hs hb => ⟨fun h0 => exec_issued_op hi rfl ?_, fun h0 => exec_issued_op hi rfl ?_⟩,
      fun hs => exec_issued_op hi rfl ?_, fun hs hb => exec_issued_op hi rfl ?_⟩
    · simp [arbReadBody, hs, hb, h0]
    · simp [arbReadBody, hs, hb, h0]
    · simp [arbReadBody, hs]
    · unfold arbReadBody
      dsimp only
      rw [hs]
      exact (if_neg (by decide)).trans (if_pos hb)
  · refine congrArg Host.Outcome.next ?_
    unfold arbitrationDecision
    rw [hr, hp]
    dsimp only
    rw [if_neg (by decide), if_neg (Nat.not_le.mpr ha), takeStrmXfer_below ha]
  · refine congrArg Host.Outcome.next ?_
    unfold arbitrationDecision
    rw [hr, hp]
    dsimp only
    rw [if_neg (by decide), if_pos ha]
  · refine congrArg Host.Outcome.next ?_
    unfold arbitrationDecision
    rw [hr, hp]
    rfl
  · exact congrArg Host.Outcome.next (if_pos (by simp [hr, hp, hu]))
  · exact congrArg Host.Outcome.next (if_neg (by simp [Nat.not_lt.mpr hu]))

/-! ## The ledger -/

/-- The reserved fields of a commitment block (Table 11-16). -/
theorem blockZeros_iff (n : Nat) :
    ¬(bitsOf n 7 6 ≠ 0 ∨ bitsOf n 15 10 ≠ 0 ∨ bitsOf n 31 28 ≠ 0 ∨ bitsOf n 63 37 ≠ 0 ∨ bitsOf n 255 96 ≠ 0)
      ↔ bitsOf n 7 6 = 0 ∧ bitsOf n 15 10 = 0 ∧ bitsOf n 31 28 = 0 ∧ bitsOf n 63 37 = 0 ∧ bitsOf n 255 96 = 0 := by
  simp only [not_or, Classical.not_not]

/-- A write commitment in READ_ONLY. -/
theorem lateWrite_iff (ro : Bool) (kind : Nat) :
    (ro && (kind == 1 || kind == 2)) = true ↔ ro = true ∧ (kind = 1 ∨ kind = 2) := by
  simp

/-- The figures of a commitment that Table 11-16 allows. -/
theorem askFits_iff (kind room rate : Nat) (mono : Bool) :
    ¬(kind = 3 ∨ room = 0 ∨ 16 < room ∨ rate = 0 ∨ 160000 < rate ∨ (kind = 2 ∧ mono = false))
      ↔ kind ≠ 3 ∧ 1 ≤ room ∧ room ≤ 16 ∧ 1 ≤ rate ∧ rate ≤ 160000 ∧ (kind = 2 → mono = true) := by
  cases mono <;> simp <;> omega

/-- LEDG.ADMIT of a block with its reserved fields zero, no late write, after calibration. -/
theorem ledgAdmitBody_block {s : State} {e c a : Nat} {w : SWord}
    (ha : s.bufArg (s.ctx e c).queue ((s.ctx e c).reg w.a) 32 = (a, Config.OK)) :
    let n := s.bufNum a 32
    let zeros := bitsOf n 7 6 = 0 ∧ bitsOf n 15 10 = 0 ∧ bitsOf n 31 28 = 0 ∧ bitsOf n 63 37 = 0 ∧ bitsOf n 255 96 = 0
    let late := s.maps.readOnly = true ∧ (bitsOf n 9 8 = 1 ∨ bitsOf n 9 8 = 2)
    (¬zeros → ledgAdmitBody e c s w = complete s e c Config.BAD_OPERAND 0)
    ∧ (zeros → late → ledgAdmitBody e c s w = complete s e c Config.READ_ONLY 0)
    ∧ (zeros → ¬late → s.calibrated = false → ledgAdmitBody e c s w = complete s e c Config.BUSY 0)
    ∧ (zeros → ¬late → s.calibrated = true → s.openRegion (bitsOf n 23 16) = none →
      ledgAdmitBody e c s w = complete s e c Config.BAD_OPERAND 0) := by
  refine ⟨fun hz => ?_, fun hz hl => ?_, fun hz hl hc => ?_, fun hz hl hc ho => ?_⟩
  all_goals
    unfold ledgAdmitBody
    dsimp only
    rw [ha]
    refine (if_neg (Classical.not_not.mpr rfl)).trans ?_
  · exact if_pos (Classical.not_not.mp (mt (blockZeros_iff _).mp hz))
  · exact (if_neg ((blockZeros_iff _).mpr hz)).trans (if_pos ((lateWrite_iff _ _).mpr hl))
  · exact (if_neg ((blockZeros_iff _).mpr hz)).trans ((if_neg (mt (lateWrite_iff _ _).mp hl)).trans (if_pos (by rw [hc]; rfl)))
  · refine (if_neg ((blockZeros_iff _).mpr hz)).trans ((if_neg (mt (lateWrite_iff _ _).mp hl)).trans ((if_neg (by simp [hc])).trans ?_))
    dsimp only
    rw [ho]

/-- A table that SLOT.LOAD refuses without FORCE: an owner falls short, a code is none, or the stream class is spaced too far (R277). -/
theorem plainTable_iff (short l : List Nat) (spaced : Bool) :
    (!short.isEmpty || l.any (fun v => decide (0x41 < v) && v != 0xFF) || !spaced) = true
      ↔ ¬(short = [] ∧ l.all (fun o => decide (o ≤ 0x41) || o == 0xFF) = true ∧ spaced = true) := by
  have codes : l.any (fun v => decide (0x41 < v) && v != 0xFF) = !l.all (fun o => decide (o ≤ 0x41) || o == 0xFF) := by
    rw [List.not_all_eq_any_not]
    congr 1
    funext v
    by_cases h : v ≤ 0x41 <;> simp [h, Nat.not_lt.mpr, Nat.not_le.mp, bne]
  rw [codes, ← Bool.not_and, ← Bool.not_and, Bool.not_eq_true', Bool.eq_false_iff, ne_eq, Bool.and_eq_true, Bool.and_eq_true,
    List.isEmpty_iff, and_assoc]

/-- What SLOT.LOAD answers of a table for a channel whose shadow HS6 has not written. -/
theorem slotLoadBody_table {s : State} {e c b : Nat} {w : SWord}
    (hb : s.bufArg (s.ctx e c).queue ((s.ctx e c).reg w.b) 256 = (b, Config.OK)) (hv : ((s.ctx e c).reg w.a).toNat < s.chanCount)
    (hs : (s.slotsOf ((s.ctx e c).reg w.a).toNat).shadowBy ≠ 2) :
    slotLoadBody e c s w =
      let v := ((s.ctx e c).reg w.a).toNat
      let l := (s.bufBytes b 256).map (·.toNat)
      if (!(s.shortOwners v l).isEmpty || l.any (fun v => decide (0x41 < v) && v != 0xFF) || !s.spacingOk v l) && !w.force then
        complete s e c Config.BAD_OPERAND 0
      else
        let hit := (s.regul.commits.filter (fun p => (s.shortOwners v l).contains p.2.owner' && s.charges p.2 v)).map (·.1)
        complete (s.updSlots v (fun y => { y with shadow := l, shadowBy := 1, forced := hit })) e c Config.OK 0 := by
  unfold slotLoadBody
  dsimp only
  rw [hb]
  exact (if_neg (Nat.not_le.mpr hv)).trans ((if_neg (Classical.not_not.mpr rfl)).trans (if_neg hs))

/-- Settles O30: LEDG.ADMIT branches on the checks of its block in their order and on what the admission answers; the others on the operand
that they name. -/
theorem ledgerInstructions : Obligations.LedgerInstructions := by
  refine ⟨fun s e c a d m chans w u r hi ha => ⟨fun hz => exec_issued_op hi rfl ((ledgAdmitBody_block ha).1 hz),
      fun hz hl => exec_issued_op hi rfl ((ledgAdmitBody_block ha).2.1 hz hl),
      fun hz hl hc => exec_issued_op hi rfl ((ledgAdmitBody_block ha).2.2.1 hz hl hc),
      fun hz hl hc ho => exec_issued_op hi rfl ((ledgAdmitBody_block ha).2.2.2 hz hl hc ho), fun hz hl hc ho => ?_⟩,
    fun s e c b chans w u k => ⟨fun hi => ?_, fun hi => ?_, fun hi hb => ?_, fun hi => ?_, fun hi => ?_,
      fun hr hf hl => congrArg Host.Outcome.next (if_pos (by simp [hr, hf, hl]))⟩⟩
  · refine ⟨fun hf => exec_issued_op hi rfl ?_, fun hf ht => exec_issued_op hi rfl ?_,
      fun hf ht => exec_issued_op hi rfl ?_, fun hf ht => exec_issued_op hi rfl ?_⟩
    all_goals
      unfold ledgAdmitBody
      dsimp only
      rw [ha]
      refine (if_neg (Classical.not_not.mpr rfl)).trans ((if_neg ((blockZeros_iff _).mpr hz)).trans
        ((if_neg (mt (lateWrite_iff _ _).mp hl)).trans ((if_neg (by simp [hc])).trans ?_)))
      dsimp only
      rw [ho]
    · exact if_pos (Classical.not_not.mp (mt (askFits_iff _ _ _ _).mp hf))
    all_goals
      refine (if_neg ((askFits_iff _ _ _ _).mpr hf)).trans ?_
      rw [ht]
    all_goals rfl
  · refine ⟨fun hk hid hd => exec_issued_op hi rfl ?_, fun hk hid => exec_issued_op hi rfl ?_, fun hk => exec_issued_op hi rfl ?_⟩
    all_goals
      unfold ledgDropBody
      dsimp only
      rw [hk]
    · refine (if_neg (Classical.not_not.mpr hid)).trans ?_
      rw [hd]
    · exact if_pos hid
  · refine ⟨fun hv hb => exec_issued_op hi rfl ?_, fun hv hv' => exec_issued_op hi rfl (if_pos ⟨hv, hv'⟩)⟩
    unfold ledgQueryBody
    dsimp only
    rw [hb]
    exact (if_neg (by omega)).trans (if_neg (Classical.not_not.mpr rfl))
  · refine ⟨fun hv hs hp => exec_issued_op hi rfl ((slotLoadBody_table hb hv hs).trans ((if_neg ?_).trans ?_)),
      fun hv hs hp hf => exec_issued_op hi rfl ((slotLoadBody_table hb hv hs).trans (if_neg ?_)),
      fun hv hs hp hf => exec_issued_op hi rfl ((slotLoadBody_table hb hv hs).trans (if_pos ?_)),
      fun hv hs => exec_issued_op hi rfl ?_, fun hv => exec_issued_op hi rfl (if_pos hv)⟩
    · exact fun h => (plainTable_iff _ _ _).mp (Bool.and_eq_true_iff.mp h).1 hp
    · obtain ⟨h, -, -⟩ := hp
      have noneShort {l : List (Nat × Commit)} : l.filter (fun _ => false) = [] :=
        List.filter_eq_nil_iff.mpr fun _ _ => Bool.false_ne_true
      dsimp only
      rw [h]
      simp [noneShort]
    · simp [hf]
    · exact Bool.and_eq_true_iff.mpr ⟨(plainTable_iff _ _ _).mpr hp, by rw [hf]; rfl⟩
    · unfold slotLoadBody
      dsimp only
      rw [hb]
      exact (if_neg (Nat.not_le.mpr hv)).trans ((if_neg (Classical.not_not.mpr rfl)).trans (if_pos hs))
  · exact ⟨fun hv hs => exec_issued_op hi rfl (if_neg (by omega)), fun h => exec_issued_op hi rfl (if_pos h)⟩
  · exact ⟨fun h4 h7 hfull => exec_issued_op hi rfl ((if_neg (by omega)).trans (if_neg (ne_true_of_eq_false hfull))),
      fun h4 h7 hfull => exec_issued_op hi rfl ((if_neg (by omega)).trans (if_pos hfull)),
      fun h => exec_issued_op hi rfl (if_pos h)⟩

/-- Settles O31: the table moves to its next entry; at the wrap it branches on whether a swap is armed and on what a forced table leaves
short. -/
theorem slotTablesRotate : Obligations.SlotTablesRotate := by
  intro s ch
  refine fun hr hc => ⟨fun h => congrArg Host.Outcome.next ?_, fun hn ha hf => congrArg Host.Outcome.next ?_,
    fun hn ha hf => congrArg Host.Outcome.next ?_⟩
  all_goals refine (if_pos (by simp [hr, hc])).trans ?_
  · refine if_neg ?_
    rintro ⟨h0, h1⟩
    obtain h | h := h
    · exact h h0
    · cases h.symm.trans h1
  · refine (if_pos ⟨hn, ha⟩).trans ?_
    rw [hf]
    rfl
  · refine (if_pos ⟨hn, ha⟩).trans ?_
    dsimp only
    rw [if_neg (fun h => hf (List.isEmpty_iff.mp h))]

end Sys2Proof.Proofs

/-! PROOFS. Keys, XTS instructions, the re-key of a region (R349, R415, R416, R424, R427, R432 to R437). -/

namespace Sys2Proof.Proofs

open Sys2Proof Sys2Proof.Machine Sys2Proof.Laws

/-! ## Keys and XTS -/

/-- Settles O32: the key instructions complete with what their key answers; an XTS instruction branches on its operands, its key, the
pipelines left and the faults of a chunk. -/
theorem keyInstructions : Obligations.KeyInstructions := by
  intro s e c d b n st w faults
  refine ⟨fun hi => exec_issued_op hi rfl rfl, fun hi => exec_issued_op hi rfl rfl,
    fun hi => ⟨fun h => exec_issued_op hi rfl (if_neg (Nat.not_le.mpr h)), fun h => exec_issued_op hi rfl (if_pos h)⟩,
    fun hi => ⟨fun ha hs => exec_issued_op hi rfl ?_, fun ha hk => exec_issued_op hi rfl ?_,
      fun ha hk => ⟨fun hp => exec_issued_op hi rfl ?_, fun hp hf hm => exec_issued_op hi rfl ?_,
        fun hp hf => exec_issued_op hi rfl ?_⟩⟩,
    fun hi => ⟨fun ha hs => exec_issued_op hi rfl ?_,
      fun ha => ⟨fun hp => exec_issued_op hi rfl ?_, fun hp => exec_issued_op hi rfl ?_⟩⟩⟩
  · unfold xtsEncBody
    rw [ha]
    exact if_pos hs
  · unfold xtsEncBody
    rw [ha]
    exact (if_neg (Classical.not_not.mpr rfl)).trans (if_pos hk)
  · unfold xtsEncBody
    rw [ha]
    exact (if_neg (Classical.not_not.mpr rfl)).trans ((if_neg hk).trans (if_pos (by rw [hp]; rfl)))
  · unfold xtsEncBody
    rw [ha]
    refine (if_neg (Classical.not_not.mpr rfl)).trans ((if_neg hk).trans ((if_neg (by rw [hp]; decide)).trans (if_neg ?_)))
    rintro (h | h)
    · omega
    · cases hm.symm.trans h
  · unfold xtsEncBody
    rw [ha]
    exact (if_neg (Classical.not_not.mpr rfl)).trans ((if_neg hk).trans ((if_neg (by rw [hp]; decide)).trans (if_pos hf)))
  · unfold xtsDecBody
    rw [ha]
    exact if_pos hs
  · unfold xtsDecBody
    rw [ha]
    exact (if_neg (Classical.not_not.mpr rfl)).trans (if_pos (by rw [hp]; rfl))
  · unfold xtsDecBody
    rw [ha]
    exact (if_neg (Classical.not_not.mpr rfl)).trans (if_neg (by rw [hp]; decide))

/-! ## The re-key of a region -/

section Rekey

variable {s : State} {e c idx new : Nat} {r : Region} (ho : s.openRegion idx = some r)
include ho

/-- A re-key of an open region to a key that is none, EMPTY or its own is refused. -/
theorem startRekey_refused (h : ¬(new < 64 ∧ (s.keyRec new).state ≠ 0 ∧ new ≠ r.key)) :
    startRekey s e c idx new = complete s e c Config.BAD_OPERAND 0 := by
  unfold startRekey
  rw [ho]
  exact if_pos (by omega)

variable (hn : new < 64 ∧ (s.keyRec new).state ≠ 0 ∧ new ≠ r.key)
include hn

/-- A re-key to a FATAL key is refused. -/
theorem startRekey_fatal (h : (s.keyRec new).state = 2) : startRekey s e c idx new = complete s e c Config.KEY_FATAL 0 := by
  unfold startRekey
  rw [ho]
  exact (if_neg (by omega)).trans (if_pos h)

/-- A re-key to a LOADED key starts while none runs. -/
theorem startRekey_starts (h : (s.keyRec new).state ≠ 2) (hk : s.keys.rekey = none) :
    startRekey s e c idx new = suspend (putKey { s with keys := { s.keys with
      rekey := some ⟨idx, r.key, new, r.base, r.base, 0, List.replicate 16 noRfx⟩ } } r.key (s.keyRec r.key)) e c (.rekey idx) := by
  unfold startRekey
  rw [ho]
  refine (if_neg (by omega)).trans ((if_neg h).trans ?_)
  rw [hk]

/-- While a re-key runs, a context joins it or finds it BUSY. -/
theorem startRekey_runs (h : (s.keyRec new).state ≠ 2) {k : Rekey} (hk : s.keys.rekey = some k) :
    startRekey s e c idx new =
      if k.region = idx ∧ k.new = new then suspend s e c (.rekey idx) else complete s e c Config.BUSY 0 := by
  unfold startRekey
  rw [ho]
  refine (if_neg (by omega)).trans ((if_neg h).trans ?_)
  rw [hk]

end Rekey

/-- A routine that waits for full service runs in it. -/
theorem fullService_runs {s t u : State} (h : s.fullService = true) : (if (!s.fullService) = true then t else u) = u :=
  if_neg (by rw [h]; decide)

/-- Settles O33: each routine branches on the region and the key that it names and on the re-key that runs; a batch on the pages left. -/
theorem rekeyRoutines : Obligations.RekeyRoutines := by
  refine ⟨fun s e c i r q => ⟨fun hi hf => ?_, fun hi hf => ?_, fun hi hf h0 hfind => ?_, fun hi h0 => ?_⟩,
    fun s u r k found hl hk => ⟨fun hf hp hr => ⟨fun h => ?_, fun h hlt => ?_⟩, fun hr hle hleft hmoves hj hc => ?_, fun hr => ?_⟩⟩
  · refine ⟨fun ⟨ho, hn⟩ hs hk => exec_inHouse hi rfl ((fullService_runs hf).trans (startRekey_starts ho hn hs hk)),
      fun ⟨ho, hn⟩ hs hk h1 h2 => exec_inHouse hi rfl ((fullService_runs hf).trans
        ((startRekey_runs ho hn hs hk).trans (if_pos ⟨h1, h2⟩))),
      fun ⟨ho, hn⟩ hs hk h => exec_inHouse hi rfl ((fullService_runs hf).trans
        ((startRekey_runs ho hn hs hk).trans (if_neg (by omega)))),
      fun ⟨ho, hn⟩ hs => exec_inHouse hi rfl ((fullService_runs hf).trans (startRekey_fatal ho hn hs)),
      fun ho h => exec_inHouse hi rfl ((fullService_runs hf).trans (startRekey_refused ho (fun hn => h ⟨ho, hn⟩))),
      fun ho => exec_inHouse hi rfl ((fullService_runs hf).trans ?_)⟩
    unfold startRekey
    rw [ho]
  · refine ⟨fun ho h0 => exec_inHouse hi rfl ?_, fun ho h0 => exec_inHouse hi rfl ?_, fun ho => exec_inHouse hi rfl ?_⟩
    all_goals
      unfold secureEraseStep
      dsimp only
      rw [ho]
    · exact (fullService_runs hf).trans (if_pos h0)
    · exact (fullService_runs hf).trans (if_neg h0)
  · refine ⟨fun hk hn => exec_inHouse hi rfl ?_, fun hk h1 h2 => exec_inHouse hi rfl ?_, fun hk => exec_inHouse hi rfl ?_⟩
    all_goals
      unfold keyRollStep
      refine (if_pos h0).trans ?_
      rw [hfind]
      refine (fullService_runs hf).trans ?_
    · exact (if_neg (by omega)).trans ((if_neg (fun h => hn (Bool.and_eq_true_iff.mp h))).trans rfl)
    · exact (if_neg (by omega)).trans (if_pos (Bool.and_eq_true_iff.mpr ⟨h1, h2⟩))
    · exact if_pos (by omega)
  · refine ⟨fun hn hk => exec_inHouse hi rfl ?_, fun hn hk => exec_inHouse hi rfl ?_, fun hn => exec_inHouse hi rfl ?_⟩
    all_goals
      unfold keyRollStep
      refine (if_neg h0).trans ?_
      rw [hn]
    · exact if_neg (by rw [hk]; decide)
    · exact if_pos (by rw [hk]; rfl)
  · refine congrArg Host.Outcome.next ?_
    unfold rekeyBatch
    rw [hk]
    dsimp only
    rw [hr]
    exact (if_neg (by simp [hl, hf, hp])).trans (if_pos (by simpa using h))
  · refine congrArg Host.Outcome.next ?_
    unfold rekeyBatch
    rw [hk]
    dsimp only
    rw [hr]
    exact (if_neg (by simp [hl, hf, hp])).trans ((if_neg (by simpa using h)).trans (if_pos hlt))
  · refine congrArg Host.Outcome.next ?_
    unfold rekeyComplete
    rw [hk]
    refine (if_neg (by simp [hl])).trans ?_
    rw [hr]
    refine (if_neg ?_).trans ?_
    · rintro (h | h | h | h)
      · omega
      · obtain ⟨p, hp, hd⟩ := List.any_eq_true.mp h
        exact List.filter_eq_nil_iff.mp hleft p hp hd
      · cases hmoves.symm.trans h
      · cases hj.symm.trans h
    · rw [hc]
  · refine congrArg Host.Outcome.next ?_
    unfold rekeyComplete
    rw [hk]
    refine (if_neg (by simp [hl])).trans ?_
    rw [hr]

end Sys2Proof.Proofs

/-! PROOFS. Shared resources, rails and warnings, resets of a port and of an engine (R315 to R317, R350, R445, R458). -/

namespace Sys2Proof.Proofs

open Sys2Proof Sys2Proof.Machine Sys2Proof.Laws

/-- A check that passes lets the rest run. -/
theorem check_passes {α : Type} {b : Bool} (h : b = true) (x y : α) : (if (!b) = true then x else y) = y :=
  if_neg (by rw [h]; decide)

/-- A check that fails answers. -/
theorem check_fails {α : Type} {b : Bool} (h : b = false) (x y : α) : (if (!b) = true then x else y) = x :=
  if_pos (by rw [h]; rfl)

/-- Settles O34: each instruction branches on what its queue may name, on the resource, and on who holds it. -/
theorem systemInstructions : Obligations.SystemInstructions := by
  intro s e c h w y
  refine ⟨fun hi hf => ?_, fun hi hf => ?_, fun hi => ?_, fun hi => ?_, fun hi => ?_, fun hi hk hq => ?_, fun hi hk => ?_⟩
  · have hm : (w.op == 0x58 && !w.force) = true := op_and_option hi (by simp [hf])
    exact ⟨fun may ok free => exec_issued hi hm rfl ((check_passes may _ _).trans ((check_passes ok _ _).trans (check_passes free _ _))),
      fun may ok free => exec_issued hi hm rfl ((check_passes may _ _).trans ((check_passes ok _ _).trans (check_fails free _ _))),
      fun may ok => exec_issued hi hm rfl ((check_passes may _ _).trans (check_fails ok _ _)),
      fun may => exec_issued hi hm rfl (check_fails may _ _)⟩
  · have hm : (w.op == 0x58 && w.force) = true := op_and_option hi hf
    refine ⟨fun ok hh hne => exec_issued hi hm rfl ((check_passes ok _ _).trans ?_),
      fun ok hh => exec_issued hi hm rfl ((check_passes ok _ _).trans ?_),
      fun ok hh => exec_issued hi hm rfl ((check_passes ok _ _).trans ?_), fun ok => exec_issued hi hm rfl (check_fails ok _ _)⟩
    all_goals rw [hh]
    · exact if_neg hne
    · exact if_pos rfl
  · refine ⟨fun may ok => ⟨fun hh => exec_issued_op hi rfl ((check_passes may _ _).trans ((check_passes ok _ _).trans ?_)),
        fun hh hne => exec_issued_op hi rfl ((check_passes may _ _).trans ((check_passes ok _ _).trans ?_)),
        fun hh => exec_issued_op hi rfl ((check_passes may _ _).trans ((check_passes ok _ _).trans ?_))⟩,
      fun may ok => exec_issued_op hi rfl ((check_passes may _ _).trans (check_fails ok _ _)),
      fun may => exec_issued_op hi rfl (check_fails may _ _)⟩
    all_goals rw [hh]
    · exact if_pos rfl
    · exact if_neg hne
  · refine ⟨fun hn ha hc => exec_issued_op hi rfl ((if_neg ?_).trans ((if_neg ?_).trans rfl)),
      fun hn ha hb hc => exec_issued_op hi rfl ((if_neg ?_).trans (if_pos ?_)), fun h => exec_issued_op hi rfl (if_pos h)⟩
    · simp [Nat.not_lt.mpr hn, ha]
    · intro h
      obtain ⟨hb, hc'⟩ := Bool.and_eq_true_iff.mp h
      rw [hc hb] at hc'
      cases hc'
    · simp [Nat.not_lt.mpr hn, ha]
    · rw [hb, hc]
      rfl
  · exact ⟨fun hl hf => exec_issued_op hi rfl ((if_neg (by omega)).trans ((if_neg (ne_true_of_eq_false hf)).trans rfl)),
      fun hl hf => exec_issued_op hi rfl ((if_neg (by omega)).trans (if_pos (eq_true_of_ne_false hf))),
      fun hl => exec_issued_op hi rfl (if_pos (by omega))⟩
  · have hm : (w.op == 0x61 && w.fld 1 0 == 1) = true := op_and_option hi (by simp [hk])
    refine ⟨fun hp ho => exec_issued hi hm rfl ((if_neg (Nat.not_le.mpr hp)).trans ?_),
      fun hp ho => exec_issued hi hm rfl ((if_neg (Nat.not_le.mpr hp)).trans ?_), fun hp => exec_issued hi hm rfl (if_pos hp)⟩
    all_goals rw [hq]
    · exact if_neg (by simpa using ho)
    · exact if_pos (by simpa using ho)
  · have hm : (w.op == 0x61 && w.fld 1 0 == 2) = true := op_and_option hi (by simp [hk])
    exact ⟨fun hg hp => exec_issued hi hm rfl ((if_neg hg).trans (if_neg hp)),
      fun hg hp => exec_issued hi hm rfl ((if_neg hg).trans (if_pos hp)), fun hg => exec_issued hi hm rfl (if_pos hg)⟩

end Sys2Proof.Proofs

/-! PROOFS. Recorder, counters and NV store; the media bus and the TAP (R392, R403, R497 to R509, R528). -/

namespace Sys2Proof.Proofs

open Sys2Proof Sys2Proof.Machine Sys2Proof.Laws

/-! ## Recorder and counters -/

section Dump

variable {s : State} {e c : Nat} (kind units : Nat) (body : List Byte)

/-- A dump enters the ring of a queue that may use the dump buffer and has one. -/
theorem dumpTo_ring (hm : s.claimOk (s.ctx e c).queue 0x10 = true) (hr : ((s.queue (s.ctx e c).queue).bind (·.ring)).isSome = true) :
    dumpTo s e c kind units body
      = complete (ringPut (takeRes s (s.ctx e c).queue 0x10) (s.ctx e c).queue kind units body) e c Config.OK 0 :=
  (check_passes hm _ _).trans (if_neg (by rw [← Option.not_isSome, hr]; decide))

/-- A dump is refused to a queue without a ring. -/
theorem dumpTo_noRing (hm : s.claimOk (s.ctx e c).queue 0x10 = true)
    (hr : ((s.queue (s.ctx e c).queue).bind (·.ring)).isSome = false) :
    dumpTo s e c kind units body = complete s e c Config.BAD_OPERAND 0 :=
  (check_passes hm _ _).trans (if_pos (by rw [← Option.not_isSome, hr]; rfl))

/-- A dump is refused while another queue holds the dump buffer. -/
theorem dumpTo_taken (hm : s.claimOk (s.ctx e c).queue 0x10 = false) :
    dumpTo s e c kind units body = complete s e c Config.CONFLICT 0 :=
  check_fails hm _ _

end Dump

/-- PERF.CFG of a block in the queue's buffer. -/
theorem perfCfgBody_block {s : State} {e c a : Nat} {w : SWord}
    (ha : s.bufArg (s.ctx e c).queue ((s.ctx e c).reg w.a) 1088 = (a, Config.OK)) :
    perfCfgBody e c s w =
      let q := (s.ctx e c).queue
      let h := s.bufNum a 64
      let sel := (List.range 256).map (fun i => s.bufNum (a + 64 + 4 * i) 4)
      let trig := if w.bit 1 then some (w.fld 3 2) else none
      let want := (if w.bit 0 then [0x10] else []) ++ trig.toList
      if !perfBlockOk h sel (w.bit 0) || !s.bufRange (bufAddr q (bitsOf h 159 128)) (bitsOf h 191 160) then
        complete s e c Config.BAD_OPERAND 0
      else if want.any (fun r => !s.claimOk q r) then complete s e c Config.CONFLICT 0
      else complete (perfSet (want.foldl (fun t r => takeRes t q r) s) q h sel (w.bit 0) trig) e c Config.OK 0 := by
  unfold perfCfgBody
  dsimp only
  rw [ha]
  exact if_neg (Classical.not_not.mpr rfl)

/-- Two checks that both pass. -/
theorem both_pass_iff (a b : Bool) : ¬(!a || !b) = true ↔ a = true ∧ b = true := by
  cases a <;> cases b <;> decide

/-! ## NV store -/

/-- The compaction of an area of the NV store. -/
theorem nvCompaction_area {s : State} (h2 : s.recs.nvState = 2) :
    (s.recs.erased0 < 8 →
      nvCompaction s 0 =
        let old := s.recs.nvHead0 + s.recs.erased0 - 126
        nvDue ((((s.recs.nv.filter (fun x => x.copy0 && x.sect0 == old)).filter (fun x => s.recs.selected x.id == some x)).foldl
          (fun t x => nvAppend t x.kind x.id x.data) s).onRecs (fun r => { r with
            nv := (r.nv.map (fun x => if x.sect0 = old then { x with copy0 := false } else x)).filter (fun x => x.copy0 || x.copy1)
            erased0 := r.erased0 + 1 })))
    ∧ (s.recs.erased1 < 8 →
      nvCompaction s 1 =
        let old := s.recs.nvHead1 + s.recs.erased1 - 126
        nvDue ((((s.recs.nv.filter (fun x => x.copy1 && x.sect1 == old)).filter (fun x => s.recs.selected x.id == some x)).foldl
          (fun t x => nvAppend t x.kind x.id x.data) s).onRecs (fun r => { r with
            nv := (r.nv.map (fun x => if x.sect1 = old then { x with copy1 := false } else x)).filter (fun x => x.copy0 || x.copy1)
            erased1 := r.erased1 + 1 }))) := by
  refine ⟨fun h => ?_, fun h => ?_⟩
  · simp [nvCompaction, h2, Nat.not_le.mpr h]
  · simp [nvCompaction, h2, Nat.not_le.mpr h]

/-- Settles O35: the instructions branch on their operands, on who holds the dump buffer and on the room of the store; a compaction on the
erased sectors of its area. -/
theorem recordInstructions : Obligations.RecordInstructions := by
  refine ⟨fun s e c a q w r => ⟨fun hi hb => ?_, ⟨fun hi hb => ?_, fun hi => ?_⟩, fun hi ha => ?_, fun hl hq hp hc => ?_, fun hi => ?_,
      fun hi => ?_⟩,
    fun s h2 => ⟨fun h => congrArg Host.Outcome.next ((nvCompaction_area h2).1 h),
      fun h => congrArg Host.Outcome.next ((nvCompaction_area h2).2 h)⟩⟩
  · have hm : (w.op == 0x5C && !w.bit 0) = true := op_and_option hi (by simp [hb])
    refine ⟨fun hv ha => exec_issued hi hm rfl ?_, fun hv => exec_issued hi hm rfl (if_pos hv)⟩
    unfold evtReadBody
    dsimp only
    rw [ha]
    exact (if_neg (Nat.not_lt.mpr hv)).trans (if_neg (Classical.not_not.mpr rfl))
  · have hm : (w.op == 0x5C && w.bit 0) = true := op_and_option hi hb
    exact ⟨fun hm' hr => exec_issued hi hm rfl (dumpTo_ring _ _ _ hm' hr),
      fun hm' hr => exec_issued hi hm rfl (dumpTo_noRing _ _ _ hm' hr), fun hm' => exec_issued hi hm rfl (dumpTo_taken _ _ _ hm')⟩
  · exact ⟨fun hm' hr => exec_issued_op hi rfl (dumpTo_ring _ _ _ hm' hr),
      fun hm' hr => exec_issued_op hi rfl (dumpTo_noRing _ _ _ hm' hr), fun hm' => exec_issued_op hi rfl (dumpTo_taken _ _ _ hm')⟩
  · exact ⟨fun hk hw => exec_issued_op hi rfl ((perfCfgBody_block ha).trans
        ((if_neg ((both_pass_iff _ _).mpr hk)).trans (if_neg (ne_true_of_eq_false hw)))),
      fun hk hw => exec_issued_op hi rfl ((perfCfgBody_block ha).trans ((if_neg ((both_pass_iff _ _).mpr hk)).trans (if_pos hw))),
      fun hk => exec_issued_op hi rfl ((perfCfgBody_block ha).trans (if_pos (Classical.not_not.mp (mt (both_pass_iff _ _).mp hk))))⟩
  · refine congrArg Host.Outcome.next ?_
    unfold periodicDump
    rw [hq]
    exact if_pos (by simp [hl, hp, hc])
  · refine ⟨fun hv h1 h2 ha => ⟨fun hf => exec_issued_op hi rfl ?_, fun hf => exec_issued_op hi rfl ?_⟩,
      fun h => exec_issued_op hi rfl (if_pos h)⟩
    all_goals
      unfold nvPutBody
      dsimp only
      rw [ha]
      refine (if_neg (by omega)).trans ((if_neg (Classical.not_not.mpr rfl)).trans ?_)
    · exact if_neg hf
    · exact if_pos hf
  · refine ⟨fun hs ha => exec_issued_op hi rfl ?_, fun hs => exec_issued_op hi rfl ?_⟩
    all_goals
      unfold nvGetBody
      dsimp only
      rw [hs]
    dsimp only
    rw [ha]
    exact if_neg (Classical.not_not.mpr rfl)

/-! ## Media bus and TAP -/

/-- A status record without a refused command or an illegal program. -/
theorem statusClean_iff (illop : Nat) (pres : Nat → Nat) :
    ¬(illop != 0 || (List.range 4).any (fun p => pres p == 6 || pres p == 4)) = true
      ↔ illop = 0 ∧ ∀ p, p < 4 → pres p ≠ 6 ∧ pres p ≠ 4 := by
  simp only [Bool.or_eq_true, bne_iff_ne, List.any_eq_true, List.mem_range, beq_iff_eq, ne_eq, not_or, not_exists, not_and,
    Classical.not_not]

/-- Settles O36: a status record branches on whether its die is accepted and on what its planes report. -/
theorem busAndTap : Obligations.BusAndTap := by
  intro s ch die ir d
  refine ⟨fun hch hst => ⟨congrArg Host.Outcome.next (if_pos ⟨hch, hst⟩), fun hk hc => congrArg Host.Outcome.next ?_,
      fun hk hc => congrArg Host.Outcome.next ?_, fun hk => congrArg Host.Outcome.next (if_neg (fun h => hk h.2.2))⟩,
    fun h0 h2 => congrArg Host.Outcome.next (if_pos (by simp [h0, h2])), rfl⟩
  · refine (if_pos ⟨hch, hst, hk⟩).trans ?_
    dsimp only
    rw [if_neg ((statusClean_iff _ _).mpr hc)]
  · refine (if_pos ⟨hch, hst, hk⟩).trans ?_
    dsimp only
    rw [if_pos (Classical.not_not.mp (mt (statusClean_iff _ _).mp hc))]

end Sys2Proof.Proofs

/-! PROOFS. Write-backs, the journal and checkpoints (R88, R122, R143 to R149, R156, R225, R245, R430). -/

namespace Sys2Proof.Proofs

open Sys2Proof Sys2Proof.Machine Sys2Proof.Laws

/-! ## Programmed copies -/

section Copy

variable {s : State} {page : Nat} {m : Move} (hl : s.live = true) (hm : Tbl.find s.maps.moves page = some m) (hs : m.stage = 0)
  (hn : m.old ≠ m.new) (he : s.earlierPage m = false)
include hl hm hs hn he

/-- A copy that is programmed waits for its tag slots. -/
theorem pageCopyProgrammed_pass :
    pageCopyProgrammed s page true =
      let n := if m.img.mono then 80 else 16
      let s1 := s.onMedium (fun x => { x with pages := Tbl.put x.pages m.new m.img })
      let s2 := sampleFree (count s1 0x09 (s.frame (fxOf m.new)).ch none n) 5
        (if (s.frame (fxOf m.new)).mode = 2 then pageTriplets (posOf m.new) else n)
      pumpAt (releaseTags (skipPair (s2.onMaps (fun x => { x with moves := Tbl.put x.moves page { m with stage := 1 } })) m)) m.new := by
  unfold pageCopyProgrammed
  rw [hm]
  exact (if_neg (by simp [hl, hs, hn, he])).trans (if_pos rfl)

/-- A copy that fails to program leaves its frame due to retire. -/
theorem pageCopyProgrammed_fail {u : State}
    (hu : programFailed (s.updFrame (fxOf m.new) (fun f => { f with hurt := f.hurt ++ [posOf m.new] })) (fxOf m.new) = u) :
    (m.kind = .rekey → pageCopyProgrammed s page false = settle (dropWalk u (fxOf m.new)))
    ∧ (m.kind ≠ .rekey → allocUse u (s.frame (fxOf m.new)).ch m.use = none →
      pageCopyProgrammed s page false = settle (dropMove u page))
    ∧ (∀ ppn nu t, m.kind ≠ .rekey → allocUse u (s.frame (fxOf m.new)).ch m.use = some (ppn, nu, t) →
      pageCopyProgrammed s page false
        = t.onMaps (fun x => { x with moves := Tbl.put x.moves page { m with new := ppn, use := nu } })) := by
  subst hu
  refine ⟨fun hk => ?_, fun hk ha => ?_, fun ppn nu t hk ha => ?_⟩
  all_goals
    unfold pageCopyProgrammed
    rw [hm]
    refine (if_neg (by simp [hl, hs, hn, he])).trans ((if_neg Bool.false_ne_true).trans ?_)
  · exact if_pos hk
  · refine (if_neg hk).trans ?_
    rw [ha]
  · refine (if_neg hk).trans ?_
    rw [ha]

end Copy

/-! ## In-place programs -/

/-- The line as it stands after a step of its program. -/
def steppedLine (s : State) (page line k : Nat) (m : Move) (i : LImg) : State :=
  sampleFree (count (updStored s m.new line (fun x => x.after i.plain k)) 0x09 (s.home page) none 1) 5 1

section InPlace

variable {s : State} {page line k : Nat} {m : Move} {l : Snap} {i : LImg} (hl : s.live = true)
  (hm : Tbl.find s.maps.moves page = some m) (hs : m.stage = 0) (hn : m.old = m.new)
  (hsnap : m.snap.find? (fun p => p.line == line) = some l) (himg : m.img.lines[line % 16]? = some i) (hk : k = m.step line + 1)
include hl hm hs hn hsnap himg hk

/-- A step of an in-place program that fails leaves its line dirty and its frame due to retire. -/
theorem monotoneProgramDone_fail (h4 : k ≤ 4) :
    monotoneProgramDone s page line k false = settle (dropMove (programFailed
      (updStored (s.burn 1) m.new line (fun x => x.within i.plain k s.freeVal)) (fxOf m.new)) page) := by
  unfold monotoneProgramDone
  rw [hm]
  refine (if_neg (by simp [hl, hs, hn, hk]; omega)).trans ?_
  rw [hsnap, himg]
  exact if_pos rfl

/-- A step before the last one is noted. -/
theorem monotoneProgramDone_step (h4 : k < 4) :
    monotoneProgramDone s page line k true = (steppedLine s page line k m i).onMaps (fun x =>
      { x with moves := Tbl.put x.moves page { m with steps := Tbl.put m.steps line k } }) := by
  unfold monotoneProgramDone
  rw [hm]
  refine (if_neg (by simp [hl, hs, hn, hk]; omega)).trans ?_
  rw [hsnap, himg]
  exact (if_neg (by decide)).trans (if_pos h4)

/-- The last step makes the line clean. -/
theorem monotoneProgramDone_last (h4 : k = 4) :
    monotoneProgramDone s page line k true =
      let q := leavePoisonSet (cleanLine (steppedLine s page line k m i) l i.plain false m.buf) page (fun l => l == line)
      let rest := m.snap.filter (fun p => p.line != line)
      if rest.isEmpty then settle (dropMove (count q 0x06 0x3F none 1) page)
      else settle (q.onMaps (fun x => { x with moves := Tbl.put x.moves page { m with snap := rest } })) := by
  unfold monotoneProgramDone
  rw [hm]
  refine (if_neg (by simp [hl, hs, hn, hk]; omega)).trans ?_
  rw [hsnap, himg]
  exact (if_neg (by decide)).trans (if_neg (by omega))

end InPlace

/-- Settles O37: a write-back starts where nothing stands against it; a program report branches on its outcome, on the step and on the lines
left. -/
theorem writeBacks : Obligations.WriteBacks := by
  intro s u page line ch use nu fx ppn found dramBad m l i
  have mayStart : (s.live && s.wbDue page && !s.changing page && !s.rekeying page && !s.blockedMap page && s.pipesLeft && s.houseRoom)
      = true ↔ s.live = true ∧ s.wbDue page = true ∧ s.changing page = false ∧ s.rekeying page = false ∧ s.blockedMap page = false
        ∧ s.pipesLeft = true ∧ s.houseRoom = true := by
    simp [and_assoc]
  refine fun hl => ⟨fun h => congrArg Host.Outcome.next (if_pos (mayStart.mpr ⟨hl, h⟩)),
    fun h => congrArg Host.Outcome.next (if_neg (fun h' => h (mayStart.mp h').2)),
    fun hm hs hn he => ⟨congrArg Host.Outcome.next (pageCopyProgrammed_pass hl hm hs hn he),
      fun hk ha => congrArg Host.Outcome.next ((pageCopyProgrammed_fail hl hm hs hn he rfl).2.2 _ _ _ hk ha),
      fun hk ha => congrArg Host.Outcome.next ((pageCopyProgrammed_fail hl hm hs hn he rfl).2.1 hk ha),
      fun hk => congrArg Host.Outcome.next ((pageCopyProgrammed_fail hl hm hs hn he rfl).1 hk)⟩,
    fun hm hs hn hsnap himg => ⟨fun k hk h4 => congrArg Host.Outcome.next (monotoneProgramDone_step hl hm hs hn hsnap himg hk h4),
      fun h3 hrest => congrArg Host.Outcome.next ((monotoneProgramDone_last hl hm hs hn hsnap himg (by omega) rfl).trans
        (if_pos (List.isEmpty_iff.mpr hrest))),
      fun h3 hrest => congrArg Host.Outcome.next ((monotoneProgramDone_last hl hm hs hn hsnap himg (by omega) rfl).trans
        (if_neg (fun h => hrest (List.isEmpty_iff.mp h)))),
      fun k hk h4 => congrArg Host.Outcome.next (monotoneProgramDone_fail hl hm hs hn hsnap himg hk h4)⟩,
    fun hu ho => congrArg Host.Outcome.next ?_⟩
  refine (if_pos (by rw [hl, hu]; rfl)).trans ?_
  rw [ho]

/-! ## Journal -/

/-- The ACT field of the record of a region change: a removal, a change or a definition (Table 5-8). -/
def regionAct (u : State) (i : Nat) : Option Region → Nat
  | none => 2
  | some _ => flag (u.region i).isSome

/-- A record of a region change begins, unless it is a removal whose pages still change. -/
theorem journalRecordStart_region {s t : State} {place i : Nat} {x : Option Region} {rest : List (Nat × Option Region)}
    (hl : s.live = true) (hb : s.maps.jbody = none) (hr : s.houseRoom = true) (ht : takePlace s = some (place, t))
    (hp : s.maps.jpend = []) (hj : s.maps.jregion = (i, x) :: rest) :
    journalRecordStart s =
      let u := t.onMaps (fun y => { y with jregion := rest })
      let r : JRec := ⟨u.maps.jseq, [], some (i, x), regionAct u i x, place⟩
      if x.isNone && s.dropPending i then s
      else putJournal (u.onMaps (fun y => { y with jbody := some r, jseq := y.jseq + 1 })) r false none := by
  unfold journalRecordStart
  refine (if_pos (by simp [hl, hb, hr])).trans ?_
  rw [ht]
  refine (if_neg (by simp [hp])).trans ?_
  rw [hj]
  cases x <;> rfl

/-- What a checkpoint that starts leaves in its root (R245). -/
def rootOf (s t : State) : Root :=
  let live := s.pers.imageLive
  { cseq := s.pers.cseq + 1, jseqC := s.committedJseq
    dirs := (t.maps.mapDir.filter (fun p => decide (0x20000000 ≤ p.1))).map (fun p => (p.1 - 0x20000000, p.2))
    regions := s.maps.regions, doneFseq := if live then (s.tail.map (·.fseq)).getD 0 else 0
    done := if live then s.doneSlots else [] }

/-- When a checkpoint starts (R245). -/
theorem checkpointDue_iff (s : State) (hl : s.live = true) :
    (s.live && s.pers.ckpt.isNone && (!(s.waiters (fun w => w == .ckpt)).isEmpty || decide (1024 * 512 ≤ s.maps.jframes))) = true
      ↔ s.pers.ckpt = none ∧ (s.waiters (fun w => w == .ckpt) ≠ [] ∨ 1024 * 512 ≤ s.maps.jframes) := by
  simp [hl]

/-- Settles O38: a record takes map entries or one region change; a body or seal branches on its outcome; a checkpoint on whether one is due. -/
theorem journalAndCheckpoints : Obligations.JournalAndCheckpoints := by
  refine ⟨fun s t place i x rest => ?_, fun s t r q => ?_, fun s t r => ?_⟩
  · refine fun hl hb hr ht => ⟨fun hp => congrArg Host.Outcome.next ?_, fun hp hj hx => congrArg Host.Outcome.next ?_,
      fun hp hj hd => congrArg Host.Outcome.next ?_, fun hp hj => congrArg Host.Outcome.next ?_⟩
    · unfold journalRecordStart
      refine (if_pos (by simp [hl, hb, hr])).trans ?_
      rw [ht]
      exact if_pos (by simpa using hp)
    · have stands : ¬(x.isNone && s.dropPending i) = true := by
        obtain hx | hx := hx
        · simp [hx]
        · simp [hx]
      refine (journalRecordStart_region hl hb hr ht hp hj).trans ((if_neg stands).trans ?_)
      cases x <;> rfl
    · exact (journalRecordStart_region hl hb hr ht hp hj).trans (if_pos (by simp [hd]))
    · unfold journalRecordStart
      refine (if_pos (by simp [hl, hb, hr])).trans ?_
      rw [ht]
      refine (if_neg (by simp [hp])).trans ?_
      rw [hj]
  · refine fun hl => ⟨fun hb hs => congrArg Host.Outcome.next ?_, fun hb hs hr => congrArg Host.Outcome.next ?_,
      fun hb hq => congrArg Host.Outcome.next ?_, fun hs => congrArg Host.Outcome.next ?_, fun hs hq => congrArg Host.Outcome.next ?_⟩
    · unfold journalBodyVerified
      rw [hb]
      exact (if_neg (by simp [hl])).trans ((if_neg (by decide)).trans (if_pos (by simp [hs])))
    · unfold journalBodyVerified
      rw [hb]
      exact (if_neg (by simp [hl])).trans ((if_neg (by decide)).trans ((if_neg (by simpa using hs)).trans (if_pos (by simp [hr]))))
    · unfold journalBodyVerified
      rw [hb]
      refine (if_neg (by simp [hl])).trans ((if_pos rfl).trans ?_)
      rw [hq]
    · unfold sealVerified
      rw [hs]
      exact (if_neg (by simp [hl])).trans (if_neg (by decide))
    · unfold sealVerified
      rw [hs]
      refine (if_neg (by simp [hl])).trans ((if_pos rfl).trans ?_)
      rw [hq]
  · refine fun hl => ⟨fun hc hd ht => congrArg Host.Outcome.next ?_, fun h => congrArg Host.Outcome.next (if_neg ?_),
      fun hc => congrArg Host.Outcome.next ?_⟩
    · unfold checkpointStart
      refine (if_pos ((checkpointDue_iff s hl).mpr ⟨hc, hd⟩)).trans ?_
      rw [ht]
    · rw [checkpointDue_iff s hl]
      rintro ⟨hc, hd⟩
      exact h.elim (fun h => h hc) (fun h => h hd)
    · unfold checkpointSealVerified
      rw [hc]
      exact if_neg (by simp [hl])

end Sys2Proof.Proofs

/-! PROOFS. Frames over time: migration, reclaim, clears, retirement, scrub, relocation, repair (R82, R142, R152, R159, R205 to R225). -/

namespace Sys2Proof.Proofs

open Sys2Proof Sys2Proof.Machine Sys2Proof.Laws

/-! ## Clears -/

section ClearDone

variable {s : State} {ch fx md : Nat} {bad : Bool} (hl : s.live = true) (hc : (s.chan ch).clearing = some (fx, md))
include hl hc

/-- A clear that passes makes its frame CLEARED; a JOURNAL frame is ready for records. -/
theorem clearDone_pass (journal : Bool) (hj : (s.chan ch).jdirty.contains fx = journal) :
    clearDone s ch true bad = settle (roExit (pumpDies (afterClear
      (((headerClear s fx md (s.chan ch).clearStamp).updFrame fx (fun f => { f with state := if journal then 6 else 1 })).updChan ch
        (fun c => { c with
          clearing := none, cfailRow := 0, cleared := if journal then c.cleared else c.cleared ++ [fx]
          jdirty := c.jdirty.filter (fun x => x != fx) })) ch fx bad))) := by
  subst hj
  unfold clearDone
  rw [hc]
  exact (if_neg (by simp [hl])).trans (if_pos rfl)

/-- A clear that fails is counted; it is issued again, or its frame retires. -/
theorem clearDone_fail {t : State}
    (ht : s.updChan ch (fun c => { c with cfail := (c.cfail + 1) % 2 ^ 16, cfailRow := c.cfailRow + 1 }) = t) :
    clearDone s ch false bad =
      if (t.chan ch).cfailRow < 2 then issueClear t ch fx md
      else retireFrame (t.updChan ch (fun c => { c with clearing := none })) fx := by
  subst ht
  unfold clearDone
  rw [hc]
  exact (if_neg (by simp [hl])).trans (if_neg Bool.false_ne_true)

end ClearDone

/-- When a staged page migrates (R150 to R152). -/
theorem migrates_iff {s : State} {page : Nat} {r : Region} (hl : s.live = true) :
    (s.live && s.unowned (s.home page) && mapped (s.mapEntry page) && (s.frame (fxOf (s.mapEntry page))).staged
        && ((r.density == 1 && s.oldestStaged (s.home page) == some page)
          || (r.density == 2 && decide ((s.chan (s.home page)).stagingTarget < s.stagedFrames (s.home page))))) = true
      ↔ (mapped (s.mapEntry page) = true ∧ (s.frame (fxOf (s.mapEntry page))).staged = true ∧ s.unowned (s.home page) = true)
        ∧ ((r.density = 1 ∧ s.oldestStaged (s.home page) = some page)
          ∨ (r.density = 2 ∧ (s.chan (s.home page)).stagingTarget < s.stagedFrames (s.home page))) := by
  simp only [hl, Bool.and_eq_true, Bool.or_eq_true, beq_iff_eq, decide_eq_true_eq, true_and]
  exact ⟨fun ⟨⟨⟨free, here⟩, staged⟩, due⟩ => ⟨⟨here, staged, free⟩, due⟩,
    fun ⟨⟨here, staged, free⟩, due⟩ => ⟨⟨⟨free, here⟩, staged⟩, due⟩⟩

/-- Settles O39: each command branches on the state of its frame and channel; a report of a clear on its outcome and on the failures in a
row. -/
theorem framesReclaimed : Obligations.FramesReclaimed := by
  intro s page ch fx md i r found bg bh bad
  refine fun hl => ⟨fun hr => ⟨fun hm hd => congrArg Host.Outcome.next ?_, fun h => congrArg Host.Outcome.next ?_⟩,
    fun hch hv => congrArg Host.Outcome.next ?_,
    fun hd => ⟨fun hj => congrArg Host.Outcome.next ((if_pos (by rw [hl, hd]; rfl)).trans (if_pos hj)),
      fun hj hlive => congrArg Host.Outcome.next ((if_pos (by rw [hl, hd]; rfl)).trans
        ((if_neg (ne_true_of_eq_false hj)).trans (if_pos hlive))),
      fun hj hlive hp hcp => congrArg Host.Outcome.next ((if_pos (by rw [hl, hd]; rfl)).trans
        ((if_neg (ne_true_of_eq_false hj)).trans ((if_neg (Classical.not_not.mpr hlive)).trans (if_neg ?_))))⟩,
    fun hch hcl hb hroom => ⟨fun hp => congrArg Host.Outcome.next ?_, fun hp => congrArg Host.Outcome.next ?_⟩,
    fun hc => ⟨fun hj => congrArg Host.Outcome.next (clearDone_pass hl hc false hj),
      fun hj => congrArg Host.Outcome.next (clearDone_pass hl hc true hj),
      fun h2 => congrArg Host.Outcome.next ((clearDone_fail hl hc rfl).trans (if_pos h2)),
      fun h2 => congrArg Host.Outcome.next ((clearDone_fail hl hc rfl).trans (if_neg (Nat.not_lt.mpr h2)))⟩,
    fun hrun ht => ⟨congrArg Host.Outcome.next ((if_pos (by rw [hrun, ht]; rfl)).trans (if_neg Bool.false_ne_true)),
      congrArg Host.Outcome.next ((if_pos (by rw [hrun, ht]; rfl)).trans (if_pos rfl))⟩⟩
  · unfold migrationStart
    rw [hr]
    exact if_pos ((migrates_iff hl).mpr ⟨hm, hd⟩)
  · unfold migrationStart
    rw [hr]
    exact if_neg (mt (migrates_iff hl).mp h)
  · unfold reclaimStart
    refine (if_neg (by simp [hl, hch])).trans ?_
    rw [hv]
  · rintro (h | h)
    · exact h hp
    · cases hcp.symm.trans h
  · unfold frameClearStart
    refine (if_neg (by simp [hl, hch, hcl, hb, hroom])).trans ?_
    dsimp only
    rw [hp]
  · unfold frameClearStart
    refine (if_neg (by simp [hl, hch, hcl, hb, hroom])).trans ?_
    dsimp only
    rw [hp]

/-! ## Scrub and repair -/

/-- A slot that reads back with two corrected bits or fewer (R208). -/
theorem readsBack_iff (d : Decoded) :
    (match d with
      | .ok b => decide (b ≤ 2)
      | _ => false) = true ↔ ∃ b, d = .ok b ∧ b ≤ 2 := by
  cases d <;> simp

/-- The state after the clear and the pattern of a repair check (R208). -/
def repairTested (s : State) (ch : Nat) (p : Patch) (bad : Bool) : State :=
  let fx := fxOf p.ppn
  let f := s.frame fx
  afterClear ((headerClear (s.onMedium (fun m =>
    { m with
      stampNext := m.stampNext + 1, pages := m.pages.filter (fun q => fxOf q.1 != fx)
      sysPages := m.sysPages.filter (fun q => fxOf q.1 != fx)
      patterns := Tbl.put m.patterns fx (patternSlots f.mode (posOf p.ppn) p.line) })) fx (if f.mode = 2 then 2 else 1)
    s.medium.stampNext).updFrame fx (fun f => { f with state := 0 })) ch fx bad

/-- Whether the clear of a repair check keeps the frame's wear within 1 (R101). -/
def repairFits (s : State) (p : Patch) : Bool :=
  let f := s.frame (fxOf p.ppn)
  ((s.descOf f).map (fun ds => wearOk ds f (if f.mode = 2 then 2 else 1))).getD false

/-- The repair check of a moved frame branches on its wear and on the slot that it reads back. -/
theorem patchRepairCheck_moved {s : State} {ch : Nat} {d : Decoded} {bad : Bool} {p : Patch} {ps : List Patch} (hl : s.live = true)
    (hp : (s.chan ch).patches = p :: ps) (hm : p.moving = true) (hlive : (s.frame (fxOf p.ppn)).live = 0)
    (hpins : (s.frame (fxOf p.ppn)).pins = 0) (hst : (s.frame (fxOf p.ppn)).state ≠ 2) (hci : s.copiesInto (fxOf p.ppn) = false) :
    (repairFits s p = false → patchRepairCheck s ch d bad = retireFrame s (fxOf p.ppn))
    ∧ (repairFits s p = true → (∃ b, d = .ok b ∧ b ≤ 2) → patchRepairCheck s ch d bad =
      let t := (repairTested s ch p bad).updChan ch (fun c => { c with patches := ps })
      if ps.any (fun q => fxOf q.ppn == fxOf p.ppn) then t else t.updChan ch (fun c => { c with free := c.free ++ [fxOf p.ppn] }))
    ∧ (repairFits s p = true → ¬(∃ b, d = .ok b ∧ b ≤ 2) →
      patchRepairCheck s ch d bad = retireFrame (repairTested s ch p bad) (fxOf p.ppn)) := by
  have stands : ¬(!s.live || !p.moving || (s.frame (fxOf p.ppn)).live != 0 || (s.frame (fxOf p.ppn)).pins != 0
      || (s.frame (fxOf p.ppn)).state == 2 || s.copiesInto (fxOf p.ppn)) = true := by
    simp [hl, hm, hlive, hpins, hst, hci]
  refine ⟨fun h => ?_, fun h hg => ?_, fun h hg => ?_⟩
  all_goals
    unfold patchRepairCheck
    rw [hp]
    refine (if_neg stands).trans ?_
  · exact check_fails h _ _
  · exact (check_passes h _ _).trans (if_pos ((readsBack_iff d).mpr hg))
  · exact (check_passes h _ _).trans (if_neg (mt (readsBack_iff d).mp hg))

/-- Settles O40: each command branches on its channel's state; the repair check on the wear, the slot that it reads back and the other
entries of the frame. -/
theorem scrubAndRepair : Obligations.ScrubAndRepair := by
  intro s ch d bad x xs p ps found hdrs shifts
  refine ⟨fun hl hch hd => ⟨fun h => congrArg Host.Outcome.next ?_, fun h => congrArg Host.Outcome.next ?_⟩,
    fun hl ht hr => ⟨fun h => congrArg Host.Outcome.next ?_, fun h => congrArg Host.Outcome.next ?_⟩,
    fun hl hf hp => congrArg Host.Outcome.next ?_,
    fun hl hp hm hlive hpins hst hci => ⟨fun h => congrArg Host.Outcome.next ?_, fun h hg ho => congrArg Host.Outcome.next ?_,
      fun h hg ho => congrArg Host.Outcome.next ?_, fun h hg => congrArg Host.Outcome.next ?_⟩,
    fun hl => ⟨fun h => congrArg Host.Outcome.next ?_, fun e he h => congrArg Host.Outcome.next ?_⟩,
    fun hu hd hc => ⟨fun h h' => congrArg Host.Outcome.next ?_, fun h => congrArg Host.Outcome.next ?_⟩⟩
  · unfold scrubPassStart
    refine (if_pos (by simp [hl, hch, hd])).trans ?_
    rw [h]
  · unfold scrubPassStart
    refine (if_pos (by simp [hl, hch, hd])).trans ?_
    obtain ⟨k, hk⟩ := Option.ne_none_iff_exists'.mp h
    rw [hk]
  · unfold relocationStart
    rw [hr]
    exact (if_neg (by simp [hl, ht])).trans (if_neg (Classical.not_not.mpr h))
  · unfold relocationStart
    rw [hr]
    exact (if_neg (by simp [hl, ht])).trans (if_pos h)
  · unfold patchFrameMove
    rw [hp]
    exact if_neg (by simp [hl, hf])
  · exact (patchRepairCheck_moved hl hp hm hlive hpins hst hci).1 h
  · exact ((patchRepairCheck_moved hl hp hm hlive hpins hst hci).2.1 h hg).trans (if_neg (ne_true_of_eq_false ho))
  · exact ((patchRepairCheck_moved hl hp hm hlive hpins hst hci).2.1 h hg).trans (if_pos ho)
  · exact (patchRepairCheck_moved hl hp hm hlive hpins hst hci).2.2 h hg
  · refine if_pos ?_
    rw [hl]
    cases hlast : s.medium.stamps.getLast? with
    | none => rfl
    | some e => simpa using h e hlast
  · refine if_neg ?_
    rw [hl, he]
    simpa using h
  · exact (if_pos ⟨hu, hd, hc⟩).trans (if_pos (Bool.and_eq_true_iff.mpr ⟨h, beq_iff_eq.mpr h'⟩))
  · refine (if_pos ⟨hu, hd, hc⟩).trans (if_neg (fun h' => ?_))
    obtain ⟨h1, h2⟩ := Bool.and_eq_true_iff.mp h'
    exact h.elim (fun h => by cases h.symm.trans h1) (fun h => h (beq_iff_eq.mp h2))

end Sys2Proof.Proofs

/-! PROOFS. Device resets, the house routines of the device, SMBus commands (R42, R107, R237, R248, R254, R462, R463, R473). -/

namespace Sys2Proof.Proofs

open Sys2Proof Sys2Proof.Machine Sys2Proof.Laws

/-! ## Device resets -/

/-- An instruction issues only while no flush and no power-down runs. -/
theorem issued_noShutdown {s : State} {e c op : Nat} {w : SWord} (hi : s.issues e c w op = true) :
    (s.issued e c).flushing = false ∧ (s.issued e c).goose.downStep = 0 := by
  have hs : s.flushing = false ∧ s.goose.downStep = 0 := by
    simp only [State.issues, State.canStep, State.live, State.serves, Bool.and_eq_true, Bool.not_eq_true', beq_iff_eq] at hi
    obtain ⟨⟨⟨⟨⟨⟨steps, -⟩, -⟩, -⟩, -⟩, -⟩, -⟩ := hi
    obtain ⟨⟨⟨⟨⟨⟨⟨⟨⟨-, hf⟩, hd⟩, -⟩, -⟩, -⟩, -⟩, -⟩, -⟩, -⟩ := steps
    exact ⟨hf, hd⟩
  obtain ⟨r, b, g, l, n, h⟩ := countersOnly_issued s e c
  rw [h]
  exact hs

/-- A reset that is requested flushes dirty lines first. -/
theorem requestReset_calm {s : State} (hf : s.flushing = false) (hd : s.goose.downStep = 0) :
    requestReset s =
      if 0 < s.cache.dirty then { startFlush s 4 with boot := { (startFlush s 4).boot with resetWait := 1 } }
      else deviceReset { s with ports := s.ports.map (fun p => if p.up then p.sendDown 2 else p) } :=
  if_neg (by simp [hf, hd])

/-- Settles O41: RESET branches on its KIND, FORCE and the dirty lines, RESET_N on what runs. -/
theorem deviceResets : Obligations.DeviceResets := by
  intro s e c w
  refine ⟨fun hi => ?_, fun hu hf hd => congrArg Host.Outcome.next (if_neg ?_), fun h => congrArg Host.Outcome.next (if_pos h),
    fun hu hr hio => congrArg Host.Outcome.next (if_pos ⟨hu, hr, hio⟩), fun h => congrArg Host.Outcome.next (if_neg ?_),
    fun hf hw => congrArg Host.Outcome.next (if_pos (by simp [hf, hw]))⟩
  · obtain ⟨hf, hd⟩ := issued_noShutdown hi
    have kind {k : Nat} (h : w.fld 1 0 = k) (hk : k = 0 ∨ k = 3) :
        (w.op == 0x61 && (w.fld 1 0 == 0 || w.fld 1 0 == 3)) = true :=
      op_and_option hi (by obtain rfl | rfl := hk <;> simp [h])
    exact ⟨fun h0 hforce => exec_issued hi (kind h0 (.inl rfl)) rfl ((if_neg (by omega)).trans (if_pos hforce)),
      fun h0 hforce hdirty => exec_issued hi (kind h0 (.inl rfl)) rfl ((if_neg (by omega)).trans
        ((if_neg (ne_true_of_eq_false hforce)).trans ((requestReset_calm hf hd).trans (if_pos hdirty)))),
      fun h0 hforce hdirty => exec_issued hi (kind h0 (.inl rfl)) rfl ((if_neg (by omega)).trans
        ((if_neg (ne_true_of_eq_false hforce)).trans ((requestReset_calm hf hd).trans (if_neg (by omega))))),
      fun h3 => exec_issued hi (kind h3 (.inr rfl)) rfl (if_pos h3)⟩
  · rintro (h | h | h)
    · exact h hu
    · cases hf.symm.trans h
    · exact h hd
  · rintro ⟨hu, hr, hio⟩
    obtain h | h | h := h
    · exact h hu
    · cases hr.symm.trans h
    · cases hio.symm.trans h

/-! ## House routines -/

/-- Settles O42: H.INIT and H.FORMAT branch on their checks in their order, H.REBUILD on full service. -/
theorem houseRoutines : Obligations.HouseRoutines := by
  intro s e c a b k
  refine ⟨fun hi => ⟨fun hs => exec_inHouse hi rfl ?_, fun hs hf => exec_inHouse hi rfl ?_,
      fun hs hf => ⟨fun hx => exec_inHouse hi rfl ?_, fun hx hon => exec_inHouse hi rfl ?_,
        fun hx hon ha => exec_inHouse hi rfl ?_, fun hx hon ha => exec_inHouse hi rfl ?_⟩⟩,
    fun hi ht hk => ?_, fun hi ht => congrArg Host.Outcome.next (if_neg (ne_true_of_eq_false ht)),
    fun hi => ⟨fun hf => exec_inHouse hi rfl (check_passes hf _ _), fun hf => exec_inHouse hi rfl (check_fails hf _ _)⟩⟩
  · unfold hInit
    rw [hs]
  · unfold hInit
    rw [hs]
    exact check_fails hf _ _
  · unfold hInit
    rw [hs]
    exact (check_passes hf _ _).trans (if_pos hx)
  · unfold hInit
    rw [hs]
    refine (check_passes hf _ _).trans ((if_neg hx).trans ((if_neg (by simp [hon])).trans ?_))
    dsimp only
    rw [if_pos hon]
  · unfold hInit
    rw [hs]
    refine (check_passes hf _ _).trans ((if_neg hx).trans ((if_neg (by simp [ha])).trans ?_))
    dsimp only
    rw [if_neg (ne_true_of_eq_false hon)]
  · unfold hInit
    rw [hs]
    exact (check_passes hf _ _).trans ((if_neg hx).trans (if_pos (by simp [hon, ha])))
  · subst hk
    exact ⟨fun hf => exec_inHouse hi (congrArg Host.Outcome.next (if_pos ht)) (check_fails hf _ _),
      fun hf h => exec_inHouse hi (congrArg Host.Outcome.next (if_pos ht)) ((check_passes hf _ _).trans (if_pos h)),
      fun hf hk h2 => exec_inHouse hi (congrArg Host.Outcome.next (if_pos ht)) ((check_passes hf _ _).trans
        ((if_neg (by omega)).trans (if_pos h2))),
      fun hf hk h0 h2 => ⟨fun hb hc => exec_inHouse hi (congrArg Host.Outcome.next (if_pos ht)) ((check_passes hf _ _).trans
          ((if_neg (by omega)).trans ((if_neg h2).trans ((if_neg (ne_true_of_eq_false hb)).trans (if_neg hc))))),
        fun hb hc => exec_inHouse hi (congrArg Host.Outcome.next (if_pos ht)) ((check_passes hf _ _).trans
          ((if_neg (by omega)).trans ((if_neg h2).trans ((if_neg (ne_true_of_eq_false hb)).trans (if_pos hc))))),
        fun hb hd => exec_inHouse hi (congrArg Host.Outcome.next (if_pos ht)) ((check_passes hf _ _).trans
          ((if_neg (by omega)).trans ((if_neg h2).trans ((if_pos hb).trans (if_neg (Classical.not_not.mpr hd)))))),
        fun hb hd => exec_inHouse hi (congrArg Host.Outcome.next (if_pos ht)) ((check_passes hf _ _).trans
          ((if_neg (by omega)).trans ((if_neg h2).trans ((if_pos hb).trans (if_pos hd)))))⟩⟩

/-! ## SMBus -/

/-- Settles O43: every command answers while VAUX is up; RESTART branches on its byte, a command on its number. -/
theorem smbusCommands : Obligations.SmbusCommands := by
  intro s v cmd
  refine fun hv => ⟨congrArg Host.Outcome.next (if_pos hv), congrArg Host.Outcome.next (if_pos hv),
    congrArg Host.Outcome.next (if_pos hv), fun ha => congrArg Host.Outcome.next ((if_pos ha).trans (if_pos hv)),
    fun ha => congrArg Host.Outcome.next (if_neg (ne_true_of_eq_false ha)),
    congrArg Host.Outcome.next ((if_neg (Classical.not_not.mpr rfl)).trans (if_pos hv)),
    fun h => congrArg Host.Outcome.next ((if_pos h).trans (if_pos hv)),
    fun h => congrArg Host.Outcome.next ((if_neg ?_).trans (if_pos hv))⟩
  simp only [Bool.and_eq_true, decide_eq_true_eq, not_and]
  obtain rfl | h := h
  · decide
  · omega

end Sys2Proof.Proofs

/-! PROOFS. Power-up, rails and supplies (R236, R440 to R449, R452, R475). -/

namespace Sys2Proof.Proofs

open Sys2Proof Sys2Proof.Machine Sys2Proof.Laws

/-! ## Rails -/

/-- A rail after a change of it. -/
theorem rail_updRail {s : State} {n : Nat} {f : Rail → Rail} (h : n < s.goose.rails.length) :
    (s.updRail n f).rail n = f (s.rail n) := by
  simp [State.rail, State.updRail, State.onGoose, updAt, List.getD_eq_getElem?_getD, List.getElem?_eq_getElem h]

section PgChange

variable {s : State} {n chatter : Nat} {level : Bool} (hv : s.goose.vaux = true) (hn : n < 12) (hlen : n < s.goose.rails.length)
include hv hn hlen

/-- A change of PG branches on whether its rail is on. -/
theorem railPgChange_rail :
    railPgChange s n level chatter =
      let t := s.updRail n (fun x => { x with pg := level, chat := chatter })
      if !(s.rail n).on && level && s.goose.downStep != 0 then (if (s.rail n).inFault then t else noteFault t n)
      else if (s.rail n).on && ((!level && !(s.rail n).ramp)
          || (s.goose.upStep != 0 && s.goose.upStep != 8 && decide (8 < chatter))) then railFaults t [n]
      else railClear t n := by
  unfold railPgChange
  refine (if_neg (by simp [hv, hn])).trans ?_
  dsimp only
  rw [rail_updRail hlen]
  rfl

end PgChange

/-- Settles O44: each command branches on the rail's and the supply's state; an input that fails on what runs. -/
theorem railsAndSupply : Obligations.RailsAndSupply := by
  refine ⟨fun s mv n chatter level => ⟨fun hv hk hd hl hc ht hm => congrArg Host.Outcome.next ?_,
      fun h1 h7 hd hr => congrArg Host.Outcome.next ?_, fun h7 hd hr => congrArg Host.Outcome.next ?_,
      fun hon hramp hg => congrArg Host.Outcome.next (if_pos (by simp [hon, hramp, hg])),
      fun hv hn hlen => ⟨fun hon hl hr => congrArg Host.Outcome.next ?_, fun hon hp hc => congrArg Host.Outcome.next ?_,
        fun hon hl hp => congrArg Host.Outcome.next ?_, fun hon hl hd hf => congrArg Host.Outcome.next ?_,
        fun hon hl hd hf => congrArg Host.Outcome.next ?_, fun hon hl => congrArg Host.Outcome.next ?_⟩,
      fun hr => congrArg Host.Outcome.next (if_pos hr),
      fun hi hg => congrArg Host.Outcome.next (if_pos (by rw [hi, hg]; rfl))⟩,
    fun s mvs vin vaux mv => ⟨fun hv => congrArg Host.Outcome.next (check_passes hv _ _),
      fun hv hc hr => congrArg Host.Outcome.next ?_, fun hv hc hr => congrArg Host.Outcome.next ?_,
      fun hv hc => congrArg Host.Outcome.next ?_, fun hv hm hc hr => congrArg Host.Outcome.next ?_,
      fun hv hm hc hr => congrArg Host.Outcome.next ?_, fun hv hm hc => congrArg Host.Outcome.next ?_,
      fun hv hm => congrArg Host.Outcome.next ?_, fun hv hm => congrArg Host.Outcome.next ?_⟩⟩
  · exact (if_pos (by simp [hv, hk, hd, hl, hc, ht, hm])).trans rfl
  · exact (if_neg (by omega)).trans ((if_pos hr).trans (if_pos h7))
  · refine (if_neg (by omega)).trans ((if_pos hr).trans ((if_neg (by omega)).trans ?_))
    simp
  · refine (railPgChange_rail hv hn hlen).trans ((if_neg ?_).trans (if_pos ?_)) <;> simp [hon, hl, hr]
  · refine (railPgChange_rail hv hn hlen).trans ((if_neg ?_).trans (if_pos ?_))
    · simp [hon]
    · simp [hon, hp, hc]
  · refine (railPgChange_rail hv hn hlen).trans ((if_neg ?_).trans (if_neg ?_))
    · simp [hon]
    · simp only [Bool.and_eq_true, Bool.or_eq_true, Bool.not_eq_true', bne_iff_ne, decide_eq_true_eq]
      rintro ⟨-, ⟨h1, h2⟩ | h⟩
      · obtain h | h := hl
        · cases h.symm.trans h1
        · cases h.symm.trans h2
      · exact hp h
  · exact (railPgChange_rail hv hn hlen).trans ((if_pos (by simp [hon, hl, hd])).trans (if_neg (ne_true_of_eq_false hf)))
  · exact (railPgChange_rail hv hn hlen).trans ((if_pos (by simp [hon, hl, hd])).trans (if_pos hf))
  · refine (railPgChange_rail hv hn hlen).trans ((if_neg ?_).trans (if_neg ?_))
    · obtain h | h := hl <;> simp [h]
    · simp [hon]
  · exact (if_pos hv).trans ((if_neg hc).trans (if_pos hr))
  · exact (if_pos hv).trans ((if_neg hc).trans (if_neg (ne_true_of_eq_false hr)))
  · exact (if_pos hv).trans (if_pos hc)
  · exact (if_pos (by simp [hv, hm])).trans ((if_neg hc).trans (if_pos hr))
  · exact (if_pos (by simp [hv, hm])).trans ((if_neg hc).trans (if_neg (ne_true_of_eq_false hr)))
  · exact (if_pos (by simp [hv, hm])).trans (if_pos hc)
  · refine (if_pos (by simp [hv, hm])).trans ?_
    simp
  · exact if_pos (by simp [hv, hm])

end Sys2Proof.Proofs

/-! PROOFS. Start phases and the rebuild; temperatures, stops and wedges (R248, R252, R454 to R460, R465 to R485). -/

namespace Sys2Proof.Proofs

open Sys2Proof Sys2Proof.Machine Sys2Proof.Laws

/-! ## Starts -/

/-- In a device that is up and runs down nowhere, a start phase that has done its work hands over. -/
theorem startPhase_idle {s : State}
    (h : s.flushing = false ∧ s.goose.downStep = 0 ∧ s.goose.stopping = false ∧ s.goose.upStep = 8) :
    ¬(s.flushing || s.goose.downStep != 0 || s.goose.stopping || s.goose.upStep != 8) = true := by
  obtain ⟨hf, hd, hs, hu⟩ := h
  simp [hf, hd, hs, hu]

/-- A rebuild that is under way goes on. -/
theorem rebuild_runs {s : State} (hl : s.live = true) (h1 : 1 ≤ s.pers.rebuild) (h10 : s.pers.rebuild ≤ 10) :
    ¬(!s.live || s.pers.rebuild = 0 || decide (11 ≤ s.pers.rebuild)) = true := by
  simp only [hl, Bool.or_eq_true, Bool.not_eq_true', decide_eq_true_eq]
  rintro ((h | h) | h)
  · cases h
  · omega
  · omega

/-- A step of the rebuild after the fifth is none of the first five. -/
theorem rebuild_late {k : Nat} (h : 6 ≤ k) {a b c d e f : State} :
    (if k = 1 then a else if k = 2 then b else if k = 3 then c else if k = 4 then d else if k = 5 then e else f) = f := by
  rw [if_neg (by omega), if_neg (by omega), if_neg (by omega), if_neg (by omega), if_neg (by omega)]

/-- Settles O45: the strap window branches on its samples, a start phase on its number and on what it waits for, a step of the rebuild on its
number. -/
theorem startPhases : Obligations.StartPhases := by
  intro s w v n ms m lost bad ord env
  refine ⟨fun hw => ⟨fun hok => congrArg Host.Outcome.next ?_, fun hok => congrArg Host.Outcome.next ?_,
      fun hne => congrArg Host.Outcome.next ?_⟩, fun hidle => ?_, fun hl => ?_,
    fun hl h5 hr ht hres hsys => congrArg Host.Outcome.next (if_pos (by simp [hl, h5, hr, ht, hres, hsys]))⟩
  · exact (check_passes hw _ _).trans ((check_passes (by simp) _ _).trans (if_pos hok))
  · exact (check_passes hw _ _).trans ((check_passes (by simp) _ _).trans (if_neg (ne_true_of_eq_false hok)))
  · exact (check_passes hw _ _).trans (check_fails (by simp [hne]) _ _)
  · refine ⟨fun h2 hf => congrArg Host.Outcome.next ((if_neg (startPhase_idle hidle)).trans ?_),
      fun h3 hm hr => congrArg Host.Outcome.next ((if_neg (startPhase_idle hidle)).trans ?_),
      fun h4 hr => congrArg Host.Outcome.next ((if_neg (startPhase_idle hidle)).trans ?_),
      fun h5 hr => congrArg Host.Outcome.next ((if_neg (startPhase_idle hidle)).trans ?_),
      fun h6 => congrArg Host.Outcome.next ((if_neg (startPhase_idle hidle)).trans ?_)⟩
    · rw [h2]
      exact if_neg (ne_true_of_eq_false hf)
    · rw [h3]
      exact if_neg (by simp [hm, hr])
    · rw [h4]
      exact if_pos hr
    · rw [h5]
      exact if_pos (by obtain h | h := hr <;> simp [h])
    · rw [h6]
      rfl
  · refine ⟨fun h => congrArg Host.Outcome.next ((if_neg (rebuild_runs hl (by omega) (by omega))).trans ?_),
      fun h => congrArg Host.Outcome.next ((if_neg (rebuild_runs hl (by omega) (by omega))).trans ?_),
      fun h => congrArg Host.Outcome.next ((if_neg (rebuild_runs hl (by omega) (by omega))).trans ?_),
      fun h => congrArg Host.Outcome.next ((if_neg (rebuild_runs hl (by omega) (by omega))).trans ?_),
      fun h => congrArg Host.Outcome.next ((if_neg (rebuild_runs hl (by omega) (by omega))).trans ?_),
      fun h6 h8 ho => congrArg Host.Outcome.next ((if_neg (rebuild_runs hl (by omega) (by omega))).trans ?_),
      fun h6 h8 ho => congrArg Host.Outcome.next ((if_neg (rebuild_runs hl (by omega) (by omega))).trans ?_),
      fun h => congrArg Host.Outcome.next ((if_neg (rebuild_runs hl (by omega) (by omega))).trans ?_),
      fun h hr => congrArg Host.Outcome.next ((if_neg (rebuild_runs hl (by omega) (by omega))).trans ?_),
      fun h hr => congrArg Host.Outcome.next ((if_neg (rebuild_runs hl (by omega) (by omega))).trans ?_)⟩
    · exact if_pos h
    · exact (if_neg (by omega)).trans (if_pos h)
    · exact (if_neg (by omega)).trans ((if_neg (by omega)).trans (if_pos h))
    · exact (if_neg (by omega)).trans ((if_neg (by omega)).trans ((if_neg (by omega)).trans (if_pos h)))
    · exact (if_neg (by omega)).trans ((if_neg (by omega)).trans ((if_neg (by omega)).trans ((if_neg (by omega)).trans (if_pos h))))
    · refine (rebuild_late (by omega)).trans ((if_pos h8).trans ?_)
      rw [ho]
    · refine (rebuild_late (by omega)).trans ((if_pos h8).trans ?_)
      rw [ho]
    · exact (rebuild_late (by omega)).trans ((if_neg (by omega)).trans (if_pos h))
    · exact (rebuild_late (by omega)).trans ((if_neg (by omega)).trans ((if_neg (by omega)).trans
        (if_pos (List.isEmpty_iff.mpr hr))))
    · exact (rebuild_late (by omega)).trans ((if_neg (by omega)).trans ((if_neg (by omega)).trans
        (if_neg (fun h => hr (List.isEmpty_iff.mp h)))))

/-! ## Temperatures -/

/-- The warning after a temperature sample (R458). -/
def warnedOf (t : State) : State :=
  let hit := t.goose.warnLevel != 0 && t.goose.sites.any (fun x => decide (16 * (t.goose.warnLevel : Int) < x.temp))
  if t.serves = false ∨ hit = t.goose.warn then t else if hit then warnRaise t else warnClear t

/-- A sample enters the registers and drives the warning, then the hottest sites decide. -/
theorem tempSample_vaux {s : State} {temps : List Int} {speeds : List Nat} (hv : s.goose.vaux = true) :
    tempSample s temps speeds =
      let t := s.onGoose (fun g => g.takeTemps temps speeds (s.rail 0).good)
      if s.goose.upStep = 0 then warnedOf t
      else if t.goose.sites.any (fun x => decide (2 ≤ x.over115)) && s.goose.downCause != 2 then trip (warnedOf t)
      else if t.goose.sites.any (fun x => decide (2 ≤ x.over110)) && !s.goose.stopping && s.goose.downCause == 0 && !t.flushing
          && s.goose.downStep == 0 && (!t.boot.full || decide (1 < t.boot.tapIr)) then orderlyStop (warnedOf t)
      else warnedOf t := by
  have driven (t : State) (level : Bool) :
      (if !t.serves || level == t.goose.warn then t else if level then warnRaise t else warnClear t)
        = if t.serves = false ∨ level = t.goose.warn then t else if level then warnRaise t else warnClear t := by
    simp only [Bool.or_eq_true, Bool.not_eq_true', beq_iff_eq]
  unfold tempSample
  refine (check_passes hv _ _).trans ?_
  dsimp only
  rw [driven]
  rfl

/-- What a site above 110 degrees stops in order: a device that runs, nothing stopping it yet, before full service or under the TAP (R457). -/
theorem stops_iff (warm : Bool) (g : Goose) (t : State) :
    (warm && !g.stopping && g.downCause == 0 && !t.flushing && g.downStep == 0 && (!t.boot.full || decide (1 < t.boot.tapIr))) = true
      ↔ warm = true ∧ g.stopping = false ∧ g.downCause = 0 ∧ t.flushing = false ∧ g.downStep = 0
        ∧ (t.boot.full = false ∨ 1 < t.boot.tapIr) := by
  simp only [Bool.and_eq_true, Bool.or_eq_true, Bool.not_eq_true', beq_iff_eq, decide_eq_true_eq, and_assoc]

/-- Settles O46: a sample branches on the hottest sites and on what runs; the other commands on the state of the supervisor. -/
theorem temperatures : Obligations.Temperatures := by
  intro s temps speeds hs
  refine ⟨fun hv => ⟨fun hu => congrArg Host.Outcome.next ((tempSample_vaux hv).trans (if_pos hu)),
      fun hu hh => congrArg Host.Outcome.next ((tempSample_vaux hv).trans ((if_neg hu).trans (if_pos ?_))),
      fun hu hh hw hst => congrArg Host.Outcome.next ((tempSample_vaux hv).trans ((if_neg hu).trans ((if_neg ?_).trans (if_pos ?_)))),
      fun hu hh hw => congrArg Host.Outcome.next ((tempSample_vaux hv).trans ((if_neg hu).trans ((if_neg ?_).trans (if_neg ?_))))⟩,
    fun hst hf hd => ⟨fun hm hdirty => congrArg Host.Outcome.next ?_, fun h => congrArg Host.Outcome.next ?_⟩,
    fun hv ht hu hl hc => congrArg Host.Outcome.next (if_pos (by rw [hv, ht, hu, hl, hc]; rfl)),
    fun hu hd => congrArg Host.Outcome.next (if_pos (by rw [hu, hd]; rfl)),
    fun hu hd => congrArg Host.Outcome.next (if_pos (by rw [hu, hd]; rfl))⟩
  · exact Bool.and_eq_true_iff.mpr ⟨hh.1, bne_iff_ne.mpr hh.2⟩
  · exact fun h => hh ⟨(Bool.and_eq_true_iff.mp h).1, bne_iff_ne.mp (Bool.and_eq_true_iff.mp h).2⟩
  · exact (stops_iff _ _ _).mpr ⟨hw, hst⟩
  · exact fun h => hh ⟨(Bool.and_eq_true_iff.mp h).1, bne_iff_ne.mp (Bool.and_eq_true_iff.mp h).2⟩
  · exact fun h => hw ((stops_iff _ _ _).mp h)
  · exact (if_pos (by rw [hst, hf, hd]; rfl)).trans (if_pos (Bool.and_eq_true_iff.mpr ⟨hm, decide_eq_true hdirty⟩))
  · refine (if_pos (by rw [hst, hf, hd]; rfl)).trans (if_neg fun both => ?_)
    obtain ⟨may, some⟩ := Bool.and_eq_true_iff.mp both
    exact h.elim (fun no => Bool.false_ne_true (no.symm.trans may)) (fun none => Nat.ne_of_gt (of_decide_eq_true some) none)

/-! ## Flush and power-down -/

/-- An input that is below its window, or reported so by PFAIL_N, is not back (R450). -/
theorem input_gone {pf : Bool} {mv : Nat} (h : pf = false ∨ mv < 900) : ¬(pf && decide (900 ≤ mv)) = true := by
  simpa only [Bool.and_eq_true, decide_eq_true_eq, Classical.not_and_iff_not_or_not, Bool.not_eq_true, Nat.not_le] using h

/-- Settles O47: a step of the flush branches on its number, its end on its cause and on the input. -/
theorem flushRuns : Obligations.FlushRuns := by
  intro s f faulted unread pf mv
  refine fun hf => ⟨fun hd => ?_, fun hd hs hh => ?_, fun hh hs => ?_, fun hd hs => congrArg Host.Outcome.next ?_⟩
  · have runs : ¬s.pers.flushDone = true := ne_true_of_eq_false hd
    obtain ⟨k, cause, start⟩ := f
    refine ⟨fun h => congrArg Host.Outcome.next ?_, fun h => congrArg Host.Outcome.next ?_, fun h => congrArg Host.Outcome.next ?_,
      fun h => congrArg Host.Outcome.next ?_, fun h => congrArg Host.Outcome.next ?_, fun h => congrArg Host.Outcome.next ?_,
      fun h => congrArg Host.Outcome.next ?_⟩
    all_goals
      unfold flushStepDone
      rw [hf]
      refine (if_neg runs).trans ?_
      dsimp only at h
    · obtain rfl | rfl | rfl := h <;> rfl
    all_goals
      subst h
      rfl
  · have ends : ¬(!s.pers.flushDone || s.goose.downStep != 0 || s.goose.hold10) = true := by simp [hd, hs, hh]
    refine ⟨fun hc => congrArg Host.Outcome.next ?_, fun hc h4 => congrArg Host.Outcome.next ?_,
      fun hc h3 => congrArg Host.Outcome.next ?_, fun hc h3 h4 hp hm => congrArg Host.Outcome.next ?_,
      fun hc h3 h4 h => congrArg Host.Outcome.next ?_⟩
    all_goals
      unfold flushComplete
      rw [hf]
      refine (if_neg ends).trans ?_
    · exact if_pos hc
    · exact (if_neg (Classical.not_not.mpr hc)).trans (if_pos h4)
    · exact (if_neg (Classical.not_not.mpr hc)).trans ((if_neg (by omega)).trans (if_pos h3))
    · exact (if_neg (Classical.not_not.mpr hc)).trans ((if_neg h4).trans ((if_neg h3).trans
        (if_pos (Bool.and_eq_true_iff.mpr ⟨hp, decide_eq_true hm⟩))))
    · exact (if_neg (Classical.not_not.mpr hc)).trans ((if_neg h4).trans ((if_neg h3).trans (if_neg (input_gone h))))
  · refine ⟨fun hc => congrArg Host.Outcome.next ?_, fun hc hp hm hheld => congrArg Host.Outcome.next ?_,
      fun hc h => congrArg Host.Outcome.next ?_⟩
    all_goals refine (if_pos (by rw [hh, hs]; rfl)).trans ?_
    · exact if_pos hc
    · exact (if_neg (Classical.not_not.mpr hc)).trans (if_pos (Bool.and_eq_true_iff.mpr
        ⟨Bool.and_eq_true_iff.mpr ⟨hp, decide_eq_true hm⟩, hheld⟩))
    · refine (if_neg (Classical.not_not.mpr hc)).trans (if_neg fun all => ?_)
      obtain ⟨input, held⟩ := Bool.and_eq_true_iff.mp all
      obtain h | h | h := h
      · exact input_gone (.inl h) input
      · exact input_gone (.inr h) input
      · exact h held
  · unfold flushStall
    rw [hf]
    exact if_neg (by simp [hd, hs])

/-- Settles O48: a step of power-down branches on its number, on the supplies and on the save. -/
theorem powerDownSteps : Obligations.PowerDownSteps := by
  intro s0 k n ok
  refine ⟨fun h => congrArg Host.Outcome.next (if_pos h), fun hk => ?_, fun h => congrArg Host.Outcome.next (if_pos h)⟩
  subst hk
  refine ⟨fun h2 h5 => congrArg Host.Outcome.next ((if_neg (by omega)).trans (if_pos h5)),
    fun h6 hok hh => congrArg Host.Outcome.next ((if_neg (by omega)).trans ((if_neg (by omega)).trans ((if_pos h6).trans (if_pos ?_)))),
    fun h6 h => congrArg Host.Outcome.next ((if_neg (by omega)).trans ((if_neg (by omega)).trans ((if_pos h6).trans (if_neg ?_)))),
    fun h7 hn => congrArg Host.Outcome.next ((if_neg (by omega)).trans ((if_neg (by omega)).trans ((if_neg (by omega)).trans
      ((if_pos h7).trans ?_)))),
    fun h7 hn => congrArg Host.Outcome.next ((if_neg (by omega)).trans ((if_neg (by omega)).trans ((if_neg (by omega)).trans
      ((if_pos h7).trans ?_)))),
    fun h7 => congrArg Host.Outcome.next ((if_neg (by omega)).trans ((if_neg (by omega)).trans ((if_neg (by omega)).trans
      (if_neg (by omega)))))⟩
  · exact Bool.and_eq_true_iff.mpr ⟨Bool.and_eq_true_iff.mpr ⟨hok, hh.1⟩, bne_iff_ne.mpr hh.2⟩
  · intro all
    obtain ⟨supplies, warm⟩ := Bool.and_eq_true_iff.mp all
    obtain ⟨aux, rails⟩ := Bool.and_eq_true_iff.mp supplies
    exact h.elim (fun no => Bool.false_ne_true (no.symm.trans aux)) (fun no => no ⟨rails, bne_iff_ne.mp warm⟩)
  · dsimp only
    rw [if_pos hn]
    rfl
  · dsimp only
    rw [if_neg (ne_true_of_eq_false hn)]
    rfl

end Sys2Proof.Proofs

/-! PROOFS. What register and flow instructions leave alone; what stores to the queue buffers write (R300, R302, R330, R373). -/

namespace Sys2Proof.Proofs

open Sys2Proof Sys2Proof.Machine Sys2Proof.Laws

/-! ## The frame of a register or flow instruction -/

/-- From s to t the counting of an issue and one context change: of the context the registers that A names and, where F holds, the
flags stay. -/
structure StepFrame (e c : Nat) (A : BitVec 5 → Prop) (F : Prop) (s t : State) : Prop where
  counted : ∃ (r : Records) (n : Nat) (x : Tbl Ctx) (b : List (Nat × Byte)) (g : List Nat) (l : Tbl Nat),
    t = { s with recs := r, free := n, eng := { s.eng with ctx := x, buf := b, trig := g, lastStep := l } }
  bytes : s.recs.ringQ = none → t.eng.buf = s.eng.buf
  other : ∀ f d, d < 32 → c < 32 → (f ≠ e ∨ d ≠ c) → t.ctx f d = s.ctx f d
  regs : ∀ k, A k → (t.ctx e c).reg k = (s.ctx e c).reg k
  flags : F → flagsOf (t.ctx e c).st = flagsOf (s.ctx e c).st

/-- Counting, then a change of one context. -/
theorem stepFrame_of_counted {e c : Nat} {A : BitVec 5 → Prop} {F : Prop} {s u t : State} (hu : CountersOnly s u)
    (hb : s.recs.ringQ = none → u.eng.buf = s.eng.buf) (h : CtxFrame e c A F u t) : StepFrame e c A F s t := by
  obtain ⟨⟨⟨x, rfl⟩, other⟩, regs, flags⟩ := h
  obtain ⟨r, b, g, l, n, rfl⟩ := hu
  exact ⟨⟨_, _, x, _, _, _, rfl⟩, hb, other, regs, flags⟩

/-- A program's step keeps the frame of its own part, whether it issues or not. -/
theorem synStep_stepFrame {e c : Nat} {A : BitVec 5 → Prop} {F : Prop} {s : State} {mine : SWord → Bool}
    {body : State → SWord → State} (hb : ∀ u, CtxFrame e c A F u (body u (s.wordAt e c))) :
    StepFrame e c A F s (synStep s e c mine body) := by
  obtain h | h | h := synStep_frame (mine := mine) hb
  · exact stepFrame_of_counted (CountersOnly.refl s) (fun _ => rfl) h
  · exact stepFrame_of_counted ((CountersOnly.refl s).took e c) (fun _ => rfl) h
  · exact stepFrame_of_counted (countersOnly_issued s e c) (fun hr => buf_issued hr e c) h

section Bodies

variable {e c : Nat} {A : BitVec 5 → Prop} {F : Prop} (u : State) (w : SWord)

/-- SET writes D. -/
theorem setBody_frame (hd : ∀ k, A k → k ≠ w.d) : CtxFrame e c A F u (setBody e c u w) := CtxFrame.refl.completeD hd _ _ _

/-- A change of the flags. -/
theorem withFlags_frame (hf : ¬F) (g : Ctx → Flg) : CtxFrame e c A F u (u.updCtx e c (fun x => x.withFlags (g x))) :=
  CtxFrame.refl.updCtx _ (fun _ _ _ => rfl) (fun _ h => absurd h hf)

/-- ADD, AND, OR and XOR write D and the flags. -/
theorem aluBody_frame (hd : ∀ k, A k → k ≠ w.d) (hf : ¬F) (f : W64 → W64 → W64 × Flg) : CtxFrame e c A F u (aluBody e c f u w) :=
  (withFlags_frame u hf _).completeD hd _ _ _

/-- SHF writes D and the flags. -/
theorem shfBody_frame (hd : ∀ k, A k → k ≠ w.d) (hf : ¬F) : CtxFrame e c A F u (shfBody e c u w) :=
  (withFlags_frame u hf _).completeD hd _ _ _

/-- CMP writes the flags. -/
theorem cmpBody_frame (hf : ¬F) : CtxFrame e c A F u (cmpBody e c u w) := (withFlags_frame u hf _).complete _ _

/-- STEP writes STATUS. -/
theorem stepBody_frame : CtxFrame e c A F u (stepBody e c u w) := by
  unfold stepBody
  split
  · exact CtxFrame.refl.complete _ _
  · exact CtxFrame.refl.complete _ _

/-- BR jumps or goes on. -/
theorem brBody_frame : CtxFrame e c A F u (brBody e c u w) := by
  unfold brBody
  split
  · exact CtxFrame.refl.complete _ _
  · exact CtxFrame.refl.jumpTo _
  · exact CtxFrame.refl.complete _ _

/-- LOOP writes A. -/
theorem loopBody_frame (ha : ∀ k, A k → k ≠ w.a) : CtxFrame e c A F u (loopBody e c u w) := by
  have counted (v : W64) : CtxFrame e c A F u (u.updCtx e c (fun x => x.setReg w.a v)) :=
    CtxFrame.refl.updCtx _ (fun x k hk => by rw [reg_setReg, if_neg (ha k hk)]) (fun _ _ => rfl)
  unfold loopBody
  dsimp only
  split
  · exact (counted _).complete _ _
  · exact (counted _).jumpTo _

/-- A change of the return stack. -/
theorem stack_frame (f : Ctx → List Nat) : CtxFrame e c A F u (u.updCtx e c (fun x => { x with stack := f x })) :=
  CtxFrame.refl.updCtx _ (fun _ _ _ => rfl) (fun _ _ => rfl)

/-- CALL pushes and jumps, or ends the task. -/
theorem callBody_frame : CtxFrame e c A F u (callBody e c u w) := by
  unfold callBody
  dsimp only
  split
  · exact CtxFrame.refl.endTask _ _
  · exact (stack_frame u _).jumpTo _

/-- RET pops and jumps, or ends the task. -/
theorem retBody_frame : CtxFrame e c A F u (retBody e c u w) := by
  unfold retBody
  split
  · exact CtxFrame.refl.endTask _ _
  · exact (stack_frame u _).jumpTo _

end Bodies

/-- Registers that an instruction must keep: all but D of SET and the results, and but A of LOOP. -/
def keptRegs (e c : Nat) (w : SWord) (i : Instr) (k : BitVec 5) : Prop :=
  (i ∈ Instr.set e c :: [Instr.add e c, .and e c, .or e c, .xor e c, .shf e c] → k ≠ w.d) ∧ (i = .loop e c → k ≠ w.a)

/-- Instructions that must keep the flags. -/
def keepsFlags (e c : Nat) (i : Instr) : Prop :=
  i ∈ Instr.set e c :: .loop e c :: [Instr.step e c, .jmp e c, .br e c, .call e c, .ret e c, .endTask e c, .yield e c]

/-- Every register or flow instruction keeps its frame: each by the frame of its own part. -/
theorem exec_stepFrame {s t : State} {e c : Nat} {i : Instr}
    (hi : i ∈ Instr.set e c :: .cmp e c :: .loop e c :: ([Instr.add e c, .and e c, .or e c, .xor e c, .shf e c]
      ++ [Instr.step e c, .jmp e c, .br e c, .call e c, .ret e c, .endTask e c, .yield e c]))
    (h : exec i s = .next t) : StepFrame e c (keptRegs e c (s.wordAt e c) i) (keepsFlags e c i) s t := by
  have body {mine : SWord → Bool} {f : State → SWord → State} (hx : exec i s = .next (synStep s e c mine f))
      (hf : ∀ u, CtxFrame e c (keptRegs e c (s.wordAt e c) i) (keepsFlags e c i) u (f u (s.wordAt e c))) :
      StepFrame e c (keptRegs e c (s.wordAt e c) i) (keepsFlags e c i) s t := by
    cases hx.symm.trans h
    exact synStep_stepFrame hf
  have notD (hm : i ∈ Instr.set e c :: [Instr.add e c, .and e c, .or e c, .xor e c, .shf e c]) (k : BitVec 5)
      (hk : keptRegs e c (s.wordAt e c) i k) : k ≠ (s.wordAt e c).d := hk.1 hm
  simp only [List.mem_cons, List.mem_append, List.not_mem_nil, or_false] at hi
  obtain rfl | rfl | rfl | (rfl | rfl | rfl | rfl | rfl) | (rfl | rfl | rfl | rfl | rfl | rfl | rfl) := hi
  · exact body rfl fun u => setBody_frame u _ (notD (by simp))
  · exact body rfl fun u => cmpBody_frame u _ (by simp [keepsFlags])
  · exact body rfl fun u => loopBody_frame u _ (fun k hk => hk.2 rfl)
  · exact body rfl fun u => aluBody_frame u _ (notD (by simp)) (by simp [keepsFlags]) _
  · exact body rfl fun u => aluBody_frame u _ (notD (by simp)) (by simp [keepsFlags]) _
  · exact body rfl fun u => aluBody_frame u _ (notD (by simp)) (by simp [keepsFlags]) _
  · exact body rfl fun u => aluBody_frame u _ (notD (by simp)) (by simp [keepsFlags]) _
  · exact body rfl fun u => shfBody_frame u _ (notD (by simp)) (by simp [keepsFlags])
  · exact body rfl fun u => stepBody_frame u _
  · exact body rfl fun u => CtxFrame.refl.jumpTo _
  · exact body rfl fun u => brBody_frame u _
  · exact body rfl fun u => callBody_frame u _
  · exact body rfl fun u => retBody_frame u _
  · exact body rfl fun u => CtxFrame.refl.endTask _ _
  · exact body rfl fun u => CtxFrame.refl.complete _ _

/-- Settles O54: the instruction's step frame, read part by part. -/
theorem registerFrame : Obligations.RegisterFrame := by
  intro s t e c i logic other w hi h
  obtain ⟨⟨r, n, x, b, g, l, rfl⟩, bytes, others, regs, flags⟩ := exec_stepFrame hi h
  exact ⟨⟨rfl, rfl, rfl, rfl, rfl, rfl, rfl, rfl, rfl, rfl⟩, ⟨rfl, rfl, rfl, rfl, rfl, rfl⟩,
    fun hr a => congrArg (Tbl.getD · a 0) (bytes hr), others, fun k hd ha => regs k ⟨hd, ha⟩, flags⟩

/-! ## Stores to the queue buffers -/

/-- A store's bytes are as many as asked for. -/
theorem bytesOf_length (v n : Nat) : (bytesOf v n).length = n := by
  rw [bytesOf, List.length_map, List.length_range]

/-- The words of a management write are four bytes each. -/
theorem wordBytes_length (ws : List W32) : (ws.flatMap (fun v => bytesOf v.toNat 4)).length = 4 * ws.length := by
  induction ws with
  | nil => rfl
  | cons v ws ih =>
    rw [List.flatMap_cons, List.length_append, bytesOf_length, ih, List.length_cons]
    omega

/-- An issued ST that its queue may do stores the low bytes of B: issuing changes neither the context nor what the queue reaches. -/
theorem exec_st_buffer {s : State} {e c a : Nat} {w : SWord} (dram : Dram) (hi : s.issues e c w 0x18 = true)
    (hp : memAddr ((s.ctx e c).reg w.a) w = some (.buf a)) (hk : s.bufCheck (s.ctx e c).queue a (2 ^ w.fld 27 26) = Config.OK) :
    exec (.st e c dram) s = .next (complete ((s.issued e c).bufStore a
      (bytesOf (((s.ctx e c).reg w.b).toNat % 2 ^ (8 * 2 ^ w.fld 27 26)) (2 ^ w.fld 27 26))) e c Config.OK 0) := by
  have kept : (s.issued e c).ctx e c = s.ctx e c ∧ ∀ q n, (s.issued e c).bufCheck q a n = s.bufCheck q a n := by
    obtain ⟨r, b, g, l, n, h⟩ := countersOnly_issued s e c
    rw [h]
    exact ⟨rfl, fun _ _ => rfl⟩
  obtain ⟨hctx, hcheck⟩ := kept
  obtain ⟨-, -, stored, -⟩ := loadStoreResults s e c a w dram
  rw [hctx, hcheck] at stored
  exact stored hi hp hk

/-- What a session reaches of the buffers does not change as a management transaction of it arrives. -/
theorem bufStatus_mgtArrived (s : State) (p tag words n a len : Nat) :
    (s.mgtArrived p tag words).bufStatus p n a len = s.bufStatus p n a len := by
  unfold State.bufStatus
  rw [sess_mgtArrived]
  rfl

/-- Settles O55: the store's bytes read as written; what comes before and after the store touches no buffer. -/
theorem bufferStores : Obligations.BufferStores := by
  intro s e c a p n tag w ws dram x l m hr
  refine ⟨fun hi hp hk => ?_, fun hs hh ho hw ha hk => ?_⟩
  · rw [bytesOf_length] at hk
    refine ⟨_, exec_st_buffer dram hi hp hk, fun b => ?_⟩
    calc (complete ((s.issued e c).bufStore a l) e c Config.OK 0).bufByte b
        = ((s.issued e c).bufStore a l).bufByte b := congrArg (Tbl.getD · b 0) (buf_complete _ _ _ _ _)
      _ = if a ≤ b ∧ b < a + l.length then l.getD (b - a) 0 else (s.issued e c).bufByte b := bufByte_bufStore _ _ _ _
      _ = if a ≤ b ∧ b < a + l.length then l.getD (b - a) 0 else s.bufByte b := by
        rw [show (s.issued e c).bufByte b = s.bufByte b from congrArg (Tbl.getD · b 0) (buf_issued hr e c)]
  · rw [wordBytes_length, ← bufStatus_mgtArrived s p tag ws.length] at hk
    obtain ⟨-, stored, -⟩ := managementAccesses.2 s p n tag a 0 0 0 ws true hs hh ho
    exact ⟨_, stored hw ha hk, fun b => bufByte_bufStore (s.mgtArrived p tag ws.length) a b m⟩

end Sys2Proof.Proofs
